-- ==== Sys2Proof/Word.lean ====
section
/-!
DEFINITION. The word types of the Cital 9648 model: bytes and the little and big words that the manual's
layouts draw (R6, R7). Bits are numbered from 0, the least significant.
-/

namespace Sys2Proof

/-- One byte. -/
abbrev Byte := BitVec 8
/-- A 16-bit word. -/
abbrev U16 := BitVec 16
/-- A 32-bit word: one row of a layout table, one register (00_scope, "Field maps and layouts"). -/
abbrev U32 := BitVec 32
/-- A 64-bit word. -/
abbrev U64 := BitVec 64

end Sys2Proof
end

