-- ==== Sys2Proof/Syntax.lean ====
section
/-!
DEFINITION. The commands of the block: one constructor of `Instr` for each row of spec/opcode_table.json, with
the operands each step takes from outside (the spec's table gives its rows no operand fields, so the operands are
read from the rule that each row names: log entry 1).
-/

namespace Sys2Proof

/-- The three transports of R64. -/
inductive Via where
  | hp | udp | i2c
deriving DecidableEq, Repr, Inhabited

/-- A UDP peer: address as 128 bits (IPv4 mapped, R6) and port. -/
structure Peer where
  addr : BitVec 128 := 0
  port : U16 := 0
deriving DecidableEq, Repr, Inhabited

/-- What raises an endpoint reset (R426). -/
inductive EndpointResetKind where
  | perstN | hotReset | functionLevel
deriving DecidableEq, Repr, Inhabited

/-- What a test of Table 15-5 measures on a unit; each test reads its own fields. -/
structure UnitResult where
  /-- tests 1, 3, 4 and 5: deviation in parts per 10⁹; test 6: deviation in m°C -/
  deviation : Int := 0
  /-- test 2: error of the current in nA at codes 0x100, 0x800 and 0xFFF -/
  errors : Int × Int × Int := (0, 0, 0)
  /-- test 5: lock time in ns -/
  lockNs : Nat := 0
  /-- test 7 -/
  fom : Nat := 255
  uncorrectable : Bool := false
  /-- test 8 -/
  bitErrors : Nat := 0
deriving DecidableEq, Repr, Inhabited

/-- What the hardware finds while a start stage runs (Tables 2-3 and 2-7): the facts that the stage's own
checks cannot read from the state. -/
structure StageReport where
  /-- time of the stage in µs, carried by START_RELEASED -/
  timeUs : U32 := 0
  /-- the stage's bound was exceeded (Table 2-7, last row) -/
  overran : Bool := false
  /-- S2: lockstep self-check of pairs 0 and 1 (R53) -/
  pair0Pass : Bool := true
  pair1Pass : Bool := true
  /-- regions that fail bring-up or self-test (S5, S6, S6b) -/
  failedRegions : BitVec 16 := 0
  /-- controllers that fail training, the checker self-test or the pattern test (S7, S7b) -/
  failedMcs : BitVec 16 := 0
  /-- blocks that fail self-test: region, block -/
  failedBlocks : List (Fin 16 × Fin 4) := []
  /-- cells that fail self-test: region, block, cell -/
  failedCells : List (Fin 16 × Fin 4 × Fin 17) := []
  /-- S6c: one result per unit in the order of Table 15-5 (R408) -/
  results : List UnitResult := []
deriving DecidableEq, Repr, Inhabited

/-- What a shutdown step reports when it completes (Table 2-9). -/
structure StepReport where
  /-- step 3 reached its 10 s bound before the content store took the copy -/
  timedOut : Bool := false
  /-- step 4: one result per unit in the order of Table 15-5 (R408) -/
  results : List UnitResult := []
deriving DecidableEq, Repr, Inhabited

/-- A PCIe configuration write that bears on HP (R425, R433, Table 17-1). -/
inductive PcieCfg where
  | busMaster (on : Bool)
  | powerState (d3hot : Bool)
  | msixEnable (on : Bool)
  | functionMask (on : Bool)
deriving DecidableEq, Repr, Inhabited

/-- A UDP datagram with what its frame shows of the layers of Table 4-1. -/
structure Datagram where
  src     : Peer := default
  dstAddr : BitVec 128 := 0
  dstPort : U16 := 0
  /-- VLAN ID of the frame's one tag; 0 for an untagged or priority-tagged frame -/
  vlan    : BitVec 12 := 0
  payload : List Byte := []
  /-- the FCS is right -/
  fcsGood : Bool := true
  /-- the frame carries stacked tags -/
  stacked : Bool := false
  /-- the IP packet is a fragment -/
  fragment : Bool := false
  /-- the IP header has IPv4 options or IPv6 extension headers -/
  options : Bool := false
  /-- the UDP checksum field; 0 for none -/
  checksum : U16 := 0
deriving DecidableEq, Repr, Inhabited

/-- The frames of Table 4-1 that are neither DST, CCI nor PTP. IPv4 addresses of an echo are mapped (R6). -/
inductive ControlFrame where
  | arpRequest (mac : BitVec 48) (sender target : BitVec 32)
  | neighborSolicitation (mac : BitVec 48) (sender target : BitVec 128)
  | icmpEcho (sender target : BitVec 128) (body : List Byte)
  | igmpQuery
  | mldQuery
  | pause
  | unsupported
deriving DecidableEq, Repr, Inhabited

/-- What another drive holds (Table 4-7): the identity of its store, its items as (ITEM, CREATED, packets as a `store_put` buffer has them), and the
bytes of its persistence copies A and B as far as they are written. -/
structure DriveContent where
  identity : U64 := 0
  items : List (U32 × U32 × List Byte) := []
  copyA : List Byte := []
  copyB : List Byte := []
deriving DecidableEq, Repr, Inhabited

/-- What a drive that comes up reports (R116): its size in bytes, the first feature of R116 that it lacks, and what it holds,
where it is another drive than the one that stood there before. -/
structure DriveReport where
  capacity : Nat := 0
  missing  : Option U32 := none
  content  : Option DriveContent := none
deriving DecidableEq, Repr, Inhabited

/-- What the scrubber, a reader or a write found at a word (R309, R326, R328, R336, R337). -/
inductive ScrubFinding where
  | clean
  /-- the scrubber: the device corrected the word, whose 64 bytes then read so -/
  | corrected (word : List Byte)
  /-- the scrubber: the device reports the word uncorrectable; `linkCrc` when a write failed its link CRC (R326) -/
  | uncorrectable (linkCrc : Bool)
  /-- the controller's code reads a strong word with these bytes in error: byte 0 to 71 of word and check bytes, and what is
  added to it; by the scrubber, or by a reader whose device reports an error that it cannot correct (R328) -/
  | strong (reader : Bool) (errors : List (Fin 72 × Byte))
  /-- a reader: the device corrected the word -/
  | readCorrected (word : List Byte)
  /-- a reader: the device reports an uncorrectable error -/
  | readUncorrectable
  /-- a read fails its link CRC in every retry (R326) -/
  | readCrc
  /-- the pass over the controller's words ends -/
  | passEnd (seconds : U32)
deriving DecidableEq, Repr, Inhabited

/-- A unit of Table 14-1 (R378): UNIT_CLASS and UNIT. -/
structure UnitId where
  cls  : Nat := 0
  unit : Nat := 0
deriving DecidableEq, Repr, Inhabited

/-- A pair declared failed (R390, R391): the cause; the transport whose front message it had taken and not yet carried out, and
whether the journal held a record of that message; and whether it had appended the record of step 5 of a `shutdown` that
had not yet reached step 6. -/
structure TakeoverReport where
  cause : Fin 8 := 1
  inHand : Option (Via × Bool) := none
  recordAppended : Bool := false
deriving DecidableEq, Repr, Inhabited

/-- What the header of a PTP message announces it to be (R361). Times are in 1/16 ns, identities 64 bits. -/
inductive PtpBody where
  /-- Sync; of a two-step master where its Follow_Up gives t1 -/
  | sync (twoStep : Bool) (t1 : Int)
  | followUp (t1 : Int)
  | delayReq
  /-- Delay_Resp: its receiveTimestamp and requestingPortIdentity -/
  | delayResp (t4 : Int) (requester : U64) (requesterPort : U16)
  /-- Announce: its timescale, the grandmaster's fields and identity, stepsRemoved, currentUtcOffset, and its
  logMessageInterval as an interval in ns -/
  | announce (ptpScale : Bool) (priority1 clockClass accuracy : Byte) (variance : U16) (priority2 : Byte)
      (gm : U64) (steps : U16) (utcOffset : U16) (intervalNs : Nat)
  /-- Signaling, Management, peer delay and every other message -/
  | other
deriving DecidableEq, Repr, Inhabited

/-- A PTP message as a port hears it (R361). -/
structure PtpMsg where
  /-- carried by UDP over IP -/
  udp : Bool := true
  dstAddr : BitVec 128 := 0xFFFFE0000181#128
  dstPort : U16 := 319
  /-- VLAN ID of the frame's tag; 0 for none -/
  vlan : BitVec 12 := 0
  domain : Byte := 127
  /-- sourcePortIdentity and sequenceId -/
  source : U64 := 0
  sourcePort : U16 := 1
  seq : U16 := 0
  /-- correctionField, 1/16 ns -/
  corr : Int := 0
  /-- T in 1/16 ns as the first bit after the start-of-frame delimiter crosses the balls (R363) -/
  crossing : Nat := 0
  body : PtpBody := .other
deriving DecidableEq, Repr, Inhabited

/-- What a calibration run measured (R399, R402): for each unit its correction, or a failure. -/
structure CalReport where
  /-- (ITEM of Table 15-2, the trim that its measurement calls for) for each item that settled -/
  found  : List (Nat × Int) := []
  /-- units that failed -/
  failed : List Nat := []
deriving DecidableEq, Repr, Inhabited

/-- How a training phase of one lane ends (Table 9-4). `points` holds, for EQ, each measured (PRE, POST, FoM). -/
structure PhaseReport where
  points : List (Nat × Nat × Nat) := []
deriving DecidableEq, Repr, Inhabited

/-- Why a playing store item stops (R121 to R123). -/
inductive ItemEndCause where
  | lastFrame
  /-- a read of the item failed on drive CS0, on drive CS1 -/
  | readFailed (cs0 cs1 : Bool)
deriving DecidableEq, Repr, Inhabited

/-- Where a store item stops: why, and whether the CRC of a live context that is restored then is right (R158). -/
structure ItemEndReport where
  cause : ItemEndCause := .lastFrame
  contextGood : Bool := true
deriving DecidableEq, Repr, Inhabited

/-- Where the boundary of an abort is reached (R89): its job, and whether the CRC of a live context that is restored then is
right (R158). -/
structure AbortReport where
  job : U32 := 0
  contextGood : Bool := true
deriving DecidableEq, Repr, Inhabited

/-- Where a decoder stops on its tile row: the decoder, and the elements written when its output buffer is full (R154). -/
structure DecoderReport where
  dd : Fin 8 := 0
  outputFull : Option Nat := none
deriving DecidableEq, Repr, Inhabited

/-- The commands: the rows of spec/opcode_table.json, in the table's order. -/
inductive Instr where
  -- reset and start
  | porNFall (pulseNs : Nat)
  | porNRise (strapBoot : BitVec 2) (strapI2cAddr : BitVec 3)
  | startStageDone (r : StageReport)
  -- PCIe endpoint and BAR0, BAR2
  | endpointReset (k : EndpointResetKind)
  | hifMbxDoorbell (v : U32)
  | hifMbxRspConsumed (v : U32)
  | hifEvtConsumed (v : U32)
  | hifIrqStatus (v : U32) (arriving : U32)
  | hifIrqMask (v : U32)
  | holdoffEnd (vec : Fin 32)
  | hifReset (v : U32)
  | hifPrfSnapshot (v : U32)
  | registerWrite (off : Nat) (data : List Byte)
  | bar2Read (off : U32) (len : Nat)
  | bar2Write (off : U32) (data : List Byte)
  -- I²C target and CCI over UDP
  | i2cSubmit (msg : List Byte)
  | i2cDataFull (piece : List Byte)
  | i2cDataRelease
  | i2cResponseRead
  | cciDatagramReceived (ep : Fin 2) (src : Peer) (bytes : List Byte)
  -- CCI commands, taken from the front of one transport
  | sessionOpen (via : Via)
  | sessionClose (via : Via)
  | resync (via : Via)
  | logRead (via : Via)
  | streamBind (via : Via)
  | timetableSet (via : Via)
  | frameCommit (via : Via)
  | layerDefine (via : Via)
  | layerCommit (via : Via)
  | crcWindowSet (via : Via)
  | tableLoad (via : Via)
  | memRegionDefine (via : Via)
  | surfaceAlloc (via : Via)
  | surfaceFree (via : Via)
  | moverSubmit (via : Via)
  | moverAbort (via : Via)
  | scrubSet (via : Via)
  | memWrite (via : Via)
  | memRead (via : Via)
  | storePut (via : Via)
  | storeDelete (via : Via)
  | storeSchedule (via : Via)
  | storeList (via : Via)
  | storeAbort (via : Via)
  | laneStatus (via : Via)
  | calibRun (via : Via)
  | powerSequence (via : Via)
  | perfConfig (via : Via)
  | perfSnapshot (via : Via)
  | fwUpdate (via : Via)
  | faultInject (via : Via)
  | shutdown (via : Via)
  | shutdownStepDone (r : StepReport)
  | keyLoad (via : Via)
  | timeSet (via : Via)
  -- sessions and jobs
  | sessionLapsed (id : U16)
  | abortSettled (r : AbortReport)
  -- ingest
  | dstPacketReceived (ep : Fin 2) (d : Datagram)
  | holeDeclaredLost (st : Fin 16) (seq : U32)
  | dstPathSilent (st : Fin 16) (ep : Fin 2)
  | dstPathDown (ep : Fin 2)
  | dstPathUp (ep : Fin 2) (rateGbs : Nat)
  | dstStreamLost (st : Fin 16)
  | dstAnchorRequested (st : Fin 16)
  | authTrailerTimeout (st : Fin 16) (frame : U32)
  | dstCounters (ep : Fin 2)
  -- decoders
  | tileRowDecoded (r : DecoderReport)
  | decodeResume (dd : Fin 8)
  -- synthesis and scheduling
  | tileComplete (tile : U32)
  | tileRunStopped (tile : U32)
  | tileRedispatch (tile : U32)
  | projection (workBytesPerSecond : Nat)
  | latestStartPassed (tile : U32)
  | frameDeadline (port : Fin 4)
  | l3CopyDone (tile : U32)
  -- scan-out
  | frameBoundary (port : Fin 4)
  | lineInstant (port : Fin 4)
  | departureWindowClose (port : Fin 4)
  -- isolation and faults
  | junctionDrainEnd (u : UnitId)
  | junctionClosed (u : UnitId)
  | cellFault (region : Fin 16) (block : Fin 4) (cell : Fin 17) (cause : Fin 8)
  | blockFault (region : Fin 16) (block : Fin 4) (cause : Fin 8)
  | regionFault (region : Fin 16) (cause : Fin 8)
  | mcFault (mc : Fin 16) (cause : Fin 8)
  /-- for each channel, transfers that failed in a row since the last heartbeat; 0 where one succeeded -/
  | mcHeartbeat (mc : Fin 16) (failedTransfers : List Nat)
  | decoderFault (dd : Fin 8) (cause : Fin 8)
  | moverFault (m : Fin 2) (cause : Fin 8)
  | scanOutPortFault (port : Fin 4)
  | trunkLinkFault (stop : Fin 32) (south : Bool)
  | schedulerFault
  | fltTimeVote (copy : Fin 3)
  | hpEndpointFault
  | stoDriveDown (cs : Fin 2)
  | stoDriveUp (cs : Fin 2) (r : DriveReport)
  | fltTakeover (r : TakeoverReport)
  | reliefFault (cause : Fin 8)
  | commonRailLoss
  | fltRelocated (mc : Fin 16)
  | retest (u : UnitId)
  | retestDone (u : UnitId) (pass : Bool) (code : U32)
  -- lanes
  | trainingPhaseEnd (lane : Fin 48) (r : PhaseReport)
  | trainingTimeout (lane : Fin 48) (phase : Fin 4)
  | laneReport (quad : Fin 12) (payload : List Byte)
  | laneFault (quad : Fin 12) (payload : List Byte)
  | pointsSwitch (port : Fin 4)
  | laneRetry (lane : Fin 48)
  | lnkReturnLost (quad : Fin 12) (cause : Fin 4)
  | lnkReturnUp (quad : Fin 12)
  | tapAdapt (lane : Fin 48)
  | laneWake (lane : Fin 48)
  -- drivers and panel power
  | drvHello (quad : Fin 12) (payload : List Byte)
  | cmdAck (quad : Fin 12) (payload : List Byte)
  | cmdRepeat (cmdSeq : U16)
  | drvStatus (quad : Fin 12) (payload : List Byte)
  | pseqGoodRise (n : Fin 4)
  | powerSequenceStep
  | pseqGoodTimeout (n : Fin 4)
  | pwrFault (n : Fin 4)
  -- persistence and the content store
  | mapRestoreDone
  | persistenceTimer
  | stoPersisted (written : BitVec 2)
  | storePutDone (job : U32)
  | storeReadAhead (st : Fin 16)
  | itemEnd (st : Fin 16) (r : ItemEndReport)
  -- memory system
  | memTemperatureRead (mc : Fin 16) (halfDegrees : Option Int)
  | refreshDue (mc : Fin 16) (ch : Fin 4) (bank : Fin 16) (passOrStreamWaits : Bool)
  | refreshWindowStart (mc : Fin 16)
  | rowActivation (mc : Fin 16) (ch : Fin 4) (bank : Fin 16) (row : Nat)
  | retrainDue (mc : Fin 16) (ch : Fin 4) (linkRetries failedTransfers : Nat)
  | retrainPauseEnd (mc : Fin 16) (ch : Fin 4) (pass : Bool)
  | scrubVisit (mc : Fin 16) (word : Nat) (f : ScrubFinding)
  | memRepaired (mc : Fin 16) (word : Nat)
  | strongFillDone (region : Fin 64)
  -- movers
  | moverLineComplete (m : Fin 2)
  -- network time
  | ptpMessage (ep : Fin 2) (m : PtpMsg)
  | announceTimeout
  | syncSend (ep : Fin 2)
  | ppsInEdge
  | ppsInLost
  | ref10mLost
  | ref10mRestored
  | wholeSecond
  | ppsOutPulseEnd
  | holdoverLimit
  | timStatus
  -- calibration
  | calAutoRun (domain : Fin 8)
  | calRunDone (domain : Fin 8) (r : CalReport)
  | trimEvaluate (halfDegrees : List Int)
  | calRecord
  -- performance counters
  | perfConfigApply
  | readerPass
  | snapshotLatch
  | prfSnapshotDone
  -- thermal agent
  | thermalSample (halfDegrees : List Int)
  | islandClockStep (region : Fin 16)
  -- the table's last rows
  | unknownCommand (via : Via)
  | fwUpdateDone
  | pseqGoodFall (n : Fin 4)
  | referenceClockLoss (islandPll : Bool)
  | railOrClockGoodAgain (u : UnitId)
  | pcieConfigWrite (w : PcieCfg)
  | msixTableWrite (vec : Fin 32) (addr : U64) (data : U32) (masked : Bool)
  | networkControlFrame (ep : Fin 2) (f : ControlFrame)
  /-- at T in 1/16 ns as its first bit crosses the balls (R363) -/
  | delayReqSend (crossing : Nat)
  | bulkCopyPage (mc : Fin 16) (page : Nat)
deriving DecidableEq, Repr

end Sys2Proof
end

