-- ==== Sys2Proof/Machine/State.lean ====
section
/-!
DEFINITION. The state of the block: every register, ring, buffer, counter, mode and pin that the spec gives the
Cital 9648, as plain data. Each field's comment gives its width, the rule that names it and its value at reset.
-/

namespace Sys2Proof.Machine

/-- Why a step stops with a fault. -/
inductive Fault where
  /-- Raised by no meaning of this model: the spec gives every command of its table an effect, and R5 keeps the
  controller in a state that accepts `resync`. Safe: a fault could only stop a run earlier. -/
  | none
deriving DecidableEq, Repr

/-- Why a step refuses a command. -/
inductive Refusal where
  /-- Raised only by the dispatch, for a command without a meaning yet, under its row's mnemonic. Safe. -/
  | notModelled (mnemonic : String)
deriving DecidableEq, Repr

/-! ## Start, flash and the configuration block -/

/-- Start states (R44, Table 3-12). -/
inductive StartState where
  | fuses | bootRom | image | firmware | bringUp | sramTest | selfTest | memory | opening
  | released | shuttingDown | halted | recovery | fuseFault | smFault
deriving DecidableEq, Repr, Inhabited

/-- Start stages (Table 2-3); `off` while POR_N is low or the start has ended. -/
inductive Stage where
  | off | s1 | s2 | s3 | s4 | s5 | s6 | s6b | s6c | s7 | s7b | s8 | s9
deriving DecidableEq, Repr, Inhabited

/-- One copy of the fuse array (Table 2-4). -/
structure FuseArray where
  /-- 4; R45; DESIGN CHOICE 0x1 (log 5) -/
  orderingCode : BitVec 4 := 0
  /-- 16; R45; DESIGN CHOICE 0 (log 5): lane count and largest section, whose inner form the spec does not give -/
  sizes : BitVec 16 := 0
  /-- 64; R45; DESIGN CHOICE 0 (log 5) -/
  deviceId : U64 := 0
  /-- 4 × 256; R45; DESIGN CHOICE empty (log 5). Key hashes K0 to K3, 32 bytes each -/
  keyHash : List (List Byte) := []
  /-- 4; R45; DESIGN CHOICE 0 (log 5) -/
  revoked : BitVec 4 := 0
  /-- 64, a thermometer; R45, R51; DESIGN CHOICE 0 (log 5): security version floor -/
  secFloor : U64 := 0
  /-- bytes; R45; DESIGN CHOICE none (log 5): SRAM repair -/
  sramRepair : List Byte := []
  /-- per item; R405; DESIGN CHOICE none, read as 0 (log 5). Fuse trim F by ITEM of Table 15-2 -/
  trim : List (Nat × Int) := []
deriving DecidableEq, Repr, Inhabited

/-- A boot control block copy (R51). -/
structure BootBlock where
  /-- 32; R51; DESIGN CHOICE 0 (log 5). Sequence number -/
  seq : Nat := 0
  /-- 1; R51; DESIGN CHOICE true (log 5). The copy's CRC-32C is correct -/
  good : Bool := false
  /-- 1; R51; DESIGN CHOICE slot A (log 5). Preferred slot: false A, true B -/
  preferB : Bool := false
  /-- 1; R51; DESIGN CHOICE false (log 5) -/
  trial : Bool := false
  /-- small count; R51; DESIGN CHOICE 0 (log 5) -/
  trialCount : Nat := 0
deriving DecidableEq, Repr, Inhabited

/-- The fields of a shutdown record (Table 2-10). -/
structure ShutdownRecord where
  seq : Nat := 0
  /-- 0xFF when written, 0x00 once used -/
  consumed : Nat := 0xFF
  pass : Bool := false
  fullNext : Bool := false
  persistFailed : Bool := false
  fuseId : U64 := 0
  imageDigest : List Byte := []
  signature : List Byte := []
  ptpSeconds : Nat := 0
  tjMax : Int := 0
  /-- the record's CRC-32C is correct -/
  crcGood : Bool := false
deriving DecidableEq, Repr, Inhabited

/-- The fields of an expected record (Table 15-6). -/
structure ExpectedRecord where
  seq : Nat := 0
  good : Bool := false
  fuseId : U64 := 0
  expected : List Byte := []
  units : Nat := 0
deriving DecidableEq, Repr, Inhabited

/-- An image slot (R49): the bytes written since its last erase, and whether `fw_update` marked it invalid (R85). -/
structure Slot where
  bytes : List Byte := []
  invalid : Bool := false
deriving DecidableEq, Repr, Inhabited

/-- The configuration flash (Table 2-5). -/
structure Flash where
  /-- 4 KiB; R47, R51; as BootBlock -/
  bcb0 : BootBlock := {}
  /-- 4 KiB; R47, R51; as BootBlock -/
  bcb1 : BootBlock := {}
  /-- 256 × 256 bytes; R47, R61; DESIGN CHOICE empty (log 5): the records written since the last erase, as bytes -/
  records : List (List Byte) := []
  /-- 32 MiB; R47, R49; DESIGN CHOICE erased (log 5) -/
  slotA : Slot := {}
  /-- 32 MiB; R47, R49; DESIGN CHOICE erased (log 5) -/
  slotB : Slot := {}
  /-- 64 bytes; R410; DESIGN CHOICE not valid (log 5) -/
  expected0 : List Byte := []
  /-- 64 bytes; R410; DESIGN CHOICE not valid (log 5) -/
  expected1 : List Byte := []
deriving DecidableEq, Repr, Inhabited

/-- Rail parameters of one PSEQ_EN output (Table 10-7). -/
structure RailParam where
  role : Nat := 0
  order : Nat := 0
  goodTimeoutMs : Nat := 1
  delayMs : Nat := 0
deriving DecidableEq, Repr, Inhabited

/-- Time parameters (Table 13-1). -/
structure TimeParams where
  grandmaster : Bool := false
  profileDefault : Bool := false
  /-- DOMAIN; none takes the default of the PROFILE -/
  domain : Option Nat := none
  ports : BitVec 2 := 0b11#2
  rxLat : List Int := []
  txLat : List Int := []
  asym : List Int := []
  ref10m : Bool := false
  ppsInUse : Bool := false
  ppsOutMode : Nat := 0
  stepLimitUs : Nat := 20
  holdoverLimitS : Nat := 600
  priority1 : Nat := 128
  priority2 : Nat := 128
  syncLog : Int := -3
deriving DecidableEq, Repr, Inhabited

/-- The configuration block of the running image (R49, R360): what the chapters say it holds. -/
structure ConfigBlock where
  /-- R310: DATA_RATE in Gb/s -/
  dataRate : Nat := 32
  /-- R310: DENSITY in Gb; 0 where the block lacks it -/
  density : Nat := 0
  colBits : Nat := 5
  hmask : List Nat := [0x11111, 0x22222, 0x44444, 0x88888]
  ageWorkUs : Nat := 4
  ageBulkUs : Nat := 20
  hammerThreshold : Nat := 4096
  hammerDistance : Nat := 1
  retrainMs : Nat := 100
  /-- R185: the regions in service -/
  regions : BitVec 16 := 0xFFFF#16
  /-- R455: the configured island clock of the regions, MHz -/
  regionMHz : Nat := 1800
  rails : List RailParam := []
  /-- R292: drivers named for each quad -/
  driversOfQuad : List Nat := []
  time : TimeParams := {}
  /-- R93: the management VLAN and address of each port; R98: data address -/
  mgmtVlan : Nat := 0
  mgmtAddr : List (BitVec 128) := []
  dataAddr : List (BitVec 128) := []
  /-- R98: MAC address of each port -/
  macs : List (BitVec 48) := []
  /-- R86: CCI key slot 0 -/
  cciKey0 : List Byte := []
  faultInject : Bool := false
  /-- R439: host restart -/
  hostRestart : Bool := false
  /-- R116: the root port as two x4 ports -/
  csTwoPorts : Bool := true
deriving DecidableEq, Repr, Inhabited

/-- The start of the controller (chapter 02). -/
structure Start where
  /-- 4; R44; FUSES -/
  st : StartState := .fuses
  /-- stage; R44; off (POR_N low) -/
  stage : Stage := .off
  /-- 1; R54; 0 quick (Table 17-3) -/
  full : Bool := false
  /-- 1; R428; 0 (slot A) -/
  slotB : Bool := false
  /-- 1; R54: the first slot tried was rejected; false -/
  firstRejected : Bool := false
  /-- 2; R41; 0: STRAP_BOOT sampled at the last rise of POR_N -/
  strapBoot : BitVec 2 := 0
  /-- 3; R41; 0 -/
  strapI2c : BitVec 3 := 0
  /-- 1; R41: restarts take STRAP_BOOT as 0b00; false -/
  bootOverride : Bool := false
  /-- 32; R428; 0 until stage S4 -/
  build : U32 := 0
  /-- 32; R91; 0 -/
  secVer : Nat := 0
  /-- 256; R54; empty: DIGEST of the running image -/
  digest : List Byte := []
  /-- R58: the time of each stage in µs, by its place in Table 2-3 from 1; empty -/
  times : List (Nat × Nat) := []
  /-- R57: stages whose bound was exceeded; empty -/
  overruns : List Nat := []
  /-- R57: cells that failed self-test, handled at release: region, block, cell; empty -/
  failedCells : List (Nat × Nat × Nat) := []
  /-- R57: blocks that failed self-test, handled at release: region, block; empty -/
  failedBlocks : List (Nat × Nat) := []
  /-- R405, R411: bins of the last analogue self-test; empty -/
  bins : List Nat := []
  /-- R60: the running step of `shutdown`, 0 none; 0 -/
  shutStep : Nat := 0
  shutSkipPersist : Bool := false
  shutSkipTest : Bool := false
  shutFullNext : Bool := false
  shutPersistFailed : Bool := false
  shutPass : Bool := false
  shutSignature : List Byte := []
  shutJob : Nat := 0
  /-- R61: highest junction temperature since release, 0.5 °C; 0 -/
  tjMax : Int := 0
  /-- R52, R439: a restart follows, of RECOVERY after a good `fw_update`, or once the panel rails are down; false -/
  restartDue : Bool := false
  /-- R85: next OFFSET expected of a piece, and the job that waits for the checks; 0 -/
  fwNext : Nat := 0
  fwJob : Nat := 0
  /-- R85, R425: the buffer of a whole image that the job has still to read: ADDR_LO, ADDR_HI, LENGTH, KIND; empty -/
  fwBuf : List Nat := []
  /-- R426: an endpoint reset has cut off its transfer; false -/
  fwCut : Bool := false
deriving DecidableEq, Repr, Inhabited

/-! ## Host interface: registers, rings and transports -/

/-- BAR0 registers and rings of HP (chapter 17). -/
structure Hif where
  /-- 32; R429; 0: HIF_MBX_IN_ACCEPTED -/
  inAccepted : U32 := 0
  /-- 32; R429; 0 -/
  inConsumed : U32 := 0
  /-- 32; R429; 0 -/
  rspProduced : U32 := 0
  /-- 32; R429; 0 -/
  rspConsumed : U32 := 0
  /-- 32; R429; 0 -/
  evtProduced : U32 := 0
  /-- 32; R429; 0 -/
  evtConsumed : U32 := 0
  /-- 32, saturating; R429; 0 -/
  doorbellBad : U32 := 0
  /-- 32, saturating; R429; 0 -/
  discarded : U32 := 0
  /-- 32, saturating; R429; 0 -/
  idxBad : U32 := 0
  /-- 23; R434; 0 -/
  irqStatus : U32 := 0
  /-- 23; R434; 0x7F_FFFF -/
  irqMask : U32 := 0
  /-- 16; R434; 0 -/
  holdoff : Nat := 0
  /-- 10; R434; 64 -/
  threshold : Nat := 0
  /-- R434: vectors inside their holdoff; none -/
  inHoldoff : List Nat := []
  /-- 6; R435; 0 -/
  aptRegion : Nat := 0
  /-- 1; R435; 0 -/
  aptMode1 : Bool := false
  /-- 40, multiple of 64 KiB; R435; 0 -/
  aptBase : Nat := 0
  /-- 32; R435; 0, set at release -/
  linearSize : U32 := 0
  /-- 6; R435; 0 -/
  aptStatus : U32 := 0
  /-- 64; R435; 0 -/
  aptFault : U64 := 0
  /-- 32; R435; 0 -/
  guardCount : U32 := 0
  /-- 16; R435; 0 -/
  guardLast : BitVec 16 := 0
  /-- 32; R440; 0: HIF_PRF_LAST_ID -/
  prfLastId : U32 := 0
  /-- R424, R433: MSI-X table entry address, data and mask per vector; reset masked (PCI Express) -/
  msixTable : List (U64 × U32 × Bool) := []
  /-- 32; R433; 0: pending bit array -/
  pba : U32 := 0
  /-- 1; R433; false -/
  msixEnable : Bool := false
  /-- 1; R433; false -/
  functionMask : Bool := false
  /-- 16 KiB; R65; DESIGN CHOICE bytes not written read 0 (log 11): inbound ring by byte offset -/
  inRing : List Host.Cell := []
  /-- 256 × 64 bytes; R65; empty: responses written, newest first -/
  rspRing : List (List U32) := []
  /-- 1,024 × 64 bytes; R65; empty: events written, newest first -/
  evtRing : List (List U32) := []
  /-- R436: data the last BAR2 read returned; empty -/
  readData : List Byte := []
  /-- R433: MSI-X messages sent, newest first: vector, address, data; empty -/
  sent : List (Nat × U64 × U32) := []
deriving DecidableEq, Repr, Inhabited

/-- What the bus master and the link of HP are (R424 to R426). -/
structure Pcie where
  /-- 1; R425; false -/
  busMaster : Bool := false
  /-- 1; R424; false -/
  d3hot : Bool := false
  /-- R379 class 15: HP isolated by a fault; false -/
  linkDown : Bool := false
  /-- 1; R447: CS_REFCLK_OUT0 and CS_REFCLK_OUT1 run, from stage S5 onward; false -/
  csRefclk : Bool := false
  /-- KIND 0 buffers (Table 3-6): host memory as the bus master sees it; DESIGN CHOICE bytes not listed read 0 (log 12) -/
  hostMem : List Host.Cell := []
  /-- R75: ranges of host memory (bus address, bytes) whose reads end with an error or a poisoned completion, and whose
  writes end with a bus-master error; DESIGN CHOICE none (log 12) -/
  hostBad : List (Nat × Nat) := []
deriving DecidableEq, Repr, Inhabited

/-- An event (Table 3-4). `data` holds words 0x18 to 0x38. -/
structure Event where
  code : Nat := 0
  seq : U32 := 0
  tag : U32 := 0
  session : Nat := 0
  keep : Bool := false
  timeNs : Nat := 0
  timeS : Nat := 0
  data : List U32 := []
deriving DecidableEq, Repr, Inhabited

/-- A rate limit of an event (R107, R151, R214 and others): when it was last raised and what has gathered since. -/
structure Limit where
  code : Nat := 0
  unit : Nat := 0
  lastNs : Option Nat := none
  count : Nat := 0
  /-- first occurrence since the event was last raised -/
  first : List U32 := []
  /-- the session concerned, and the shortest time between two events, ns -/
  owner : Nat := 0
  window : Nat := 0
deriving DecidableEq, Repr, Inhabited

/-- What a step hands to the event writer and the interrupt logic, in order (R70, R432). -/
inductive Signal where
  /-- R381: the records of the history, the fault log and the start log that survive the loss of their pages -/
  | logsLost (history faults starts : Nat)
  | event (e : Event)
  | cause (vector : Nat)
deriving DecidableEq, Repr, Inhabited

/-- The event writer and the logs (R70, R395). -/
structure Evt where
  /-- 32; R74; 1 -/
  nextSeq : U32 := 0
  /-- 65,536 × 64 bytes, newest first; R84; empty -/
  history : List Event := []
  /-- 256 × 64 bytes, oldest first; R70; empty -/
  hold : List Event := []
  /-- R70: events not written since the last EVENTS_LOST: first number, count, KEEP_LOST; none -/
  lostFirst : Option U32 := none
  lostCount : Nat := 0
  keepLost : Bool := false
  /-- 32; R91: counters of the resync summary since release; 0 -/
  notWritten : Nat := 0
  keepNotWritten : Nat := 0
  /-- 4,096 newest; R395; empty -/
  faultLog : List Event := []
  /-- R41, R412; empty: start log (LOG 3) -/
  startLog : List Event := []
  /-- 32; R458; 0: records entered in LOG 2 and LOG 3 so far -/
  faultCount : Nat := 0
  startCount : Nat := 0
deriving DecidableEq, Repr, Inhabited

/-- A cached response (R77). -/
structure Cached where
  seq : U32 := 0
  opcode : Nat := 0
  tag : U32 := 0
  words : List U32 := []
deriving DecidableEq, Repr, Inhabited

/-- A session (R76). -/
structure Session where
  id : Nat := 0
  via : Via := .hp
  peer : Peer := {}
  keySlot : Nat := 0
  control : Bool := false
  admin : Bool := false
  keepalive : Nat := 0
  mask : Nat := 0
  evtPort : Nat := 0
  nextSeq : U32 := 1
  cache : List Cached := []
  nonce : Nat := 0
  openedNs : Nat := 0
  /-- R81: when the last message was taken, ns -/
  lastNs : Nat := 0
  /-- R81: ns since then in which no pair served, up to the last return of one; 0 -/
  unservedNs : Nat := 0
deriving DecidableEq, Repr, Inhabited

/-- Terminal kinds (R88, R89). -/
inductive Terminal where
  | completed | failed | aborted | completedBeforeAbort
deriving DecidableEq, Repr, Inhabited

/-- A job (R88). -/
structure Job where
  id : Nat := 0
  opcode : Nat := 0
  tag : U32 := 0
  owner : Nat := 0
  /-- Section 11 of the summary: lines or bytes done -/
  progress : Nat := 0
  /-- buffers of KIND 1 that the job names: memory regions (R331) -/
  regions : List Nat := []
deriving DecidableEq, Repr, Inhabited

/-- A finished job (R89). -/
structure Finished where
  id : Nat := 0
  opcode : Nat := 0
  tag : U32 := 0
  terminal : Terminal := .completed
  lastLine : Nat := 0
deriving DecidableEq, Repr, Inhabited

/-- A CCI datagram in the inbox (Table 3-15), after the checks of R94. -/
structure UdpMsg where
  ep : Nat := 0
  peer : Peer := {}
  slot : Nat := 0
  msg : List U32 := []
  data : List Byte := []
deriving DecidableEq, Repr, Inhabited

/-- A response held back until an abort settles or a snapshot is done (R71, R421). -/
structure InHand where
  via : Via := .hp
  msg : List U32 := []
  peer : Peer := {}
  slot : Nat := 0
  /-- job that the abort names, or 0 for `perf_snapshot` -/
  job : Nat := 0
deriving DecidableEq, Repr, Inhabited

/-- The I²C target (R97). -/
structure I2c where
  /-- 64 bytes; R97; empty: message window -/
  window : List Byte := []
  /-- 64 bytes; R97; empty: response window -/
  response : List Byte := []
  /-- 64 bytes; R97; empty: data window -/
  dataWin : List Byte := []
  /-- R97: host-to-controller data gathered for the message; empty -/
  inData : List Byte := []
  /-- R97: controller-to-host data still to be given; empty -/
  outData : List Byte := []
  /-- 1; R97; 0 -/
  msgBusy : Bool := false
  /-- 1; R97; 0 -/
  rspReady : Bool := false
  /-- 1; R97; 0 -/
  dataReady : Bool := false
  /-- 1; R97; 0 -/
  dataTaken : Bool := false
deriving DecidableEq, Repr, Inhabited

/-- The Stationmaster's command interface (chapter 03). -/
structure Cci where
  /-- at most 8; R76; empty -/
  sessions : List Session := []
  /-- R76: identifier of the next session; 1 -/
  nextSession : Nat := 1
  /-- R81: closed or lapsed sessions that may be taken over; empty -/
  lapsed : List Nat := []
  /-- at most 192; R88; empty -/
  jobs : List Job := []
  /-- 256 newest; R89; empty -/
  finished : List Finished := []
  /-- 32; R88; 1 -/
  nextJob : Nat := 1
  /-- R71, R421; none -/
  held : Option InHand := none
  /-- R93: datagrams that wait, oldest first; empty -/
  udp : List UdpMsg := []
  i2c : I2c := {}
  /-- R94: highest counter accepted per peer and slot; empty -/
  udpCounters : List (Peer × Nat × Nat) := []
  /-- R94: datagrams dropped; 0 -/
  udpDropped : Nat := 0
  /-- R93: COUNTER of the controller's datagrams per slot; empty -/
  udpSent : List (Nat × Nat) := []
  /-- 4 × 32 bytes; R86, R93; slot 0 from the configuration block; empty -/
  cciKeys : List (Nat × List Byte) := []
  /-- 8 × 32 bytes; R112; empty -/
  dstKeys : List (Nat × List Byte) := []
  /-- R76: data of the message in hand (inline), and the peer it came from; empty -/
  inline : List Byte := []
deriving DecidableEq, Repr, Inhabited

/-! ## Ingest, decoders and the content store -/

/-- A DST packet (Table 4-2) as accepted. -/
structure Packet where
  typ : Nat := 0
  station : Bool := false
  auth : Bool := false
  seq : Nat := 0
  frame : Nat := 0
  fragIdx : Nat := 0
  fragCount : Nat := 0
  plane : Nat := 0
  cont : Bool := false
  row : Nat := 0
  stationRef : Nat := 0
  /-- the Ethernet port of the accepted copy -/
  ep : Nat := 0
  /-- header bytes 0x00 to 0x1B -/
  hdr : List Byte := []
  payload : List Byte := []
deriving DecidableEq, Repr, Inhabited

/-- A station marker (Table 4-3): FRAME_BYTES, FRAG_COUNT, PLANES, MODE, TABLE_GEN. -/
structure Marker where
  frameBytes : Nat := 0
  fragCount : Nat := 0
  planes : Nat := 0
  mode : Nat := 0
  tableGen : Nat := 0
deriving DecidableEq, Repr, Inhabited

/-- What a decoder saves of a tile row when it suspends it (R154, ROW_STATE of Table 5-12). -/
structure RowState where
  /-- elements written -/
  position : Nat := 0
  /-- token in hand: 0 none, 1 literal block, 2 match, 3 run, 4 table switch, 5 station token, 6 CHECK -/
  kind : Nat := 0
  tabsel : Nat := 0
  remaining : Nat := 0
  ref : Nat := 0
  comp : Nat := 0
  zeroRest : Bool := false
  dy : Int := 0
  dx : Int := 0
  /-- the seed of a run, or the components that a literal element has so far -/
  seed : List Nat := []
  check : Nat := 0xFFFFFFFF
  /-- bits of the tile row read, and the bits fetched and not read -/
  pos : Nat := 0
  unread : List Bool := []
deriving DecidableEq, Repr, Inhabited

/-- A dynamic table slot (Table 5-12): the lengths of its three codes. -/
structure DynSlot where
  /-- 1; R143; 0: the slot holds a table -/
  valid : Bool := false
  /-- 1; R144; 0 -/
  doubt : Bool := false
  /-- 32; R142; 0 -/
  gen : Nat := 0
  /-- the frame whose table packet defined it -/
  firstFrame : Nat := 0
  /-- 96 × 4; R142; empty -/
  lens : List Nat := []
deriving DecidableEq, Repr, Inhabited

/-- One decoded array of one frame (R126): its size, its plane header fields and its elements by tile row. -/
structure HistArray where
  frame : Nat := 0
  array : Nat := 0
  ray : Bool := false
  w : Nat := 0
  h : Nat := 0
  z : Int := 0
  orgX : Int := 0
  orgY : Int := 0
  pitch : Nat := 0
  depth : Nat := 8
  /-- R149: the frame still waits for its tag -/
  held : Bool := false
  /-- R158: decoded before its context was restored; PLANE_PROGRESS does not show it -/
  restored : Bool := false
  /-- elements by tile row, as the four lanes of R126 (ray mode has three); an empty tile row is not decoded yet -/
  rows : List (List (List Nat)) := []
deriving DecidableEq, Repr, Inhabited

/-- The bits of one tile row as handed over by the ring. -/
structure RowData where
  array : Nat := 0
  row : Nat := 0
  bytes : List Byte := []
  /-- the packets that carried them: PKT_SEQ and bytes, in order -/
  parts : List (Nat × Nat) := []
  /-- a packet of the row was lost -/
  lost : Bool := false
  /-- no more bytes can follow -/
  closed : Bool := false
  /-- R107: counted for DST_LOSS as concealed -/
  counted : Bool := false
  /-- R154: what was saved when its decoding was last suspended, and the bytes held then; none -/
  saved : Option RowState := none
  tried : Nat := 0
  /-- R154: suspended for a full output buffer -/
  outputFull : Bool := false
deriving DecidableEq, Repr, Inhabited

/-- One scene frame that the decoders take (R146). -/
structure SceneFrame where
  num : Nat := 0
  station : Bool := false
  stationRef : Nat := 0
  /-- R146: a missing frame, entered as a copy of the frame before it -/
  copy : Bool := false
  /-- its station marker; none -/
  marker : Option Marker := none
  fragCount : Nat := 0
  /-- R101: FRAG_INDEX expected next, and counted packets lost -/
  nextFrag : Nat := 0
  lost : Nat := 0
  /-- R107: counted packets lost since the last data packet handed over -/
  gap : Nat := 0
  rows : List RowData := []
  /-- the tile row that a packet with CONT = 1 would continue -/
  openRow : Option (Nat × Nat) := none
  /-- R143: the slots in force for the frame -/
  slots : List DynSlot := []
  dataSeen : Bool := false
  /-- frame header of the frame: mode, planes, depth, W, H, directions -/
  hdr : List Nat := []
  concealed : Bool := false
  errors : Bool := false
  late : Bool := false
  /-- every counted packet has arrived or is lost, and since when, ns (R114) -/
  closed : Bool := false
  closedNs : Nat := 0
  /-- R155: deadlines that the scheduler has assigned: array, tile row, ns -/
  due : List (Nat × Nat × Nat) := []
  /-- R114: the tag matched; the frame failed; what the tag covers -/
  verified : Bool := false
  failed : Bool := false
  tagBytes : List Byte := []
deriving DecidableEq, Repr, Inhabited

/-- Decoder context of a stream (R157, Table 5-12). -/
structure DecCtx where
  /-- 32; R157; 0 -/
  chainStation : Nat := 0
  /-- 32; R146; none until a frame is taken -/
  lastFrame : Option Nat := none
  /-- 32; R157; 0 -/
  doneFrame : Nat := 0
  /-- 32; R144; 0 -/
  lastGen : Nat := 0
  /-- 4; R144; empty -/
  slots : List DynSlot := List.replicate 4 {}
  /-- R131: frame header in force: mode, planes, depth, W, H, directions -/
  frameHdr : List Nat := []
  /-- R157 STATE: the context is anchored; false -/
  anchored : Bool := false
deriving DecidableEq, Repr, Inhabited

/-- What the decoders hold for one source of a stream: its live packets, or the stored item that plays on it. R122's
saved context is the live channel while an item plays. -/
structure Channel where
  frames : List SceneFrame := []
  ctx : DecCtx := {}
  /-- R126: decoded arrays, newest first (log 16) -/
  hist : List HistArray := []
  /-- R232: the newest scene frame begun; none -/
  begun : Option Nat := none
  /-- R110: the last ready frame; none -/
  lastReady : Option Nat := none
  /-- a frame that is discarded packet by packet (R108, R146, R147) -/
  skip : Option Nat := none
deriving DecidableEq, Repr, Inhabited

/-- Stream states (R108, Table 3-13). -/
inductive StreamState where
  | unbound | unanchored | anchored | fallback
deriving DecidableEq, Repr, Inhabited

/-- What a path of a stream has delivered (R104, R105). -/
structure PathState where
  /-- a packet of the stream has arrived on the path -/
  heard : Bool := false
  lastNs : Nat := 0
  silent : Bool := false
  staleRun : Nat := 0
  staleLast : Nat := 0
deriving DecidableEq, Repr, Inhabited

/-- A scheduled item (R121). -/
structure Schedule where
  item : Nat := 0
  startNs : Nat := 0
  loop : Bool := false
  job : Nat := 0
  owner : Nat := 0
  /-- taken less than 100 ms before START -/
  late : Bool := false
  /-- packets of the item read so far and not yet handed to the decoders -/
  left : List Packet := []
  /-- packets of the item read so far -/
  readCount : Nat := 0
  /-- STO_ITEM_STARTED has been raised -/
  shown : Bool := false
  /-- R121: the item's last frame has played, and the next packet handed over is its station frame's again -/
  again : Bool := false
deriving DecidableEq, Repr, Inhabited

/-- A stream (chapters 04 and 05). -/
structure Stream where
  /-- R108; unbound -/
  st : StreamState := .unbound
  owner : Nat := 0
  fromStore : Bool := false
  streamId : Nat := 0
  group : BitVec 128 := 0
  udpPort : Nat := 0
  vlan : Nat := 0
  paths : BitVec 2 := 0
  mergeWindow : Nat := 0
  keySlot : Nat := 0
  authRequired : Bool := false
  fallback : Nat := 0
  fallbackItem : Nat := 0
  /-- R112: the active key slot; 0 -/
  activeKey : Nat := 0
  /-- 32; R104: H, none until the first packet after the bind -/
  high : Option Nat := none
  /-- R104: open holes: number, instant the hole opened, paths that have delivered a packet above it -/
  holes : List (Nat × Nat × List Nat) := []
  /-- R104: holes declared lost inside the record -/
  lostHoles : List Nat := []
  path0 : PathState := {}
  path1 : PathState := {}
  /-- R106: accepted packets not yet handed to the decoders; empty -/
  ring : List Packet := []
  /-- R106: next PKT_SEQ to hand over -/
  nextOut : Option Nat := none
  /-- the live source of the stream -/
  live : Channel := {}
  /-- the stored item that plays on it -/
  item : Channel := {}
  /-- R109: source of the newest accepted packet, its frame and PKT_SEQ; none -/
  srcPeer : Option Peer := none
  /-- R108: when a packet was last accepted, or the stream was bound, ns -/
  heardNs : Nat := 0
  lastFrame : Nat := 0
  lastSeq : Nat := 0
  /-- R109: the last FRAME_NUM decoded without error; 0 -/
  lastGoodFrame : Nat := 0
  requests : Nat := 0
  reason : Nat := 0
  packetsLost : Nat := 0
  dcErrors : Nat := 0
  /-- R107 -/
  lossPackets : Nat := 0
  lossRows : Nat := 0
  discards : Nat := 0
  lossNs : Option Nat := none
  sched : List Schedule := []
  /-- R121, R110: the item that plays; its job is 0 for a fallback loop -/
  playing : Option Schedule := none
  /-- R110: packets of FALLBACK_ITEM read at `stream_bind`; empty -/
  loopAhead : List Packet := []
  /-- R122: the last stored frame stays until a live station frame is ready; false -/
  afterItem : Bool := false
  /-- R156, R157: bytes of the history reserve held, and the offset in the reserve at which they begin -/
  reserve : Nat := 0
  histBase : Nat := 0
deriving DecidableEq, Repr, Inhabited

/-- An Ethernet port (R98, R99, R115). -/
structure Eth where
  /-- R99, reported up; false -/
  up : Bool := false
  /-- R99, R105, a frame has arrived or the port was reported up since the link was last lost; false -/
  link : Bool := false
  rateGbs : Nat := 0
  /-- 8 × 32, saturating; R115; 0: NO_STREAM, HEADER, STREAM_ID, DUPLICATE, LATE, STALE, UNANCHORED, OTHER -/
  drops : List Nat := []
  /-- R98: the second in which echoes are counted, and those answered in it; 0 -/
  echoSecond : Nat := 0
  echoCount : Nat := 0
  /-- R393, R394: isolated; false -/
  isolated : Bool := false
  /-- R230, R363: hardware time-stamp of the last counted DST packet, 1/16 ns; none -/
  dstStamp : Option Int := none
deriving DecidableEq, Repr, Inhabited

/-- A Dorfa decoder (R152, R154). -/
structure Decoder where
  /-- R152; none: stream, stored item or live, frame, array, tile row in hand -/
  work : Option (Nat × Bool × Nat × Nat × Nat) := none
  /-- R154; false -/
  suspended : Bool := false
  isolated : Bool := false
deriving DecidableEq, Repr, Inhabited

/-- A stored item (R119, R120). -/
structure Item where
  id : Nat := 0
  frames : Nat := 0
  bytes : Nat := 0
  streamId : Nat := 0
  created : Nat := 0
  packets : List Packet := []
deriving DecidableEq, Repr, Inhabited

/-- Drive parameters (R300). -/
structure DriveParams where
  ageRate : Nat := 13
  iref : List Nat := []
  hot : Int := 170
  t : List Nat := []
  w : List Nat := []
deriving DecidableEq, Repr, Inhabited

/-- The drive parameters at release (R300). -/
def defaultParams : DriveParams :=
  { iref := List.replicate 4 0x800, t := List.replicate 64 0xFFFF, w := List.replicate 16 0x1000 }

/-- What a complete persistence copy holds (Table 10-11). -/
structure Persist where
  seq : Nat := 0
  deviceId : U64 := 0
  w : Nat := 0
  h : Nat := 0
  dirs : Nat := 0
  timeS : Nat := 0
  params : DriveParams := {}
  seeded : List Nat := []
  map : List Nat := []
  counters : List Nat := []
deriving DecidableEq, Repr, Inhabited

/-- A copy of a drive's directory (Table 4-7). -/
structure Directory where
  /-- 64; R117; DESIGN CHOICE 0 (log 5): the store identity -/
  identity : U64 := 0
  /-- at most 4,096; R119; DESIGN CHOICE empty (log 5) -/
  items : List Item := []
  /-- R119; DESIGN CHOICE empty (log 5): where each item lies: item, and its extents as offset on the drive and bytes -/
  extents : List (Nat × List (Nat × Nat)) := []
deriving DecidableEq, Repr, Inhabited

/-- A drive of the content store (R116), with what it holds (Table 4-7). -/
structure Drive where
  up : Bool := false
  capacity : Nat := 0
  /-- R117: the two copies of the directory, of which the first is read -/
  dir : Directory := {}
  dirCopy : Directory := {}
  /-- R116: items that it fails to read; empty -/
  bad : List Nat := []
  /-- 12 GiB each; R305; DESIGN CHOICE empty (log 5): the persistence copies A and B, as far as they are written -/
  copyA : List Byte := []
  copyB : List Byte := []
deriving DecidableEq, Repr, Inhabited

/-- An item that a `store_put` job writes (R119). -/
structure StorePut where
  job : Nat := 0
  item : Nat := 0
  bytes : Nat := 0
  /-- the buffer that it reads: low and high word, length and KIND -/
  buf : List Nat := []
  /-- status with which the job fails; 0 none -/
  failure : Nat := 0
deriving DecidableEq, Repr, Inhabited

/-- The content store (R116 to R123). -/
structure Store where
  drive0 : Drive := {}
  drive1 : Drive := {}
  /-- R118, R305: a persistence write is running: into copy B, and PTP seconds at its start; none -/
  writing : Option (Bool × Nat) := none
  /-- R118: the last persistence write failed on every drive, or found none; false -/
  noSource : Bool := false
  /-- R119: items being written by `store_put` jobs; empty -/
  puts : List StorePut := []
deriving DecidableEq, Repr, Inhabited

/-! ## Tables and synthesis -/

/-- The panel description (R162). -/
structure Panel where
  w : Nat := 0
  h : Nat := 0
  dirs : Nat := 0
  cols : Nat := 0
  rows : Nat := 0
  pitch : Nat := 0
  x0 : Int := 0
  y0 : Int := 0
  tx : List Int := []
  ty : List Int := []
deriving DecidableEq, Repr, Inhabited

/-- The colour table (R164): M as nine signed 2.14 values and the LUT. -/
structure Colour where
  m : List Int := []
  lut : List Nat := []
deriving DecidableEq, Repr, Inhabited

/-- The tables of KIND 0 to 3 that a frame uses (R166, R202). -/
structure Tables where
  panel : Option Panel := none
  /-- R163: DTX, DTY in hogel order; empty: every offset 0 -/
  offsets : List (Int × Int) := []
  /-- R164; none: identity and linear LUT -/
  colour : Option Colour := none
  /-- 16 sets; R202: INDEX, TAPS, C[p][t] by p × 8 + t -/
  coefs : List (Nat × Nat × List Int) := []
  /-- R166: GENERATION of the newest load of each table: KIND 0 to 2, then sets 0 to 15 of KIND 3; 0 -/
  gens : List Nat := []
deriving DecidableEq, Repr, Inhabited

/-- Where a tile is (R181). -/
inductive TileState where
  | waiting | queued | running | stopping | complete | repeated | toRepeat
deriving DecidableEq, Repr, Inhabited

/-- A work tile (R173). -/
structure Tile where
  band : Nat := 0
  col : Nat := 0
  gen : Nat := 0
  st : TileState := .waiting
  region : Nat := 0
  block : Nat := 0
  cell : Nat := 0
  /-- R179: earliest restart -/
  notBefore : Nat := 0
  /-- R302: first complete run done -/
  sampled : Bool := false
  /-- level at which the tile started (R188) -/
  level : Nat := 0
  /-- R187: when its run started, ns -/
  startNs : Nat := 0
  /-- R299: map loads that had been answered when its run started -/
  mapSeen : Nat := 0
deriving DecidableEq, Repr, Inhabited

/-- A timetable (R220). -/
structure Timetable where
  period : Nat := 0
  active : Nat := 0
  blank : Nat := 0
  lineTime : Nat := 0
  phase : Nat := 0
  laneMask : Nat := 0
  firstRow : Nat := 0
  rowCount : Nat := 0
  ratio2 : Bool := false
  owner : Nat := 0
deriving DecidableEq, Repr, Inhabited

/-- A CRC window (R240). -/
structure CrcWin where
  enabled : Bool := false
  x0 : Nat := 0
  y0 : Nat := 0
  w : Nat := 0
  h : Nat := 0
  dirFirst : Nat := 0
  dirCount : Nat := 0
  expected : U32 := 0
  expectFrame : Nat := 0
  owner : Nat := 0
  /-- R241: the running CRC and whether a row was missing in the frame -/
  crc : U32 := 0
  incomplete : Bool := false
deriving DecidableEq, Repr, Inhabited

/-- A layer's definition (Table 7-1). -/
structure LayerDef where
  format : Nat := 0
  x : Int := 0
  y : Int := 0
  w : Nat := 0
  h : Nat := 0
  depth : Int := 0
  coefH : Nat := 0
  coefV : Nat := 0
  alpha : Nat := 0
  srcX : Nat := 0
  srcY : Nat := 0
  srcW : Nat := 0
  srcH : Nat := 0
deriving DecidableEq, Repr, Inhabited

/-- A plane layer as a port frame uses it: layer, surface and definition (R210). -/
structure LayerUse where
  layer : Nat := 0
  surf : Nat := 0
  defn : LayerDef := {}
deriving DecidableEq, Repr, Inhabited

/-- Modes of R267. -/
inductive LaneMode where
  | normal | restriped | fellTo41 | halfRate | portDown
deriving DecidableEq, Repr, Inhabited

/-- What resends and commands have taken of a line (R266, R281): the line, by the boundary count of its frame and its number, the
time in ps and the blocks. -/
structure LineUse where
  boundary : Nat := 0
  line : Nat := 0
  ps : Nat := 0
  blocks : Nat := 0
deriving DecidableEq, Repr, Inhabited

/-- A pending `frame_commit` on a port (R235 to R237). -/
structure Commit where
  id : U32 := 0
  /-- the frame that it enters, as a boundary count -/
  enters : Nat := 0
  tag : U32 := 0
  owner : Nat := 0
  /-- R237: the mask reference, the frame that it enters there, and the TARGET_FRAME asked for -/
  ref : Nat := 0
  refEnters : Nat := 0
  target : Nat := 0
deriving DecidableEq, Repr, Inhabited

/-- A scan-out port (chapters 06 and 08). -/
structure Port where
  /-- R219; none -/
  tt : Option Timetable := none
  /-- R238: a timetable taken and not yet in force: the timetable, none to delete, E and the command's TAG -/
  pendingTt : Option (Option Timetable × Nat × U32) := none
  /-- R243: CRC windows taken and not yet in force -/
  windowsPending : List (Nat × CrcWin) := []
  /-- R223: the boundary count k of the frame that is front; 0 -/
  cur : Nat := 0
  /-- R238: a boundary of the timetable has passed; false -/
  running : Bool := false
  /-- R224: next line of the frame; 0 -/
  line : Nat := 0
  /-- R234: the departure window of frame cur + 1 is open; false -/
  windowOpen : Bool := false
  /-- R231; 0x1000_0000 from the first timetable -/
  frameId : U32 := 0
  frameTag : U32 := 0
  frameOwner : Nat := 0
  /-- R236; none -/
  pendingCommit : Option Commit := none
  /-- R225: frame buffers reserved; false -/
  bufs : Bool := false
  /-- R226: front buffer; 0 -/
  front : Nat := 0
  /-- R225: ROW_STRIDE of the reservation; 0 -/
  bufStride : Nat := 0
  /-- R226: a swap under the geometry has happened; false -/
  swapped : Bool := false
  /-- R166: the panel description of the front frame; none -/
  frontPanel : Option Panel := none
  /-- 16; R180; 0 -/
  gen : Nat := 0
  /-- R186; 0 -/
  level : Nat := 0
  /-- R191: levels of the good frames in a row, newest first, up to 8; empty -/
  goodLevels : List Nat := []
  /-- R192: level of the frame last made front; 0 -/
  shownLevel : Nat := 0
  tiles : List Tile := []
  /-- R180: the tables and layers that the generations of the tiles stand for; empty -/
  madeTables : Tables := {}
  madeLayers : List LayerUse := []
  /-- R232: u with its stream and whether it was a stored item; none -/
  sceneUsed : List (Nat × Bool × Nat) := []
  /-- R232, R233: what feeds the frame in synthesis: stream, stored item, and n(f), none until a frame begins; none is
  black -/
  feed : Option (Nat × Bool × Option Nat) := none
  /-- R232: a tile has been synthesised from the feed; false -/
  usedFeed : Bool := false
  /-- R191: the frame in synthesis has had its first release; false -/
  firstRel : Bool := false
  /-- R267: the front buffer holds 2:1 code; false -/
  frontRatio2 : Bool := false
  /-- R189: causes of the tiles repeated in the frame; 0 -/
  repeatCauses : Nat := 0
  repeatReported : Bool := false
  /-- R190: the front frame is presented again; false -/
  heldNow : Bool := false
  /-- R242: the front frame repeated tiles, and its level; false, 0 -/
  frontRepeated : Bool := false
  frontLevel : Nat := 0
  /-- R268: half rate has begun; false -/
  half : Bool := false
  /-- R238: a timetable that has not had its first boundary: its E, TAG and whether the geometry changed; none -/
  ttEvent : Option (Nat × U32 × Bool) := none
  /-- R243: windows that come in force at the next boundary; none -/
  windowsDue : List (Nat × CrcWin) := []
  /-- R239, R215: the tap slot the frame in synthesis began in, and that of the front frame; 0 -/
  tapSlot : Nat := 0
  tapFront : Nat := 0
  /-- 16; R240; disabled -/
  windows : List CrcWin := []
  /-- R91: late rows, COMMIT_LATE count; 0 -/
  lateRows : Nat := 0
  commitLate : Nat := 0
  /-- R166: tables and layers latched at the window close of the frame in synthesis -/
  tables : Tables := {}
  /-- R210: the plane layers latched when a departure window last closed (log 17) -/
  layers : List LayerUse := []
  /-- R191: when the last tile of the frame in synthesis was complete, ns; 0 -/
  doneNs : Nat := 0
  /-- R303: values out of headroom in the sampled frame in synthesis; 0 -/
  headroom : Nat := 0
  /-- R267: a mode's first frame has not become front yet: rows that do not fit are late; false -/
  modeWaits : Bool := false
  /-- surfaces used by the front frame -/
  frontUses : List Nat := []
  /-- R238: rows are being sent; false -/
  sends : Bool := false
  /-- R258: the lane group is trained; false -/
  trained : Bool := false
  /-- R402: a training of the group has ended with fewer than two lanes in service -/
  trainFailed : Bool := false
  /-- R275: when the training of the group began, ns -/
  trainFromNs : Nat := 0
  anyFull : Bool := false
  /-- R284: DRV_CONFIG and DRV_CLEAR taken; false -/
  configured : Bool := false
  cleared : Bool := false
  /-- R267; normal -/
  mode : LaneMode := .normal
  /-- R265: lost lanes that wait for the next line instant: lane, cause, instant of detection, and of the last codeword
  without an uncorrectable error (R266) -/
  switching : List (Nat × Nat × Nat × Nat) := []
  /-- R229: boundaries are recomputed after a step; false -/
  rephase : Bool := false
  /-- R281: driver commands that wait for room after a row: PTYPE, CMD_SEQ, payload; empty -/
  cmdWaits : List (Nat × Nat × List U32) := []
  /-- R266, R281: the lines that resends and commands have used lately; empty -/
  lineUses : List LineUse := []
  /-- R383: the port's logic has failed, until its next boundary; false, and the late rows counted by then -/
  stopped : Bool := false
  lateAtStop : Nat := 0
deriving DecidableEq, Repr, Inhabited

/-- Boundary states of a part (Table 1-8). -/
inductive Junction where
  | opened | drain | withdraw | closed
deriving DecidableEq, Repr, Inhabited

/-- A block: its 17 cells, C16 the spare. -/
structure Block where
  /-- R22, R389: the siding cell; C16 -/
  spare : Nat := 16
  /-- 17; R22; none failed -/
  failedCells : List Nat := []
  removed : Bool := false
deriving DecidableEq, Repr, Inhabited

/-- A region (R22, R455). -/
structure Region where
  inService : Bool := false
  off : Bool := false
  blocks : List Block := []
  /-- R455: island clock in MHz -/
  mhz : Nat := 0
  limited : Bool := false
  /-- R455: the sensor reads above 110.0 °C; false -/
  above : Bool := false
deriving DecidableEq, Repr, Inhabited

/-! ## Layers, surfaces, memory and movers -/

/-- A pending change of a layer (R211). -/
structure LayerChange where
  surf : Option Nat := none
  newDef : Option LayerDef := none
  undefine : Bool := false
  target : Nat := 0
  /-- TAG of the command that named the surface -/
  tag : U32 := 0
  /-- mover jobs accepted before the commit (R209) -/
  waits : List Nat := []
  heldOnce : Bool := false
deriving DecidableEq, Repr, Inhabited

/-- A plane layer (R194). -/
structure Layer where
  defn : Option LayerDef := none
  surf : Option Nat := none
  pending : Option LayerChange := none
  owner : Nat := 0
  effective : Nat := 0
  heldCount : Nat := 0
deriving DecidableEq, Repr, Inhabited

/-- A surface (R198). -/
structure Surface where
  id : Nat := 0
  region : Nat := 0
  format : Nat := 0
  w : Nat := 0
  h : Nat := 0
  offset : Nat := 0
  stride : Nat := 0
  size : Nat := 0
  owner : Nat := 0
  inDisplay : Bool := false
  freeDeferred : Bool := false
  retireFrame : Nat := 0
deriving DecidableEq, Repr, Inhabited

/-- A memory region (R330). -/
structure MemRegion where
  id : Nat := 0
  owner : Nat := 0
  ecc : Nat := 0
  twin : Bool := false
  noGuard : Bool := false
  size : Nat := 0
  /-- controllers of the mask, ascending; for a twin-track region the even members -/
  mcs : List Nat := []
  /-- R315: local page B, pages on each controller, check pages -/
  base : Nat := 0
  pages : Nat := 0
  check : Nat := 0
  /-- R381: controllers that were isolated since the region was defined; none -/
  lostMcs : List Nat := []
  filling : Bool := false
  fillJob : Nat := 0
deriving DecidableEq, Repr, Inhabited

/-- Pages of an area that were relocated from an isolated controller (R381): that controller, and the range that holds
them now. -/
structure Moved where
  origin : Nat := 0
  mcs : List Nat := []
  base : Nat := 0
  pages : Nat := 0
  check : Nat := 0
deriving DecidableEq, Repr, Inhabited

/-- A reserved area (Table 11-4): code, port or stream, controllers, page range. -/
structure Area where
  code : Nat := 0
  unit : Nat := 0
  twin : Bool := false
  mcs : List Nat := []
  base : Nat := 0
  pages : Nat := 0
  check : Nat := 0
  /-- R381; none -/
  moved : List Moved := []
deriving DecidableEq, Repr, Inhabited

/-- Refresh and row-hammer state of a bank (R320, R321). -/
structure Bank where
  mc : Nat := 0
  ch : Nat := 0
  bank : Nat := 0
  debt : Nat := 0
  /-- R320: row and count, at most 64 -/
  rows : List (Nat × Nat) := []
deriving DecidableEq, Repr, Inhabited

/-- A memory controller (chapter 11). -/
structure Mc where
  inService : Bool := false
  isolated : Bool := false
  doubled : Bool := false
  /-- R322: last temperature, 0.5 °C; readings at or below 80 °C in a row -/
  temp : Int := 0
  coolRun : Nat := 0
  /-- R324: temperature at the last retraining of a channel; failures in a row; the paused channel; pauses that wait for
  their instant, with the instant at which they fell due and whether a commanded run of MEMORY calls for them -/
  trainTemps : List (Nat × Int) := []
  pausesDue : List (Nat × Nat × Bool) := []
  retrainFails : List (Nat × Nat) := []
  paused : Option Nat := none
  /-- R18: the pause belongs to a commanded run; false -/
  pauseOfRun : Bool := false
  /-- R336: pass period in s, 0 off; words corrected and uncorrectable in the pass -/
  scrubS : Nat := 0
  scrubCorrected : Nat := 0
  scrubBad : Nat := 0
  /-- R379: failed transfers in a row, by channel -/
  failedTransfers : List Nat := []
  /-- R326: retries, and transfers that failed after them, since the last MEM_LINK_ERRORS; 0 -/
  linkRetries : Nat := 0
  linkFailed : Nat := 0
  /-- Table 11-6: device reports of words of class none; 0 -/
  reports : Nat := 0
  selfRefresh : Bool := false
  /-- R389: pages that the bulk copy has still to pass -/
  copying : Bool := false
  copied : List Nat := []
deriving DecidableEq, Repr, Inhabited

/-- A mover job on the scoreboard (R342, R352). -/
structure MoverJob where
  id : Nat := 0
  op : Nat := 0
  xDesc : Bool := false
  yDesc : Bool := false
  signal : Nat := 0
  src : Nat := 0
  dst : Nat := 0
  srcX : Nat := 0
  srcY : Nat := 0
  dstX : Nat := 0
  dstY : Nat := 0
  w : Nat := 0
  h : Nat := 0
  fill : Nat := 0
  hazard : Bool := false
  destShown : Bool := false
  /-- source words taken as zero, by their key (R350) -/
  poisoned : List Nat := []
  linesDone : Nat := 0
  /-- the mover that runs the job; none while queued -/
  mover : Option Nat := none
  aborting : Bool := false
deriving DecidableEq, Repr, Inhabited

/-! ## Lanes, drivers and panel power -/

/-- Lane states (R246, R257, Table 3-13). -/
inductive LaneState where
  | idle | wake | align | eq | check | active | siding | lost
deriving DecidableEq, Repr, Inhabited

/-- A panel lane (chapter 09). -/
structure Lane where
  st : LaneState := .idle
  unusable : Bool := false
  stripe : Nat := 0xFF
  full : Bool := false
  attempts : Nat := 0
  /-- R256: PRE and POST; trained since release -/
  pre : Nat := 0
  post : Nat := 0
  everTrained : Bool := false
  lostSince : Bool := false
  /-- R91: LANE_LOST count of Table 3-13 -/
  lostCount : Nat := 0
  fom : Nat := 0
  /-- R260: last FLAGS -/
  flags : Nat := 0
  lowRun : Nat := 0
  marginRun : Nat := 0
  retries : Nat := 0
  asleep : Bool := false
  deep : Bool := false
  /-- R270: FoM of the last 4 windows before and after a step; step in trial -/
  window : List Nat := []
  before : Nat := 0
  after : List Nat := []
  trial : Option (Bool × Bool) := none
  /-- 6 and 5; R399, R405; 0: swing and termination trim that the lane drives with -/
  txTrim : Int × Int := (0, 0)
  /-- R401: LANE_TX has skipped the lane, which takes the trim at WAKE -/
  skipTrim : Bool := false
  /-- R399: steps of a commanded LANE_EQ run that are done: PRE up, PRE down, POST up, POST down -/
  eqStage : Nat := 0
  /-- when the lane fell asleep, in ns (R414) -/
  sleptNs : Nat := 0
  /-- R261, R265: the siding lane of the lane's set of 12, as the lanes were last assigned; 0xFF none -/
  sidingOf : Nat := 0xFF
  /-- R269: the training is a retry; false -/
  retrying : Bool := false
  /-- R18: PRE and POST before the training -/
  oldTaps : Nat × Nat := (0, 0)
  /-- R257: SF_COUNT when the phase began, and good windows of CHECK in a row; 0 -/
  phaseSf : Nat := 0
  checkRun : Nat := 0
  /-- R257: a LANE_REPORT since the phase began showed block, comma and FEC lock; false -/
  locked : Bool := false
  /-- R260: WINDOW_SF of the last window taken; none -/
  windowSf : Option Nat := none
  /-- R270: the port frame in which the lane last took a step; none -/
  stepFrame : Option Nat := none
  /-- R273: where S of the last sleep stands, in eighths of a UI; none -/
  wakeUi : Option Nat := none
deriving DecidableEq, Repr, Inhabited

/-- A lane quad's return lane and counters (R259, R274). -/
structure Quad where
  returnUp : Bool := false
  /-- R264: of the last 16 messages, newest first, whether each failed CHECK; empty -/
  recent : List Bool := []
  checkFails : Nat := 0
  discarded : Nat := 0
  corrected : Nat := 0
  uncorr : Nat := 0
deriving DecidableEq, Repr, Inhabited

/-- A column driver (R277, R286). -/
structure Driver where
  id : Nat := 0
  quad : Nat := 0
  family : Nat := 0
  colFirst : Nat := 0
  colCount : Nat := 0
  rowFirst : Nat := 0
  rowCount : Nat := 0
  temp : Int := 0
  flags : Nat := 0
  announced : Bool := false
deriving DecidableEq, Repr, Inhabited

/-- A driver command that waits for acknowledgements (R285). -/
structure DrvCmd where
  seq : Nat := 0
  ptype : Nat := 0
  port : Nat := 0
  /-- drivers whose CMD_ACK is missing -/
  missing : List Nat := []
  repeats : Nat := 0
  payload : List U32 := []
deriving DecidableEq, Repr, Inhabited

/-- What the rail sequencer is doing (R292, R293). -/
inductive RailRun where
  | idle | up | down
deriving DecidableEq, Repr, Inhabited

/-- Panel power (chapter 10). -/
structure Power where
  /-- 4; R42; low -/
  en : BitVec 4 := 0
  /-- 4; R291; DESIGN CHOICE low (log 5): the GOOD inputs -/
  good : BitVec 4 := 0
  railsUp : Bool := false
  driverUp : Bool := false
  run : RailRun := .idle
  step : Nat := 0
  /-- the output the step waits on -/
  waitOn : Option Nat := none
  /-- R293: a GOOD that did not fall, by output -/
  stuck : BitVec 4 := 0
  job : Nat := 0
  /-- R295: a down sequence that waits for the up job's next step boundary, with its job, 0 for none; none -/
  downWaits : Option Nat := none
  startNs : Nat := 0
  /-- R296: codes in force, and codes that wait for the boundary -/
  iref : List Nat := []
  irefPending : Option (List Nat) := none
  irefOn : Bool := false
  /-- R285; 0 -/
  cmdSeq : Nat := 0
  cmds : List DrvCmd := []
  params : DriveParams := {}
  /-- R298: seeded rows -/
  seeded : List Nat := []
  /-- R299: map loads answered, and the codes that tiles then running go on reading: the load, the index, the code; 0, empty -/
  mapLoads : Nat := 0
  mapOld : List (Nat × Nat × Nat) := []
  /-- R304: a restore is running from copy B -/
  restoring : Option Bool := none
  /-- R304: last geometry a persistence copy was looked for -/
  geometry : Option (Nat × Nat × Nat) := none
  /-- R455; false -/
  tripped : Bool := false
deriving DecidableEq, Repr, Inhabited

/-! ## Time, faults, calibration, counters -/

/-- Time unit states (Table 13-2). -/
inductive TimeState where
  | freerun | acquiring | locked | holdover | undisciplined
deriving DecidableEq, Repr, Inhabited

/-- A PTP master heard (R362): the port it is heard on, its sourcePortIdentity, and what its newest Announce gives. -/
structure Master where
  ep : Nat := 0
  source : U64 := 0
  sourcePort : Nat := 0
  priority1 : Nat := 0
  clockClass : Nat := 0
  accuracy : Nat := 0
  variance : Nat := 0
  priority2 : Nat := 0
  /-- grandmasterIdentity and stepsRemoved -/
  ident : U64 := 0
  steps : Nat := 0
  utcOffset : Nat := 0
  /-- the instant of T in ns at which three intervals have passed since its newest Announce -/
  lapses : Int := 0
deriving DecidableEq, Repr, Inhabited

/-- The time unit (chapter 13). -/
structure Time where
  /-- 48; R357; 0 -/
  sec : BitVec 48 := 0
  /-- 30; R357; 0 -/
  ns : BitVec 30 := 0
  /-- 44; R357; 0 -/
  frac : BitVec 44 := 0
  /-- 48 (unsigned 4.44); R358; 0x2_0000_0000_000 -/
  inc : BitVec 48 := 0
  /-- R357: the counter runs from stage S5; false -/
  runs : Bool := false
  /-- R366; FREERUN -/
  st : TimeState := .freerun
  masters : List Master := []
  chosen : Option Master := none
  /-- R364: the exchange in hand, 1/16 ns: t1, t2raw, c_sync, and t3raw; none -/
  t1 : Option Int := none
  /-- a Sync of a two-step master waits for its Follow_Up; false; and its sequenceId -/
  syncWaits : Bool := false
  syncSeq : U16 := 0
  t2raw : Int := 0
  cSync : Int := 0
  t3raw : Option Int := none
  /-- sequenceId of the newest Delay_Req sent, and of the newest Sync and Announce; 0 -/
  delaySeq : U16 := 0
  sendSeq : U16 := 0
  /-- R365: the 16 last accepted means, discards in a row, discards since TIM_STATUS; empty -/
  means : List Int := []
  discardRun : Nat := 0
  discarded : Nat := 0
  offset : Int := 0
  mean : Int := 0
  /-- R366: accepted offsets in a row within 100 ns, beyond 500 ns, beyond STEP_LIMIT; 0 -/
  within : Nat := 0
  beyond : Nat := 0
  beyondStep : Nat := 0
  firstOffset : Bool := true
  /-- R365: the frequency that the loop has found, in 2⁻⁴⁴ ns a tick; 0 -/
  rate : Int := 0
  /-- R362: Delay_Req answered and Sync sent; unsupported messages counted; 0 -/
  unsupported : Nat := 0
  /-- R369: PPS_IN present, the last edge, ever locked to it -/
  ppsPresent : Bool := false
  ppsLast : Option Nat := none
  ppsLocked : Bool := false
  /-- the first edge that counts has set the nanoseconds; false -/
  ppsSet : Bool := false
  ppsDiff : Option Int := none
  /-- R369: the source of the 500 MHz clock is 10M_IN; false -/
  ref10m : Bool := false
  /-- R370: SECONDS that wait for the next whole second, with the second in which the command was taken; none -/
  setPending : Option (Nat × Nat) := none
  /-- the whole second that WHOLE_SECOND reached last; none -/
  secondDone : Option Nat := none
  setDone : Bool := false
  /-- R371; low, and started by the first timetable -/
  ppsOut : Bool := false
  ppsOutOn : Bool := false
  /-- R384: copies of the counter in use, and when each copy last differed; all three -/
  copies : List Nat := []
  lastVote : List (Nat × Nat) := []
  /-- R368: the values of INCREMENT in LOCKED, newest first, each with the instant from which it was held; empty -/
  incLog : List (Int × Nat) := []
  /-- R374: currentUtcOffset of the chosen master; 0 -/
  utcOffset : Nat := 0
deriving DecidableEq, Repr, Inhabited

/-- An isolated part (R385, R388). -/
structure Isolation where
  cls : Nat := 0
  unit : Nat := 0
  cause : Nat := 0
  junction : Junction := .opened
  sinceNs : Nat := 0
  closedNs : Nat := 0
  /-- stays isolated until the next start -/
  forever : Bool := false
  testing : Bool := false
  railGood : Bool := true
  /-- R385: requests from the part that were discarded while its boundary drained; 0 -/
  discarded : Nat := 0
deriving DecidableEq, Repr, Inhabited

/-- Fault handling (chapter 14). -/
structure Faults where
  isolated : List Isolation := []
  /-- 4; R27; 0: epoch of a part, by class and unit -/
  epochs : List (Nat × Nat × Nat) := []
  /-- R91: late epoch replies; 0 -/
  lateReplies : Nat := 0
  /-- R380: failed links: stop and south -/
  links : List (Nat × Bool) := []
  /-- R394: injected faults that are not cleared: class, unit, kind, and the instant in ns; none -/
  injected : List (Nat × Nat × Nat × Nat) := []
  injecting : Bool := false
  /-- R377; false: a fault outside the guarantee holds FAULT_N low until POR_N falls -/
  outside : Bool := false
  /-- R383: the scheduler restarts since this instant in ns; none -/
  schedStopped : Option Nat := none
  /-- parts re-admitted once: class and unit -/
  readmitted : List (Nat × Nat) := []
deriving DecidableEq, Repr, Inhabited

/-- The Stationmaster pairs (R53, R390). -/
structure Sm where
  /-- R91: lockstep pair in service; none while no pair serves -/
  active : Option Nat := none
  /-- R91: the relief pair; none -/
  relief : Option Nat := none
  /-- R81: when the last pair left service, ns; none while one serves -/
  leftNs : Option Nat := none
deriving DecidableEq, Repr, Inhabited

/-- A calibration domain (R398 to R404). -/
structure CalDomain where
  stale : Bool := false
  running : Bool := false
  job : Nat := 0
  count : Nat := 0
  lastS : Nat := 0
  lastNs : Nat := 0
  lastFailed : Bool := false
  /-- the units of the run in progress -/
  units : List Nat := []
  /-- R405: I(Tj) in force at the start of the run, by ITEM -/
  startDelta : List (Nat × Int) := []
deriving DecidableEq, Repr, Inhabited

/-- Calibration (chapter 15). -/
structure Cal where
  /-- DOMAIN 1 to 5; R403; COUNT 0, STALE 0 -/
  domains : List CalDomain := []
  /-- R405: C by ITEM; 0 until the first run -/
  corr : List (Nat × Int) := []
  /-- R406: INDEX, TEMP, entries; empty -/
  sets : List (Nat × Int × List (Nat × Int)) := []
  /-- R405: the trim in force by ITEM -/
  trim : List (Nat × Int) := []
  /-- R297, R399: the trim of items 0x0010 to 0x001B as the IREF outputs take it -/
  irefTrim : List (Nat × Int) := []
  /-- last sensor temperatures in 0.5 °C -/
  temps : List Int := []
  /-- the same without the trim of the sensors -/
  raw : List Int := []
  /-- R405, R407: I(Tj) in force by ITEM -/
  deltas : List (Nat × Int) := []
  /-- R400, R402: items whose unit the last run of their domain has calibrated, while STALE stays set -/
  fresh : List Nat := []
deriving DecidableEq, Repr, Inhabited

/-- A counter (R413 to R417), kept only where it differs from its state at release. -/
structure Counter where
  slot : Nat := 0
  idx : Nat := 0
  event : Nat := 0
  count : BitVec 48 := 0
  wrapped : Bool := false
  isolated : Bool := false
deriving DecidableEq, Repr, Inhabited

/-- A window area: header and entries (R418). -/
structure CounterWindow where
  seq : Nat := 0
  timeNs : Nat := 0
  timeS : Nat := 0
  complete : Bool := false
  source : Bool := false
  entries : List Counter := []
deriving DecidableEq, Repr, Inhabited

/-- A snapshot that has been requested (R420). -/
structure SnapRequest where
  id : Nat := 0
  /-- SOURCE: true for the register -/
  register : Bool := false
  /-- T_s, in ns -/
  atNs : Nat := 0
  latched : Bool := false
deriving DecidableEq, Repr, Inhabited

/-- Performance counters (chapter 16). -/
structure Perf where
  counters : List Counter := []
  live : CounterWindow := {}
  snap : CounterWindow := {}
  /-- R416: programming that waits for its whole microsecond: slot, counter, event, and that instant in ns -/
  pending : List (Nat × Nat × Nat × Nat) := []
  /-- R420: the pending snapshot, and the one that follows its completion; none -/
  request : Option SnapRequest := none
  next : Option SnapRequest := none
  latched : List Counter := []
  /-- 32; R420: the last SNAPSHOT_ID given; 0 DESIGN CHOICE (log 5) -/
  lastId : Nat := 0
  /-- the SNAPSHOT_ID that the `perf_snapshot` in hand joined -/
  wanted : Nat := 0
  userGrant : Bool := false
deriving DecidableEq, Repr, Inhabited

/-- Thermal agent (R455): samples at or above 120 °C in a row per sensor. -/
structure Thermal where
  hot : List (Nat × Nat) := []
  /-- R399: what the sensors reported last, which they report on during a run of THERMAL -/
  last : List Int := []
deriving DecidableEq, Repr, Inhabited

/-- An answer of an Ethernet port (R98). -/
inductive Answer where
  /-- ARP reply: own MAC and address, and whom it goes to -/
  | arpReply (mac : BitVec 48) (own : BitVec 32) (destMac : BitVec 48) (dest : BitVec 32)
  /-- IPv6 neighbor advertisement: own MAC and address, and whom it goes to -/
  | neighborAdvertisement (mac : BitVec 48) (own : BitVec 128) (destMac : BitVec 48) (dest : BitVec 128)
  /-- ICMP or ICMPv6 echo reply: from, to and the echoed body -/
  | echoReply (own dest : BitVec 128) (body : List Byte)
  /-- IGMPv3 or MLDv2 report of the groups joined, in EXCLUDE mode with an empty source list -/
  | groupReport (groups : List (BitVec 128))
deriving DecidableEq, Repr, Inhabited

/-- PTP messages sent (R361, R362), with their sequenceId; times in 1/16 ns. -/
inductive PtpSent where
  | sync (seq : U16)
  /-- preciseOriginTimestamp -/
  | followUp (seq : U16) (origin : Int)
  | announce (seq : U16) (priority1 clockClass accuracy variance priority2 : Nat)
  | delayReq (seq : U16)
  /-- receiveTimestamp, correctionField and requestingPortIdentity -/
  | delayResp (seq : U16) (receive corr : Int) (requester : U64) (requesterPort : U16)
deriving DecidableEq, Repr, Inhabited

/-- What a line carries beside its row: a packet from one of the line's block numbers on, or the SWITCH block of a lane, which
stands in the slot before the lane's first data slot (R262, R265). -/
structure LineItem where
  port : Nat := 0
  /-- the frame, as a boundary count, and the line -/
  boundary : Nat := 0
  line : Nat := 0
  first : Nat := 0
  switchLane : Option Nat := none
  data : List Byte := []
deriving DecidableEq, Repr, Inhabited

/-- What leaves the block, newest first: the outputs that the rules name. -/
structure Out where
  /-- R93, R96: CCI datagrams -/
  udp : List (Peer × List Byte) := []
  /-- R109: anchor requests: port, peer, packet -/
  anchors : List (Nat × Peer × List Byte) := []
  /-- R262, R279: rows sent: port, frame, row and the code bytes; none where idle content is sent -/
  rows : List (Nat × Nat × Nat × List Byte) := []
  /-- R265, R267: SWITCH blocks: lane, stripe, count -/
  switches : List (Nat × Nat × Nat) := []
  /-- R272: LP_ENTER blocks: lane, LP-deep, WAKE_SF -/
  sleeps : List (Nat × Bool × Nat) := []
  /-- R283: segments resent: port, frame, row, the lost stripe, the active lanes of the line being repaired, and J0 -/
  resends : List (Nat × Nat × Nat × Nat × Nat × Nat) := []
  /-- R262, R265, R281: where resends, commands and SWITCH blocks stand, newest first -/
  items : List LineItem := []
  /-- R284, R285: driver packets: port, PTYPE, DRV_ID, CMD_SEQ, payload -/
  drv : List (Nat × Nat × Nat × Nat × List U32) := []
  /-- R362: messages sent, with their port -/
  ptp : List (Nat × PtpSent) := []
  /-- R98: group joins and leaves: port, join, group -/
  groups : List (Nat × Bool × BitVec 128) := []
  /-- R98: answers sent, with their port -/
  answers : List (Nat × Answer) := []
deriving DecidableEq, Repr, Inhabited

/-- The chip behind its host interface: everything but the fuses, the BAR0 registers and rings, the event writer and
the queue of commands. -/
structure Chip where
  /-- T and the time unit (chapter 13) -/
  time : Time := {}
  /-- the start (chapter 02) -/
  start : Start := {}
  /-- R45: shadow registers of the fuse array, loaded in stage S1 -/
  shadow : FuseArray := {}
  flash : Flash := {}
  /-- R49: the configuration block of the running image -/
  cfg : ConfigBlock := {}
  sm : Sm := {}
  /-- 1; R58; low: SYS_READY -/
  sysReady : Bool := false
  /-- 1; R43; low at reset: POR_N -/
  porLow : Bool := true
  pcie : Pcie := {}
  cci : Cci := {}
  /-- R107, R151, R214, R227, R242, R270, R286, R326, R341, R387, R417, R455; empty: rate limits of events -/
  limits : List Limit := []
  eth : List Eth := []
  streams : List Stream := []
  decs : List Decoder := []
  store : Store := {}
  /-- R166: the newest tables loaded -/
  tables : Tables := {}
  /-- 32; R84; 0: GENERATION of the last `table_load` -/
  tableGen : Nat := 0
  ports : List Port := []
  regions : List Region := []
  layers : List Layer := []
  /-- at most 256; R198; empty -/
  surfs : List Surface := []
  /-- at most 64; R330; empty -/
  mems : List MemRegion := []
  /-- R316; empty -/
  areas : List Area := []
  mcs : List Mc := []
  banks : List Bank := []
  /-- 12,582,912; R334; 0: written pages, as MC × 2²⁰ + local page -/
  written : List Nat := []
  /-- R337; none: poisoned words, as MC × 2²⁶ + local word address -/
  poison : List Nat := []
  /-- R326; none: words whose reads fail their link CRC in every retry, for the accesses of the next command (log 99) -/
  crcBad : List Nat := []
  /-- R337; none: repairs under way, by word as in `poison`, with their repair code -/
  repairs : List (Nat × Nat) := []
  /-- 64 GiB; R311; GDDR7 by MC × 2³² + local address; a byte not listed is 0 (R56, R334, R335) -/
  ram : List Host.Cell := []
  /-- 32; R91; 0: DATA_POISONED and UNWRITTEN reads -/
  poisonReads : Nat := 0
  unwrittenReads : Nat := 0
  /-- R313: controllers in service at release; empty -/
  linearMcs : List Nat := []
  movers : List MoverJob := []
  /-- R187: M, the Work-class bytes per second last measured; 0 -/
  workRate : Nat := 0
  /-- R355: movers isolated; none -/
  moverOut : List Nat := []
  /-- 16 and the place within the superframe; R251; 0 DESIGN CHOICE (log 84): SF_COUNT and the place, in eighths of a UI -/
  laneUi : Nat := 0
  lanes : List Lane := []
  quads : List Quad := []
  drivers : List Driver := []
  power : Power := {}
  faults : Faults := {}
  cal : Cal := {}
  perf : Perf := {}
  thermal : Thermal := {}
  out : Out := {}
  /-- The model's own: signals that the step has raised and not yet delivered (log 14); empty between steps -/
  signals : List Signal := []
  /-- The model's own: how many free values have been drawn (log 7); 0 DESIGN CHOICE -/
  free : Nat := 0
deriving DecidableEq, Repr, Inhabited

/-- The fuse array: three copies of every word (R45). -/
structure Fuses where
  copy0 : FuseArray := {}
  copy1 : FuseArray := {}
  copy2 : FuseArray := {}
  /-- a word that the majority cannot settle (R46) -/
  unsettled : Bool := false
deriving DecidableEq, Repr, Inhabited

/-- What the instruction register of the test access port selects (R451). -/
inductive TapInstr where
  | bypass | idcode | samplePreload
  /-- any other instruction -/
  | other
deriving DecidableEq, Repr, Inhabited

/-- The test access port (R451): its pins as the integrator holds them, TEST_EN and TRST_N by their pull-downs, and what it
selects. No command of the table drives it (log 86). -/
structure Tap where
  /-- 1; R451; false -/
  testEn : Bool := false
  /-- 1; R451; false: TRST_N is high -/
  trstN : Bool := false
  /-- R451; PRESUMED idcode (IEEE 1149.1: the port's own reset, log 86) -/
  instr : TapInstr := .idcode
deriving DecidableEq, Repr, Inhabited

/-- The state of the controller and the commands that wait. -/
structure State where
  fuses : Fuses := {}
  chip : Chip := {}
  hif : Hif := {}
  evt : Evt := {}
  tap : Tap := {}
  /-- the commands that wait, first in first out; empty -/
  pending : List Instr := []
deriving DecidableEq, Repr

/-- The part that `State.reset` takes: an ECT9648-A2-FB with no key fused (log 5). -/
def State.resetFuse : FuseArray := { orderingCode := 0x1#4 }

/-- HIF registers at controller reset (Tables 17-3 to 17-7). -/
def State.resetHif : Hif :=
  { irqMask := 0x7FFFFF#32, threshold := 64, msixTable := List.replicate 32 (0, 0, true) }

/-- Everything behind the host interface at controller reset: T cleared with INCREMENT nominal (R357), nothing defined
(R58), the flash as the part keeps it. -/
def State.resetChip (flash : Flash) : Chip :=
  { time := { inc := 0x200000000000#48, copies := [0, 1, 2] }
    flash := flash
    eth := List.replicate 2 {}
    streams := List.replicate 16 {}
    decs := List.replicate 8 {}
    ports := List.replicate 4 {}
    regions := List.replicate 16 { blocks := List.replicate 4 {} }
    layers := List.replicate 8 {}
    mcs := List.replicate 16 {}
    lanes := List.replicate 48 {}
    quads := List.replicate 12 {}
    power := { iref := List.replicate 4 0x800, params := defaultParams }
    cal := { domains := List.replicate 6 {} } }

/-- The machine right after controller reset (R11, R42, R43): POR_N is low, every output is as R42 states, and the
flash holds no image (log 5). -/
def State.reset : State :=
  { fuses := { copy0 := State.resetFuse, copy1 := State.resetFuse, copy2 := State.resetFuse }
    chip := State.resetChip { bcb0 := { good := true }, bcb1 := { good := true } }
    hif := State.resetHif
    evt := { nextSeq := 1 } }

end Sys2Proof.Machine
end

