-- ==== Sys2Proof/Config.lean ====
section
/-!
DEFINITION. What an implementation fixes and the spec leaves open: constants without a body, so that nothing can be
proved of a value of theirs (assumption log 7 and 8).
-/

namespace Sys2Proof

/-- A free value: the n-th value the spec leaves open in a run (log 7). -/
opaque Config.freeValue : Nat → Nat

/-- A free decision: the n-th choice the spec leaves to chance (R302) in a run (log 7). -/
opaque Config.freeBit : Nat → Bool

/-- The coefficient that R201 names when its phase rounds up to 64, beyond the last phase of a set, by tap (log 7). -/
opaque Config.coefBeyond : Nat → Int

/-- Ed25519 verification (R50): public key, message, signature. Its standard is outside the spec (log 8). -/
opaque Config.ed25519Verify : List Byte → List Byte → List Byte → Bool

/-- What an image body holds (R49): Eloavia tools produce the body, and its inner form is not stated (log 8). -/
opaque Config.imageBlock : List Byte → Machine.ConfigBlock

/-- A byte of a boot control block copy, by its offset: the spec names the block's fields and not their places (log 87). -/
opaque Config.bootBlockByte : Machine.BootBlock → Nat → Byte

end Sys2Proof
end

