-- ==== Sys2Proof/Machine/Bits.lean ====
section
/-!
DEFINITION. Bit fields, byte orders, list access, the check functions (CRC-32C, CRC-16 of R260, SHA-256 and
HMAC-SHA-256 of the standards list in 00_scope) that the layouts of every chapter use.
-/

namespace Sys2Proof.Machine

/-! ## Words, fields and signed differences -/

/-- A number as a 32-bit word. -/
def w (n : Nat) : U32 := BitVec.ofNat 32 n
/-- A signed number as a 32-bit two's-complement word. -/
def wi (n : Int) : U32 := BitVec.ofInt 32 n
/-- A flag as a number. -/
def b01 (b : Bool) : Nat := if b then 1 else 0
/-- Bits [hi:lo] of a word (R7). -/
def fld (x : Nat) (hi lo : Nat) : Nat := (x >>> lo) % 2 ^ (hi - lo + 1)
/-- Modulo 2³². -/
def w32 (n : Nat) : Nat := n % 2 ^ 32
/-- Two's-complement reading of an n-bit number (R13). -/
def signed (n x : Nat) : Int := (BitVec.ofNat n x).toInt
/-- a − b as a signed 32-bit difference (R100, R223, R373). -/
def seqDiff (a b : Nat) : Int := signed 32 (w32 a + (2 ^ 32 - w32 b))
/-- `clamp` of R12 on integers. -/
def clampI (v lo hi : Int) : Int := if v < lo then lo else if v > hi then hi else v
/-- Rounding up division. -/
def cdiv (a b : Nat) : Nat := (a + b - 1) / b
/-- Rounded up to a multiple. -/
def roundUp (a b : Nat) : Nat := cdiv a b * b
/-- Add one, saturating at 2³² − 1 (R115, R429). -/
def satInc (x : U32) : U32 := if x = 0xFFFFFFFF#32 then x else x + 1

/-! ## Lists -/

/-- Entry i of a list of like units. -/
def nth {α : Type} [Inhabited α] (l : List α) (i : Nat) : α := l.getD i default
/-- Change entry i of a list of like units. -/
def upd {α : Type} (l : List α) (i : Nat) (f : α → α) : List α := l.modify i f
/-- Entry for a key of an association list, with a default. -/
def look {β : Type} (l : List (Nat × β)) (k : Nat) (d : β) : β :=
  match l.find? (fun p => p.1 = k) with
  | some p => p.2
  | none => d
/-- Set the entry of a key. -/
def put {β : Type} (l : List (Nat × β)) (k : Nat) (v : β) : List (Nat × β) :=
  (k, v) :: l.filter (fun p => p.1 ≠ k)
/-- Sum of a list. -/
def total (l : List Nat) : Nat := l.foldl (· + ·) 0
/-- Insert into a sorted list without repeats. -/
def insertSorted (a : Nat) : List Nat → List Nat
  | [] => [a]
  | b :: l => if a < b then a :: b :: l else if a = b then b :: l else b :: insertSorted a l
/-- Positions of the bits that are 1, ascending. -/
def bitsOf (n width : Nat) : List Nat := (List.range width).filter (fun i => n.testBit i)
/-- The number with the named bits 1. -/
def maskOf (l : List Nat) : Nat := l.foldl (fun m i => m ||| 1 <<< i) 0
/-! ## Bytes -/

/-- k little-endian bytes (R6). -/
def leBytes (n k : Nat) : List Byte := (List.range k).map (fun i => BitVec.ofNat 8 (n >>> (8 * i)))
/-- k bytes, most significant first (R6). -/
def beBytes (n k : Nat) : List Byte := (leBytes n k).reverse
/-- The number of little-endian bytes. -/
def ofLe : List Byte → Nat
  | [] => 0
  | b :: l => b.toNat + 256 * ofLe l
/-- The number of bytes sent most significant first. -/
def ofBe (l : List Byte) : Nat := l.foldl (fun n b => 256 * n + b.toNat) 0
/-- Bytes off to off + n − 1; bytes that the list lacks read 0. -/
def slice (l : List Byte) (off n : Nat) : List Byte :=
  let x := (l.drop off).take n
  x ++ List.replicate (n - x.length) 0#8
/-- The little-endian words of bytes. -/
def wordsOf (l : List Byte) : List U32 :=
  (List.range (cdiv l.length 4)).map (fun i => w (ofLe (slice l (4 * i) 4)))
/-- The bytes of little-endian words. -/
def bytesOf (l : List U32) : List Byte := l.flatMap (fun x => leBytes x.toNat 4)
/-- Little-endian word at a byte offset. -/
def le32 (l : List Byte) (off : Nat) : Nat := ofLe (slice l off 4)
/-- The byte at an offset. -/
def byteOf (b : List Byte) (off : Nat) : Nat := (nth b off).toNat
/-- Little-endian half word at a byte offset. -/
def le16 (l : List Byte) (off : Nat) : Nat := ofLe (slice l off 2)
/-- Big-endian half word at a byte offset. -/
def be16 (l : List Byte) (off : Nat) : Nat := ofBe (slice l off 2)
/-- Big-endian word at a byte offset. -/
def be32 (l : List Byte) (off : Nat) : Nat := ofBe (slice l off 4)
/-- Replace the bytes from off on. -/
def patch (l : List Byte) (off : Nat) (d : List Byte) : List Byte :=
  slice l 0 off ++ d ++ l.drop (off + d.length)

/-! ## CRC-32C (Castagnoli, 0x1EDC_6F41, reflected) and the CRC-16 of R260 -/

/-- One bit step of the reflected CRC-32C. -/
def crc32cBit (c : Nat) : Nat := if c % 2 = 1 then (c >>> 1) ^^^ 0x82F63B78 else c >>> 1
/-- One byte into the running CRC-32C. -/
def crc32cByte (c : Nat) (b : Byte) : Nat :=
  crc32cBit (crc32cBit (crc32cBit (crc32cBit (crc32cBit (crc32cBit (crc32cBit (crc32cBit (c ^^^ b.toNat))))))))
/-- Bytes into the running CRC-32C. -/
def crc32cUpdate (c : Nat) (l : List Byte) : Nat := l.foldl crc32cByte c
/-- CRC-32C of bytes: initial value all ones, result inverted (R145, R241). -/
def crc32c (l : List Byte) : Nat := crc32cUpdate 0xFFFFFFFF l ^^^ 0xFFFFFFFF
/-- CRC-32C with the 4 bytes at off taken as 0. -/
def crcZeroed (l : List Byte) (off : Nat) : Nat := crc32c (patch l off (List.replicate 4 0#8))

/-- One bit step of crc16 (R260). -/
def crc16Bit (c : Nat) : Nat := if c.testBit 15 then ((c <<< 1) ^^^ 0x1021) % 65536 else (c <<< 1) % 65536
/-- One byte into crc16. -/
def crc16Byte (c : Nat) (b : Byte) : Nat :=
  crc16Bit (crc16Bit (crc16Bit (crc16Bit (crc16Bit (crc16Bit (crc16Bit (crc16Bit (c ^^^ (b.toNat <<< 8)))))))))
/-- crc16 of R260. -/
def crc16 (l : List Byte) : Nat := l.foldl crc16Byte 0xFFFF

/-! ## SHA-256 and HMAC-SHA-256 -/

/-- Round constants of SHA-256. -/
def shaK : List U32 :=
  [0x428a2f98#32, 0x71374491#32, 0xb5c0fbcf#32, 0xe9b5dba5#32, 0x3956c25b#32, 0x59f111f1#32, 0x923f82a4#32,
   0xab1c5ed5#32, 0xd807aa98#32, 0x12835b01#32, 0x243185be#32, 0x550c7dc3#32, 0x72be5d74#32, 0x80deb1fe#32,
   0x9bdc06a7#32, 0xc19bf174#32, 0xe49b69c1#32, 0xefbe4786#32, 0x0fc19dc6#32, 0x240ca1cc#32, 0x2de92c6f#32,
   0x4a7484aa#32, 0x5cb0a9dc#32, 0x76f988da#32, 0x983e5152#32, 0xa831c66d#32, 0xb00327c8#32, 0xbf597fc7#32,
   0xc6e00bf3#32, 0xd5a79147#32, 0x06ca6351#32, 0x14292967#32] ++
  [0x27b70a85#32, 0x2e1b2138#32, 0x4d2c6dfc#32, 0x53380d13#32, 0x650a7354#32, 0x766a0abb#32, 0x81c2c92e#32,
   0x92722c85#32, 0xa2bfe8a1#32, 0xa81a664b#32, 0xc24b8b70#32, 0xc76c51a3#32, 0xd192e819#32, 0xd6990624#32,
   0xf40e3585#32, 0x106aa070#32, 0x19a4c116#32, 0x1e376c08#32, 0x2748774c#32, 0x34b0bcb5#32, 0x391c0cb3#32,
   0x4ed8aa4a#32, 0x5b9cca4f#32, 0x682e6ff3#32, 0x748f82ee#32, 0x78a5636f#32, 0x84c87814#32, 0x8cc70208#32,
   0x90befffa#32, 0xa4506ceb#32, 0xbef9a3f7#32, 0xc67178f2#32]

/-- Initial hash value of SHA-256. -/
def shaInit : List U32 :=
  [0x6a09e667#32, 0xbb67ae85#32, 0x3c6ef372#32, 0xa54ff53a#32, 0x510e527f#32, 0x9b05688c#32, 0x1f83d9ab#32,
   0x5be0cd19#32]

/-- The message schedule, kept newest first, extended by n words. -/
def shaSchedule : Nat → List U32 → List U32
  | 0, l => l
  | n + 1, l =>
    let w15 := nth l 14
    let w2 := nth l 1
    let s0 := (w15.rotateRight 7) ^^^ (w15.rotateRight 18) ^^^ (w15 >>> 3)
    let s1 := (w2.rotateRight 17) ^^^ (w2.rotateRight 19) ^^^ (w2 >>> 10)
    shaSchedule n ((nth l 15 + s0 + nth l 6 + s1) :: l)

/-- One round. -/
def shaRound (v : List U32) (kw : U32 × U32) : List U32 :=
  let a := nth v 0
  let e := nth v 4
  let s1 := (e.rotateRight 6) ^^^ (e.rotateRight 11) ^^^ (e.rotateRight 25)
  let ch := (e &&& nth v 5) ^^^ (~~~e &&& nth v 6)
  let t1 := nth v 7 + s1 + ch + kw.1 + kw.2
  let s0 := (a.rotateRight 2) ^^^ (a.rotateRight 13) ^^^ (a.rotateRight 22)
  let maj := (a &&& nth v 1) ^^^ (a &&& nth v 2) ^^^ (nth v 1 &&& nth v 2)
  [t1 + s0 + maj, a, nth v 1, nth v 2, nth v 3 + t1, e, nth v 5, nth v 6]

/-- One 64-byte block. -/
def shaBlock (h : List U32) (blk : List Byte) : List U32 :=
  let first := ((List.range 16).map (fun i => w (ofBe (slice blk (4 * i) 4)))).reverse
  let sched := (shaSchedule 48 first).reverse
  let v := (shaK.zip sched).foldl shaRound h
  (h.zip v).map (fun p => p.1 + p.2)

/-- SHA-256 of bytes. -/
def sha256 (m : List Byte) : List Byte :=
  let zeros := (119 - m.length % 64) % 64
  let padded := m ++ [0x80#8] ++ List.replicate zeros 0#8 ++ beBytes (8 * m.length) 8
  let h := (List.range (padded.length / 64)).foldl (fun h i => shaBlock h (slice padded (64 * i) 64)) shaInit
  h.flatMap (fun x => beBytes x.toNat 4)

/-- HMAC-SHA-256 (keys of at most 64 bytes, as R93 and R112 use them). -/
def hmac (key m : List Byte) : List Byte :=
  let k := slice key 0 64
  let inner := sha256 (k.map (· ^^^ 0x36#8) ++ m)
  sha256 (k.map (· ^^^ 0x5c#8) ++ inner)

end Sys2Proof.Machine
end

