-- ==== Sys2Proof/Machine/Flash.lean ====
section
/-!
DEFINITION. The configuration flash byte by byte (R47, R48): the layout of Table 2-5, shutdown records (Table 2-10) and
expected records (Table 15-6).
-/

namespace Sys2Proof.Machine

/-! ## Shutdown records (R61) -/

/-- Bytes 0x00 to 0xFB of a shutdown record. -/
def recordBody (r : ShutdownRecord) : List Byte :=
  leBytes r.seq 4 ++ leBytes (r.consumed + b01 r.pass * 2 ^ 8 + b01 r.fullNext * 2 ^ 9 + b01 r.persistFailed * 2 ^ 10) 4 ++
    leBytes r.fuseId.toNat 8 ++ slice r.imageDigest 0 32 ++ slice r.signature 0 16 ++ leBytes (r.ptpSeconds % 2 ^ 48) 8 ++
    leBytes (BitVec.ofInt 16 r.tjMax).toNat 4 ++ List.replicate 176 0#8
/-- CRC of a record: CRC-32C of bytes 0x00 to 0xFB, with CONSUMED taken as 0xFF. -/
def recordCrc (b : List Byte) : Nat := crc32c (patch (slice b 0 0xFC) 4 [0xFF#8])
/-- A record with its CRC. -/
def recordBytes (r : ShutdownRecord) : List Byte := recordBody r ++ leBytes (recordCrc (recordBody r)) 4
/-- The fields of a record, and whether its CRC is correct. -/
def readRecord (b : List Byte) : ShutdownRecord :=
  { seq := le32 b 0, consumed := le32 b 4 % 256, pass := (le32 b 4).testBit 8, fullNext := (le32 b 4).testBit 9
    persistFailed := (le32 b 4).testBit 10, fuseId := BitVec.ofNat 64 (ofLe (slice b 8 8)), imageDigest := slice b 0x10 32
    signature := slice b 0x30 16, ptpSeconds := ofLe (slice b 0x40 6), tjMax := signed 16 (le16 b 0x48)
    crcGood := le32 b 0xFC = recordCrc b }
/-- Program the CONSUMED byte to 0x00 (R55). -/
def programConsumed (b : List Byte) : List Byte := patch b 4 [0#8]

/-! ## Expected records (R410) -/

/-- Bytes 0x00 to 0x3B of an expected record. -/
def expectedBody (x : ExpectedRecord) : List Byte :=
  leBytes 0x58534750 4 ++ leBytes x.seq 4 ++ leBytes x.fuseId.toNat 8 ++ slice x.expected 0 16 ++ leBytes (x.units % 65536) 4 ++
    List.replicate 24 0#8
def expectedBytes (x : ExpectedRecord) : List Byte := expectedBody x ++ leBytes (crc32c (expectedBody x)) 4
/-- The fields of an expected record; it is good when its CRC and its MAGIC are. -/
def readExpected (b : List Byte) : ExpectedRecord :=
  { seq := le32 b 4, good := le32 b 0x3C = crc32c (slice b 0 0x3C) && le32 b 0 = 0x58534750
    fuseId := BitVec.ofNat 64 (ofLe (slice b 8 8)), expected := slice b 0x10 16, units := le16 b 0x20 }

/-! ## Layout (Table 2-5) -/

/-- What lies at a flash offset. -/
inductive FlashArea where
  | bootBlock (second : Bool)
  | recordLog
  | imageSlot (b : Bool)
  | expectedRecord (second : Bool)
  | unused
deriving DecidableEq, Repr

/-- The area that holds a flash offset, and the offset within it. -/
def flashArea (off : Nat) : FlashArea × Nat :=
  if off < 0x1000 then (.bootBlock false, off)
  else if off < 0x2000 then (.bootBlock true, off - 0x1000)
  else if 0x10000 ≤ off && off < 0x20000 then (.recordLog, off - 0x10000)
  else if 0x1000000 ≤ off && off < 0x3000000 then (.imageSlot false, off - 0x1000000)
  else if 0x3000000 ≤ off && off < 0x5000000 then (.imageSlot true, off - 0x3000000)
  else if 0x5000000 ≤ off && off < 0x5000040 then (.expectedRecord false, off - 0x5000000)
  else if 0x5001000 ≤ off && off < 0x5001040 then (.expectedRecord true, off - 0x5001000)
  else (.unused, off)
/-- The byte at a flash offset; what nothing has written since its erase reads 0xFF (log 87). -/
def flashByte (f : Flash) (off : Nat) : Byte :=
  let at_ := fun (l : List Byte) (i : Nat) => l.getD i 0xFF#8
  match flashArea off with
  | (.bootBlock second, i) => Config.bootBlockByte (if second then f.bcb1 else f.bcb0) i
  | (.recordLog, i) => at_ (f.records.getD (i / 256) []) (i % 256)
  | (.imageSlot b, i) => at_ (if b then f.slotB else f.slotA).bytes i
  | (.expectedRecord second, i) => at_ (if second then f.expected1 else f.expected0) i
  | (.unused, _) => 0xFF#8

end Sys2Proof.Machine
end

