-- ==== Sys2Proof/Machine/Float.lean ====
section
/-!
DEFINITION. The arithmetic of R167: IEEE 754 binary32 with every operation rounded to nearest, ties to even, on the
32-bit patterns; `floor` saturating to s32; binary16 as R200 and R348 read and write it; the factor F[c] of R171.
-/

namespace Sys2Proof.Machine

/-- A binary32 value by its bit pattern. -/
abbrev F32 := Nat

/-- Sign bit. -/
def fSign (x : F32) : Bool := x.testBit 31
/-- Biased exponent. -/
def fExp (x : F32) : Nat := fld x 30 23
/-- Fraction. -/
def fFrac (x : F32) : Nat := fld x 22 0
def fIsNaN (x : F32) : Bool := fExp x = 255 && fFrac x ≠ 0
def fIsInf (x : F32) : Bool := fExp x = 255 && fFrac x = 0
def fNaN : F32 := 0x7FC00000
def fInf (s : Bool) : F32 := b01 s * 2 ^ 31 + 0x7F800000
def fZero (s : Bool) : F32 := b01 s * 2 ^ 31
/-- Significand and exponent of a finite value: m × 2^e. -/
def fMant (x : F32) : Nat := if fExp x = 0 then fFrac x else fFrac x + 2 ^ 23
def fPow (x : F32) : Int := if fExp x = 0 then -149 else (fExp x : Int) - 150

/-- m × 2^e rounded to nearest, ties to even. -/
def fRound (s : Bool) (m : Nat) (e : Int) : F32 :=
  if m = 0 then fZero s else
  let sh : Int := max ((m.log2 : Int) - 23) (-149 - e)
  let k := sh.toNat
  let q0 := if sh ≤ 0 then m <<< (-sh).toNat else m >>> k
  let rem := if sh ≤ 0 then 0 else m % 2 ^ k
  let half := if sh ≤ 0 then 1 else 2 ^ (k - 1)
  let q := if rem > half ∨ (rem = half ∧ q0 % 2 = 1) then q0 + 1 else q0
  let e' := e + sh
  if q < 2 ^ 23 then b01 s * 2 ^ 31 + q
  else
    let qe : Nat × Int := if q = 2 ^ 24 then (2 ^ 23, e' + 1) else (q, e')
    let biased := qe.2 + 150
    if biased ≥ 255 then fInf s
    else b01 s * 2 ^ 31 + biased.toNat * 2 ^ 23 + (qe.1 - 2 ^ 23)

/-- Change of sign. -/
def fNeg (x : F32) : F32 := x ^^^ 2 ^ 31

/-- Addition. -/
def fAdd (x y : F32) : F32 :=
  if fIsNaN x || fIsNaN y then fNaN
  else if fIsInf x then (if fIsInf y && fSign x != fSign y then fNaN else x)
  else if fIsInf y then y
  else
    let e := min (fPow x) (fPow y)
    let a : Int := (fMant x <<< (fPow x - e).toNat : Nat)
    let b : Int := (fMant y <<< (fPow y - e).toNat : Nat)
    let v := (if fSign x then -a else a) + (if fSign y then -b else b)
    if v = 0 then fZero (fSign x && fSign y) else fRound (decide (v < 0)) v.natAbs e

/-- Subtraction. -/
def fSub (x y : F32) : F32 := fAdd x (fNeg y)

/-- Multiplication. -/
def fMul (x y : F32) : F32 :=
  let s := fSign x != fSign y
  if fIsNaN x || fIsNaN y then fNaN
  else if fIsInf x || fIsInf y then (if fMant x = 0 && !fIsInf x || fMant y = 0 && !fIsInf y then fNaN else fInf s)
  else fRound s (fMant x * fMant y) (fPow x + fPow y)

/-- Division. -/
def fDiv (x y : F32) : F32 :=
  let s := fSign x != fSign y
  if fIsNaN x || fIsNaN y then fNaN
  else if fIsInf x then (if fIsInf y then fNaN else fInf s)
  else if fIsInf y then fZero s
  else if fMant y = 0 then (if fMant x = 0 then fNaN else fInf s)
  else
    let n := fMant x <<< 64
    fRound s (2 * (n / fMant y) + (if n % fMant y = 0 then 0 else 1)) (fPow x - fPow y - 65)

/-- An integer as f32. -/
def fOfInt (n : Int) : F32 := fRound (decide (n < 0)) n.natAbs 0
/-- An integer times 2^k, rounded once. -/
def fOfScaled (n : Int) (k : Int) : F32 := fRound (decide (n < 0)) n.natAbs k
/-- n / d to the nearest f32: a decimal constant of the pseudocode. -/
def fOfRat (n d : Nat) : F32 :=
  let q := n <<< 96
  fRound false (2 * (q / d) + (if q % d = 0 then 0 else 1)) (-97)

/-- x < y; false where either is NaN. -/
def fLt (x y : F32) : Bool :=
  if fIsNaN x || fIsNaN y then false
  else
    let key : F32 → Int := fun v => if fSign v then -((v % 2 ^ 31 : Nat) : Int) else (v : Int)
    decide (key x < key y)
/-- x ≥ y; false where either is NaN. -/
def fGe (x y : F32) : Bool := !fIsNaN x && !fIsNaN y && !fLt x y

/-- `clamp` of R12. -/
def fClamp (v lo hi : F32) : F32 := if fLt v lo then lo else if fLt hi v then hi else v

/-- `floor` of R167, saturating at s32. -/
def fFloor (x : F32) : Int :=
  if fIsNaN x then 0
  else if fIsInf x then (if fSign x then -(2 ^ 31) else 2 ^ 31 - 1)
  else
    let m : Int := if fSign x then -(fMant x : Int) else fMant x
    let v := if fPow x ≥ 0 then m * 2 ^ (fPow x).toNat else m / 2 ^ (-fPow x).toNat
    clampI v (-(2 ^ 31)) (2 ^ 31 - 1)

def f0 : F32 := 0
def f1 : F32 := 0x3F800000
def fHalf : F32 := 0x3F000000

/-- floor(x × k + 0.5) with k an integer (drive values, tap pixels, lanes). -/
def fScaleRound (x : F32) (k : Nat) : Int := fFloor (fAdd (fMul x (fOfInt k)) fHalf)

/-- `h` of R200: binary16 to f32, non-finite to 0.0, clamped to 0.0 to 1.0. -/
def fOfHalf (v : Nat) : F32 :=
  let e := fld v 14 10
  let f := fld v 9 0
  if e = 31 then f0
  else
    let x := if e = 0 then fRound (v.testBit 15) f (-24) else fRound (v.testBit 15) (f + 1024) ((e : Int) - 25)
    fClamp x f0 f1

/-- binary16 nearest to a finite f32 from 0.0 to 1.0, ties to even (R348). -/
def halfOf (x : F32) : Nat :=
  let m := fMant x
  if m = 0 then 0 else
  let e := fPow x
  let sh : Int := max ((m.log2 : Int) - 10) (-24 - e)
  let k := sh.toNat
  let q0 := if sh ≤ 0 then m <<< (-sh).toNat else m >>> k
  let rem := if sh ≤ 0 then 0 else m % 2 ^ k
  let half := if sh ≤ 0 then 1 else 2 ^ (k - 1)
  let q := if rem > half ∨ (rem = half ∧ q0 % 2 = 1) then q0 + 1 else q0
  if q < 1024 then q
  else
    let qe : Nat × Int := if q = 2048 then (1024, e + sh + 1) else (q, e + sh)
    (qe.2 + 25).toNat * 1024 + (qe.1 - 1024)

/-- Greatest m below hi with (2m − 1)^128 ≤ 2^t: nearest integer to 2^((t − 128) / 128). -/
def rootSearch (t : Nat) : Nat → Nat → Nat → Nat
  | 0, lo, _ => lo
  | n + 1, lo, hi =>
    let mid := (lo + hi) / 2
    if (2 * mid - 1) ^ 128 ≤ 2 ^ t then rootSearch t n mid hi else rootSearch t n lo mid

/-- F[c] of R171: the f32 nearest to 2^(−c/128). -/
def corrFactor (c : Nat) : F32 :=
  let q := c / 128
  let r := c % 128
  fRound false (rootSearch (128 * 25 - r) 25 (2 ^ 23) (2 ^ 24 + 1)) (-24 - (q : Int))

end Sys2Proof.Machine
end

