-- ==== Sys2Proof/Machine/Memory.lean ====
section
/-!
DEFINITION. GDDR7 contents as a canonical list of cells, the written-map, poison and twin-track (R311, R314, R329,
R333 to R335), and the places of region, area and linear bytes (R313, R315).
-/

namespace Sys2Proof.Machine

/-! ## Canonical cell lists: addresses strictly rising, no byte equal to 0 -/

/-- The byte at an address; a byte not listed is 0. -/
def Memory.get : List Host.Cell → Nat → Byte
  | [], _ => 0#8
  | c :: l, a => if c.1 = a then c.2 else if a < c.1 then 0#8 else Memory.get l a

/-- Write a byte, keeping the canonical form. -/
def Memory.set : List Host.Cell → Nat → Byte → List Host.Cell
  | [], a, v => if v = 0#8 then [] else [(a, v)]
  | c :: l, a, v =>
    if a < c.1 then (if v = 0#8 then c :: l else (a, v) :: c :: l)
    else if a = c.1 then (if v = 0#8 then l else (a, v) :: l)
    else c :: Memory.set l a v

/-- Write bytes from an address on. -/
def Memory.setBytes (l : List Host.Cell) (a : Nat) : List Byte → List Host.Cell
  | [] => l
  | b :: d => Memory.setBytes (Memory.set l a b) (a + 1) d

/-- Read n bytes from an address on. -/
def Memory.getBytes (l : List Host.Cell) (a n : Nat) : List Byte := (List.range n).map (fun i => Memory.get l (a + i))

/-- Drop the bytes of an address range: they read 0 again. -/
def Memory.dropRange (l : List Host.Cell) (lo hi : Nat) : List Host.Cell :=
  l.filter (fun c => c.1 < lo || hi ≤ c.1)

/-- Every listed address is above lo, they rise strictly, and no byte is 0. -/
def Memory.wfAbove : Option Nat → List Host.Cell → Bool
  | _, [] => true
  | none, c :: l => c.2 ≠ 0#8 && Memory.wfAbove (some c.1) l
  | some a, c :: l => a < c.1 && c.2 ≠ 0#8 && Memory.wfAbove (some c.1) l

/-- The canonical form. -/
def Memory.wf (l : List Host.Cell) : Bool := Memory.wfAbove none l

/-! ## Places -/

/-- Pages below 3 GiB on one controller (R334). -/
def pagesBelow : Nat := 786432
/-- Key of a page, a word, a byte of a controller. -/
def pageKey (mc page : Nat) : Nat := mc * 2 ^ 20 + page
def wordKey (mc word : Nat) : Nat := mc * 2 ^ 26 + word
def ramKey (mc loc : Nat) : Nat := mc * 2 ^ 32 + loc

/-- Controllers in service. -/
def mcOk (c : Chip) (mc : Nat) : Bool := (nth c.mcs mc).inService && !(nth c.mcs mc).isolated
def mcsInService (c : Chip) : List Nat := (List.range 16).filter (mcOk c)
/-- Complete pairs in service, by their even member (R314). -/
def pairsInService (c : Chip) : List Nat :=
  ((List.range 8).map (2 * ·)).filter (fun m => mcOk c m && mcOk c (m + 1))

/-- A place in GDDR7: controller (the even member for twin-track), local address, twin-track. -/
structure Place where
  mc : Nat := 0
  loc : Nat := 0
  twin : Bool := false
deriving DecidableEq, Repr, Inhabited

/-- R315: place of a byte of a page range on controllers `mcs` that starts at local page `base`. -/
def rangePlace (mcs : List Nat) (base : Nat) (twin : Bool) (off : Nat) : Place :=
  let q := off / 4096
  let m := mcs.length
  { mc := nth mcs (q % m), loc := (base + q / m) * 4096 + off % 4096, twin := twin }

/-- Place of an offset in a memory region. -/
def regionPlace (r : MemRegion) (off : Nat) : Place := rangePlace r.mcs r.base r.twin off
/-- Place of an offset in a reserved area: where its page was relocated (R381), or its range. -/
def areaPlace (a : Area) (off : Nat) : Place :=
  let q := off / 4096
  let m := a.mcs.length
  match a.moved.find? (fun v => v.origin = nth a.mcs (q % m)) with
  | none => rangePlace a.mcs a.base a.twin off
  | some v => rangePlace v.mcs v.base false (q / m * 4096 + off % 4096)
/-- Place of a linear address (R312, R313). -/
def linearPlace (c : Chip) (l : Nat) : Place :=
  let n := c.linearMcs.length
  let p := l / 4096
  { mc := nth c.linearMcs (p % n), loc := (p / n) * 4096 + l % 4096 }

/-! ## Reads -/

/-- What one word of one controller gives: R327, R334, R335, R337. -/
inductive WordState where
  | good | unwritten | poisoned
deriving DecidableEq, Repr, Inhabited

/-- Controllers that a range occupies, mirror members included. -/
def withMirrors (mcs : List Nat) (twin : Bool) : List Nat :=
  if twin then mcs.flatMap (fun m => [m, m + 1]) else mcs

/-- A page of a memory region that stays poisoned since its controller was isolated, until the region is defined again
(R381). -/
def lostPage (c : Chip) (mc page : Nat) : Bool :=
  c.mems.any (fun r => r.lostMcs.contains mc && r.base ≤ page && page < r.base + r.pages + r.check)

/-- R312: linear order holds at stages S7 and S7b, in RECOVERY, and while a controller is tested before re-admission. -/
def linearOrder (c : Chip) (mc : Nat) : Bool :=
  c.start.st = .memory || c.start.st = .recovery || c.faults.isolated.any (fun i => i.cls = 3 && i.unit = mc && i.testing)
/-- Fields of a word address (Table 11-3). -/
structure WordFields where
  column : Nat := 0
  channel : Nat := 0
  bank : Nat := 0
  group : Nat := 0
  row : Nat := 0
deriving DecidableEq, Repr, Inhabited
/-- Parity of the low 26 bits of a value. -/
def parity26 (v : Nat) : Nat := (List.range 26).foldl (fun p i => (p + b01 (v.testBit i)) % 2) 0
/-- R311: hash bit h_k of a row. -/
def hashBit (masks : List Nat) (k row : Nat) : Nat := parity26 (row &&& nth masks k)
/-- R311, Table 11-3: the fields of word address W, in linear or in service order. -/
def wordFields (col : Nat) (masks : List Nat) (linear : Bool) (wd : Nat) : WordFields :=
  let row := wd / 2 ^ (col + 6) % 2 ^ (20 - col)
  let bank := wd / 2 ^ (col + 2) % 4
  let group := wd / 2 ^ (col + 4) % 4
  if linear then { column := wd % 2 ^ col, channel := wd / 2 ^ col % 4, bank := bank, group := group, row := row }
  else
    let h := fun k => hashBit masks k row
    { column := wd / 4 % 2 ^ col, channel := wd % 4, bank := bank ^^^ (h 0 + 2 * h 1), group := group ^^^ (h 2 + 2 * h 3), row := row }
/-- The fields of a word of a controller in the order that holds. -/
def fieldsOf (c : Chip) (mc wd : Nat) : WordFields := wordFields c.cfg.colBits c.cfg.hmask (linearOrder c mc) wd

/-- State of the word at a local address of one controller. -/
def wordOn (c : Chip) (mc loc : Nat) : WordState :=
  if !mcOk c mc || lostPage c mc (loc / 4096) then .poisoned
  else if c.poison.contains (wordKey mc (loc / 64)) || c.crcBad.contains (wordKey mc (loc / 64)) then .poisoned
  else if loc / 4096 < pagesBelow && !c.written.contains (pageKey mc (loc / 4096)) then .unwritten
  else .good

/-- R389: a page of a re-admitted controller that the bulk copy from the other member has still to pass. -/
def uncopied (c : Chip) (mc page : Nat) : Bool := (nth c.mcs mc).copying && !(nth c.mcs mc).copied.contains page
/-- R333, R389: the controller that serves a twin-track read. -/
def servingMc (c : Chip) (p : Place) : Nat :=
  let page := p.loc / 4096
  let other := p.mc + 1
  let paused := (nth c.mcs p.mc).paused = some (fieldsOf c p.mc (p.loc / 64)).channel
  if p.twin && (wordOn c p.mc p.loc = .poisoned || uncopied c p.mc page ||
      (paused && wordOn c other p.loc ≠ .poisoned && !uncopied c other page))
  then other else p.mc

/-- State of the word that a read of a place meets; a mirror page not copied yet holds nothing to serve. -/
def wordAt (c : Chip) (p : Place) : WordState :=
  let m := servingMc c p
  if p.twin && m ≠ p.mc && uncopied c m (p.loc / 4096) then .poisoned else wordOn c m p.loc
/-- R386: a request toward a place is answered by a controller, and not with WITHDRAWN. -/
def reachable (c : Chip) (p : Place) : Bool := mcOk c p.mc || (p.twin && mcOk c (p.mc + 1))

/-- A byte as a reader takes it: zero where unwritten or poisoned (R329, R335). -/
def byteAt (c : Chip) (p : Place) : Byte :=
  match wordAt c p with
  | .good => Memory.get c.ram (ramKey (servingMc c p) p.loc)
  | _ => 0#8

/-- Offsets of the words that a range touches, each by its first byte in the range. -/
def wordStarts (off n : Nat) : List Nat :=
  if n = 0 then [] else
  (List.range ((off + n - 1) / 64 - off / 64 + 1)).map (fun i => if i = 0 then off else (off / 64 + i) * 64)

/-! ## Writes -/

/-- Write one byte on one controller and mark its page written; the first write to a page writes zeros to the rest of it (R335). -/
def writeByteOn (c : Chip) (mc loc : Nat) (b : Byte) : Chip :=
  if !mcOk c mc then c else
  let page := loc / 4096
  let key := pageKey mc page
  if page < pagesBelow && !c.written.contains key then
    { c with ram := Memory.set (Memory.dropRange c.ram (ramKey mc (page * 4096)) (ramKey mc (page * 4096 + 4096))) (ramKey mc loc) b
             written := key :: c.written }
  else { c with ram := Memory.set c.ram (ramKey mc loc) b }

/-- Write one byte to every track (R333). -/
def writeByte (c : Chip) (p : Place) (b : Byte) : Chip :=
  let c := writeByteOn c p.mc p.loc b
  if p.twin then writeByteOn c (p.mc + 1) p.loc b else c

/-- A write that covers a whole word clears its poison (R337). -/
def clearPoison (c : Chip) (p : Place) : Chip :=
  { c with poison := c.poison.filter (fun k =>
      k ≠ wordKey p.mc (p.loc / 64) && (!p.twin || k ≠ wordKey (p.mc + 1) (p.loc / 64))) }

/-- Write bytes at an offset through a place function. -/
def writeThrough (c : Chip) (place : Nat → Place) (off : Nat) (d : List Byte) : Chip :=
  let c := (List.range d.length).foldl (fun c i => writeByte c (place (off + i)) (nth d i)) c
  (wordStarts off d.length).foldl
    (fun c o => if o % 64 = 0 && o + 64 ≤ off + d.length then clearPoison c (place o) else c) c

/-- Pages of a range become unwritten and free: R331, R334. -/
def dropPages (c : Chip) (mcs : List Nat) (base pages : Nat) : Chip :=
  mcs.foldl (fun c mc =>
    { c with written := c.written.filter (fun k => k < pageKey mc base || pageKey mc (base + pages) ≤ k)
             poison := c.poison.filter (fun k => k < wordKey mc (base * 64) || wordKey mc ((base + pages) * 64) ≤ k)
             ram := Memory.dropRange c.ram (ramKey mc (base * 4096)) (ramKey mc ((base + pages) * 4096)) }) c

/-! ## Allocation (R315, R316) -/

/-- Page ranges taken on a controller. -/
def takenOn (c : Chip) (mc : Nat) : List (Nat × Nat) :=
  (c.mems.filter (fun r => r.mcs.contains mc || (r.twin && r.mcs.contains (mc - 1) && mc % 2 = 1))).map
    (fun r => (r.base, r.pages + r.check)) ++
  (c.areas.filter (fun a => a.mcs.contains mc || (a.twin && a.mcs.contains (mc - 1) && mc % 2 = 1))).map
    (fun a => (a.base, a.pages + a.check)) ++
  ((c.areas.flatMap (·.moved)).filter (fun v => v.mcs.contains mc)).map (fun v => (v.base, v.pages + v.check))

/-- The range from base of n pages is free on a controller. -/
def freeOn (c : Chip) (mc base n : Nat) : Bool :=
  (takenOn c mc).all (fun r => base + n ≤ r.1 || r.1 + r.2 ≤ base)

/-- The lowest page from lo, below hi, at which n pages are free on every controller. -/
def lowestFit (c : Chip) (mcs : List Nat) (twin : Bool) (n lo hi : Nat) : Option Nat :=
  let all := withMirrors mcs twin
  let starts := insertSorted lo (all.flatMap (fun m => (takenOn c m).map (fun r => r.1 + r.2)) |>.foldr insertSorted [])
  (starts.filter (fun b => lo ≤ b && b + n ≤ hi && all.all (fun m => freeOn c m b n))).head?

/-- Local pages of a controller's device. -/
def devicePages (c : Chip) : Nat := if c.cfg.density = 32 then 1048576 else pagesBelow

/-- R316: reserve an area of `size` bytes spread over controllers; `high` places it at or above 3 GiB first. -/
def reserveArea (c : Chip) (code unit size : Nat) (twin strong high : Bool) : Option Chip :=
  let mcs := if twin then pairsInService c else mcsInService c
  if mcs = [] then none else
  let pages := cdiv size (4096 * mcs.length)
  let check := if strong then cdiv pages 8 else 0
  let fit := (if high then lowestFit c mcs twin (pages + check) pagesBelow (devicePages c) else none)
    |>.or (lowestFit c mcs twin (pages + check) 0 pagesBelow)
  fit.map (fun b => { c with areas := { code := code, unit := unit, twin := twin, mcs := mcs, base := b,
                                        pages := pages, check := check } :: c.areas })

/-- The area of a code and unit. -/
def findArea (c : Chip) (code unit : Nat) : Option Area := c.areas.find? (fun a => a.code = code && a.unit = unit)

/-- Release an area: its pages are free. They keep what they hold and their written bits, since no case of R334 clears them. -/
def releaseArea (c : Chip) (code unit : Nat) : Chip :=
  { c with areas := c.areas.filter (fun x => !(x.code = code && x.unit = unit)) }

/-- The area that holds a local page of a controller, if any. -/
def areaOfPage (c : Chip) (mc page : Nat) : Option Area :=
  c.areas.find? (fun a =>
    ((withMirrors a.mcs a.twin).contains mc && a.base ≤ page && page < a.base + a.pages + a.check) ||
    a.moved.any (fun v => v.mcs.contains mc && v.base ≤ page && page < v.base + v.pages + v.check))

/-- The memory region that holds a local page of a controller, if any. -/
def regionOfPage (c : Chip) (mc page : Nat) : Option MemRegion :=
  c.mems.find? (fun r => (withMirrors r.mcs r.twin).contains mc && r.base ≤ page && page < r.base + r.pages + r.check)

/-! ## The strong code of R328: RS(72,64) over GF(2⁸) -/

/-- Multiplication in GF(2⁸) with x⁸ + x⁴ + x³ + x² + 1. -/
def gf8Mul (a b : Nat) : Nat :=
  ((List.range 8).foldl (fun (st : Nat × Nat) i =>
    (if b.testBit i then st.1 ^^^ st.2 else st.1,
     if st.2.testBit 7 then ((st.2 <<< 1) ^^^ 0x11D) % 256 else st.2 <<< 1)) (0, a)).1

/-- The generator, coefficients from x⁷ down (x⁸ has coefficient 1). -/
def rs72Gen : List Nat :=
  ((List.range 8).foldl (fun (st : List Nat × Nat) _ =>
    ((List.range (st.1.length + 1)).map (fun i =>
      (st.1.getD i 0) ^^^ (if i = 0 then 0 else gf8Mul st.2 (st.1.getD (i - 1) 0))), gf8Mul st.2 2))
    ([1], 1)).1.drop 1

/-- The 8 check bytes of a 64-byte word: m(x)·x⁸ mod g(x). -/
def rs72Check (d : List Byte) : List Byte :=
  (d.foldl (fun (r : List Nat) b =>
    let f := b.toNat ^^^ r.headD 0
    ((List.range 8).map (fun i => (r.getD (i + 1) 0) ^^^ gf8Mul f (rs72Gen.getD i 0)))) (List.replicate 8 0)).map
    (BitVec.ofNat 8)

/-- The local address of the check bytes of the word at a local address, for a strong range of `pages` data pages
that starts at a base. -/
def checkAt (base pages loc : Nat) : Nat := (base + pages) * 4096 + 8 * (loc / 64 - base * 64)
/-- Write through with the check bytes of strong words kept (R328), on every track. -/
def writeStrong (c : Chip) (place : Nat → Place) (check : Place → Nat) (off : Nat) (d : List Byte) : Chip :=
  let c := writeThrough c place off d
  (wordStarts off d.length).foldl (fun c o =>
    let p := place o
    (withMirrors [p.mc] p.twin).foldl (fun c m =>
      if !mcOk c m then c
      else
        let wd := Memory.getBytes c.ram (ramKey m (p.loc / 64 * 64)) 64
        { c with ram := Memory.setBytes c.ram (ramKey m (check p)) (rs72Check wd) }) c) c

/-- Write into a memory region. -/
def writeRegion (c : Chip) (r : MemRegion) (off : Nat) (d : List Byte) : Chip :=
  if r.ecc = 2 then writeStrong c (regionPlace r) (fun p => checkAt r.base r.pages p.loc) off d
  else writeThrough c (regionPlace r) off d

/-- Check bytes of a word of an area. -/
def areaCheck (a : Area) (p : Place) : Nat :=
  match a.moved.find? (fun v => v.mcs.contains p.mc && v.base * 4096 ≤ p.loc && p.loc < (v.base + v.pages) * 4096) with
  | some v => checkAt v.base v.pages p.loc
  | none => checkAt a.base a.pages p.loc
/-- Write into a reserved area. -/
def writeArea (c : Chip) (a : Area) (off : Nat) (d : List Byte) : Chip :=
  if a.check ≠ 0 then writeStrong c (areaPlace a) (areaCheck a) off d else writeThrough c (areaPlace a) off d

end Sys2Proof.Machine
end

