-- ==== Sys2Proof/Machine/Ops.lean ====
section
/-!
DEFINITION. The operations that the meanings share: part sizes, time, events and their limits, jobs, ownership, the
lists of units.
-/

namespace Sys2Proof.Machine

/-! ## Part sizes (R3, Table 0-1) -/

/-- The fused part is the ECT9648-A2-FB (R2, R457). -/
def fullPart (c : Chip) : Bool := c.shadow.orderingCode = 0x1#4
def laneCount (c : Chip) : Nat := if fullPart c then 48 else 24
def quadCount (c : Chip) : Nat := if fullPart c then 12 else 6
def mcCount (c : Chip) : Nat := if fullPart c then 16 else 8
def maxColumns (c : Chip) : Nat := if fullPart c then 4096 else 2048
def maxRows : Nat := 2304

/-! ## Units -/

def port (c : Chip) (p : Nat) : Port := nth c.ports p
def updPort (c : Chip) (p : Nat) (f : Port → Port) : Chip := { c with ports := upd c.ports p f }
def stream (c : Chip) (i : Nat) : Stream := nth c.streams i
def updStream (c : Chip) (i : Nat) (f : Stream → Stream) : Chip := { c with streams := upd c.streams i f }
def lane (c : Chip) (i : Nat) : Lane := nth c.lanes i
def updLane (c : Chip) (i : Nat) (f : Lane → Lane) : Chip := { c with lanes := upd c.lanes i f }
def quad (c : Chip) (i : Nat) : Quad := nth c.quads i
def updQuad (c : Chip) (i : Nat) (f : Quad → Quad) : Chip := { c with quads := upd c.quads i f }
def mc (c : Chip) (i : Nat) : Mc := nth c.mcs i
def updMc (c : Chip) (i : Nat) (f : Mc → Mc) : Chip := { c with mcs := upd c.mcs i f }
def layer (c : Chip) (i : Nat) : Layer := nth c.layers i
def updLayer (c : Chip) (i : Nat) (f : Layer → Layer) : Chip := { c with layers := upd c.layers i f }
def region (c : Chip) (i : Nat) : Region := nth c.regions i
def updRegion (c : Chip) (i : Nat) (f : Region → Region) : Chip := { c with regions := upd c.regions i f }
def surface? (c : Chip) (id : Nat) : Option Surface := c.surfs.find? (fun x => x.id = id)
def updSurface (c : Chip) (id : Nat) (f : Surface → Surface) : Chip :=
  { c with surfs := c.surfs.map (fun x => if x.id = id then f x else x) }
def memRegion? (c : Chip) (id : Nat) : Option MemRegion := c.mems.find? (fun r => r.id = id)
def updEth (c : Chip) (i : Nat) (f : Eth → Eth) : Chip := { c with eth := upd c.eth i f }
def eth (c : Chip) (i : Nat) : Eth := nth c.eth i
def updDec (c : Chip) (i : Nat) (f : Decoder → Decoder) : Chip := { c with decs := upd c.decs i f }
def calDomain (c : Chip) (d : Nat) : CalDomain := nth c.cal.domains d
def updCal (c : Chip) (d : Nat) (f : CalDomain → CalDomain) : Chip :=
  { c with cal := { c.cal with domains := upd c.cal.domains d f } }

/-- The released part of the start: the data plane runs (R58, R60). -/
def running (c : Chip) : Bool := c.start.st = .released || c.start.st = .shuttingDown
/-- A Stationmaster pair is in service (R17); the time unit runs without one (R359). -/
def smServes (c : Chip) : Bool := c.sm.active.isSome

/-! ## Time (R357, R372) -/

/-- T in nanoseconds. -/
def nowNs (c : Chip) : Nat := c.time.sec.toNat * 1000000000 + c.time.ns.toNat
/-- Set T to an instant, fraction 0. -/
def setNs (c : Chip) (t : Nat) : Chip :=
  { c with time := { c.time with sec := BitVec.ofNat 48 (t / 1000000000), ns := BitVec.ofNat 30 (t % 1000000000),
                                 frac := 0 } }
/-- Eighths of a UI in a superframe (R251): 282,880 UI. -/
def superframeUi : Nat := 2263040
/-- The lanes' count moves on by some eighths of a UI; SF_COUNT wraps after 65,535 (R251, log 84). -/
def countUi (c : Chip) (n : Nat) : Chip := { c with laneUi := (c.laneUi + n) % (65536 * superframeUi) }
/-- SF_COUNT. -/
def sfCount (c : Chip) : Nat := c.laneUi / superframeUi
/-- Bring T forward to a fixed instant of a timetable, if it lies ahead (log 3); 28.125 GBd is 225 eighths of a UI in a ns. -/
def advanceTo (c : Chip) (t : Nat) : Chip := if nowNs c < t then setNs (countUi c (225 * (t - nowNs c))) t else c
/-- R372: the full seconds count that a 32-bit seconds field names. -/
def fullSeconds (c : Chip) (s : Nat) : Int := (c.time.sec.toNat : Int) + seqDiff s c.time.sec.toNat

/-! ## Events (R70, R74) -/

/-- The keep events that R70 and the chapters' event tables name (R124, R159, R193, R218, R244, R275, R307, R341, R356, R456). -/
def isKeep (code : Nat) : Bool :=
  code / 0x1000 = 0xC ||
  [0x0001, 0x0002, 0x0010, 0x0011, 0x0012, 0x0013, 0x0020, 0x0021, 0x0022, 0x1010, 0x1014, 0xD021, 0x2007, 0x3003,
   0x4004, 0x5003, 0x5006, 0x5007, 0x5009, 0x6001, 0x6006, 0x6008, 0x7002, 0x7008, 0x8001, 0x8002, 0x9002, 0xB002,
   0xB004, 0xB011, 0xB021].contains code

/-- An event at the present time, without its number. -/
def mkEvent (c : Chip) (code : Nat) (tag : U32) (session : Nat) (data : List U32) : Event :=
  { code := code, tag := tag, session := session, keep := isKeep code, timeNs := c.time.ns.toNat,
    timeS := w32 c.time.sec.toNat, data := data }

/-- Hand an event of a session or job to the event writer. -/
def raiseFor (c : Chip) (code : Nat) (tag : U32) (session : Nat) (data : List U32) : Chip :=
  { c with signals := c.signals ++ [.event (mkEvent c code tag session data)] }

/-- Hand an event of the whole section to the event writer. -/
def raise (c : Chip) (code : Nat) (data : List U32) : Chip := raiseFor c code 0 0xFFFF data

/-- Hand an event of a resource to the event writer: the session concerned is its owner (R74, log 19). -/
def raiseOwn (c : Chip) (owner code : Nat) (data : List U32) : Chip :=
  raiseFor c code 0 (if owner = 0 then 0xFFFF else owner) data

/-- Set an interrupt cause (Table 17-8). -/
def signal (c : Chip) (vector : Nat) : Chip := { c with signals := c.signals ++ [.cause vector] }

/-- The limit record of an event and unit. -/
def limitOf (c : Chip) (code unit : Nat) : Limit :=
  (c.limits.find? (fun l => l.code = code && l.unit = unit)).getD { code := code, unit := unit }

/-- Replace a limit record. -/
def setLimit (c : Chip) (l : Limit) : Chip :=
  { c with limits := l :: c.limits.filter (fun x => !(x.code = l.code && x.unit = l.unit)) }

/-- Raise an event at most once every `window` ns for a unit: it carries the first occurrence since the last one, with
the count in word `at_`. Occurrences within the interval are held (log 15). -/
def raiseLimitedOwn (c : Chip) (owner code unit window k at_ : Nat) (data : List U32) : Chip :=
  let l := limitOf c code unit
  let first := if l.count = 0 then data else l.first
  let n := l.count + k
  let now := nowNs c
  let due := match l.lastNs with
    | none => true
    | some t => t + window ≤ now
  if due then
    raiseOwn (setLimit c { code := code, unit := unit, lastNs := some now }) owner code (upd first at_ (fun _ => w n))
  else setLimit c { l with count := n, first := upd first at_ (fun _ => w n), owner := owner, window := window }

/-- Occurrences of an event are held, and the interval since the last one is over. -/
def heldDue (now : Nat) (l : Limit) : Bool := l.count ≠ 0 && match l.lastNs with
  | some t => t + l.window ≤ now
  | none => true
/-- Raise what the limits held back, once its interval is over (log 15). -/
def raiseHeld (c : Chip) : Chip :=
  (c.limits.filter (heldDue (nowNs c))).foldl (fun c l =>
    raiseOwn (setLimit c { code := l.code, unit := l.unit, lastNs := some (nowNs c) }) l.owner l.code l.first) c

/-- The same for an event of the whole section. -/
def raiseLimited (c : Chip) (code unit window k at_ : Nat) (data : List U32) : Chip :=
  raiseLimitedOwn c 0 code unit window k at_ data

/-- Raise an event with its present data at most once every `window` ns for a unit (log 15). -/
def raiseEvery (c : Chip) (owner code unit window : Nat) (data : List U32) : Chip :=
  let now := nowNs c
  let due := match (limitOf c code unit).lastNs with
    | none => true
    | some t => t + window ≤ now
  if due then raiseOwn (setLimit c { code := code, unit := unit, lastNs := some now }) owner code data else c

def ms10 : Nat := 10000000
def sec1 : Nat := 1000000000
def sec10 : Nat := 10000000000

/-! ## Free values (log 7) -/

/-- Draw a value that the spec leaves open. -/
def drawFree (c : Chip) : Nat × Chip := (Config.freeValue c.free, { c with free := c.free + 1 })
/-- Draw a choice that the spec leaves to chance. -/
def drawBit (c : Chip) : Bool × Chip := (Config.freeBit c.free, { c with free := c.free + 1 })

/-! ## Hardware time-stamps (R363) -/

/-- T in units of its fraction, 2⁻⁴⁴ ns. -/
def fineTime (c : Chip) : Nat := nowNs c * 2 ^ 44 + c.time.frac.toNat
def setFine (c : Chip) (v : Nat) : Chip :=
  let c := setNs c (v / 2 ^ 44)
  { c with time := { c.time with frac := BitVec.ofNat 44 v } }
/-- A value of the s64 type (R12). -/
def s64 (x : Int) : Int := (BitVec.ofInt 64 x).toInt
/-- T is brought forward to an instant in 1/16 ns, if it lies ahead (log 3). -/
def advanceFine (c : Chip) (x : Nat) : Chip :=
  if fineTime c < x * 2 ^ 40 then setFine (advanceTo c (x / 16)) (x * 2 ^ 40) else c
/-- R363: the time-stamp lies within 4 ns of the crossing at 200 Gb/s and within 6 ns at 100 Gb/s; in 1/16 ns. -/
def stampBound (c : Chip) (ep : Nat) : Nat := if (eth c ep).rateGbs = 200 then 64 else 96
/-- A hardware time-stamp of the present instant, in 1/16 ns as an s64; where it lies within its bound is open (log 7). -/
def stampNow (c : Chip) (ep : Nat) : Int × Chip :=
  let b := stampBound c ep
  let d := drawFree c
  (s64 ((fineTime c / 2 ^ 40 : Nat) + (d.1 % (2 * b + 1) : Nat) - b), d.2)

/-! ## Start state (R428, Table 17-8 vector 22) -/

/-- Change START_STATE and set its cause. -/
def setStart (c : Chip) (st : StartState) : Chip :=
  if c.start.st = st then c else signal { c with start := { c.start with st := st } } 22

/-! ## Sessions and ownership (R80) -/

def session? (c : Chip) (id : Nat) : Option Session := c.cci.sessions.find? (fun x => x.id = id)
/-- The resource is free of another open session. -/
def mayAct (c : Chip) (sess owner : Nat) : Bool := owner = 0 || owner = sess || (session? c owner).isNone

/-! ## Jobs (R88, R89) -/

def job? (c : Chip) (id : Nat) : Option Job := c.cci.jobs.find? (fun j => j.id = id)
/-- R88: 192 jobs are unfinished. -/
def jobsFull (c : Chip) : Bool := c.cci.jobs.length ≥ 192
/-- The JOB_ID after another: the count skips 0. -/
def jobAfter (n : Nat) : Nat := if w32 (n + 1) = 0 then 1 else w32 (n + 1)

/-- Enter a job: its JOB_ID and the chip with it. -/
def newJob (c : Chip) (opcode : Nat) (tag : U32) (owner : Nat) (regions : List Nat) : Nat × Chip :=
  let id := c.cci.nextJob
  (id, { c with cci := { c.cci with
    nextJob := jobAfter id
    jobs := c.cci.jobs ++ [{ id := id, opcode := opcode, tag := tag, owner := owner, regions := regions }] } })

def terminalCode : Terminal → Nat
  | .completed => 0x0010
  | .failed => 0x0011
  | .aborted => 0x0012
  | .completedBeforeAbort => 0x0013

/-- Write the one terminal event of a job and remember the job (R88, R89, Table 3-11). -/
def endJob (c : Chip) (id : Nat) (t : Terminal) (status lastLine : Nat) (result : List U32) : Chip :=
  match job? c id with
  | none => c
  | some j =>
    let c := { c with cci := { c.cci with
      jobs := c.cci.jobs.filter (fun x => x.id ≠ id)
      finished := ({ id := id, opcode := j.opcode, tag := j.tag, terminal := t, lastLine := lastLine }
        :: c.cci.finished).take 256 } }
    raiseFor c (terminalCode t) j.tag j.owner ([w id, w (j.opcode + status * 65536), w lastLine] ++ result)

/-- Hand an event of a job to the event writer: it carries the job's TAG and its owner (R72, R74). Where the job stands no
longer, the session concerned is the owner named. -/
def raiseJob (c : Chip) (id owner code : Nat) (data : List U32) : Chip :=
  match job? c id with
  | some j => raiseFor c code j.tag j.owner data
  | none => raiseOwn c owner code data

def setProgress (c : Chip) (id n : Nat) : Chip :=
  { c with cci := { c.cci with jobs := c.cci.jobs.map (fun j => if j.id = id then { j with progress := n } else j) } }

/-! ## Calibration counts (R400, R403, R404) -/

/-- A lane group is in training: a run of LANE_EQ. -/
def groupTraining (c : Chip) : Bool :=
  c.ports.any (fun p => match p.tt with
    | none => false
    | some t => !p.trained && (bitsOf t.laneMask 48).any (fun l =>
        let st := (lane c l).st
        st = .wake || st = .align || st = .eq || st = .check))
/-- A run of the domain is in progress, automatic or commanded. -/
def calBusy (c : Chip) (d : Nat) : Bool :=
  (calDomain c d).running || (d = 3 && groupTraining c) || (d = 4 && c.mcs.any (fun m => m.paused.isSome))
/-- A run counts, and the time is kept. -/
def countRun (c : Chip) (d : Nat) : Chip :=
  updCal c d (fun x => { x with count := w32 (x.count + 1), lastS := c.time.sec.toNat, lastNs := c.time.ns.toNat })
/-- CAL_RECORD. -/
def calRecord (c : Chip) (d : Nat) : Chip :=
  let x := calDomain c d
  raise c 0x9003 [w (d + b01 x.stale * 256 + b01 (calBusy c d) * 512 + b01 x.lastFailed * 1024), w x.count, w x.lastNs, w (w32 x.lastS)]
/-- CAL_COMPLETE, or CAL_FAILED where a unit failed, and the record of the run (R402, R404); `job` is 0 for an automatic
run. -/
def calReport (c : Chip) (d job done : Nat) (failed : List Nat) : Chip :=
  let word := w (d + b01 (job ≠ 0) * 256)
  let c := if failed = [] then raiseJob c job 0 0x9001 [word, w (calDomain c d).count, w done]
    else raiseJob c job 0 0x9002 [word, w failed.length, w (failed.headD 0)]
  calRecord c d
/-- Job result of a `calib_run` (Table 15-3). -/
def calResult (c : Chip) (d done failed : Nat) : List U32 :=
  let x := calDomain c d
  [w (d + b01 x.stale * 256), w x.count, w x.lastNs, w (w32 x.lastS), w (done + failed * 65536)]
/-- The domain that a `calib_run` job runs. -/
def domainOfJob (c : Chip) (job : Nat) : Nat := ((List.range 6).find? (fun d => (calDomain c d).job = job)).getD 0

/-! ## Status codes (Table 3-7) -/

def stOK : Nat := 0x0000
def stACCEPTED : Nat := 0x0001
def stFREE_DEFERRED : Nat := 0x0002
def stUNKNOWN_COMMAND : Nat := 0x0100
def stINVALID_FIELD : Nat := 0x0101
def stUNKNOWN_RESOURCE : Nat := 0x0102
def stUNAVAILABLE : Nat := 0x0103
def stBUSY : Nat := 0x0104
def stBAD_CHECK : Nat := 0x0105
def stSEQUENCE_GAP : Nat := 0x0106
def stSTALE_SEQUENCE : Nat := 0x0107
def stNO_SESSION : Nat := 0x0108
def stNOT_OWNER : Nat := 0x0109
def stDENIED : Nat := 0x010A
def stNO_SPACE : Nat := 0x010B
def stBUFFER_SHORT : Nat := 0x010C
def stJOB_DONE : Nat := 0x010D
def stINFEASIBLE : Nat := 0x010E
def stIN_USE : Nat := 0x010F
def stINVALID_IMAGE : Nat := 0x0110
def stTRANSFER_FAULT : Nat := 0x0111
def stINTERRUPTED : Nat := 0x0112

/-! ## Timetables and frames (R223, R224, R234) -/

/-- The port that layer commits count by: the lowest with a timetable (R208). -/
def referencePort (c : Chip) : Option Nat := (List.range 4).find? (fun p => (port c p).tt.isSome)
/-- Boundary k of R223 has the count 2³² + k, so that the boundaries before the epoch have counts too. -/
def firstCount : Nat := 2 ^ 32
/-- Instant in ns of line i, of a line time in ps, after the boundary of a count. -/
def atLine (t : Timetable) (k lt i : Nat) : Nat := t.phase + k * t.period + i * lt / 1000 - firstCount * t.period
/-- Instant of the boundary of a count. -/
def boundaryNs (t : Timetable) (k : Nat) : Nat := atLine t k 0 0
/-- R268: how many boundaries one frame of the port takes. -/
def frameStep (p : Port) : Nat := if p.half then 2 else 1
/-- R224, R268: line time in force in ps. -/
def lineTime (p : Port) (t : Timetable) : Nat := t.lineTime * frameStep p
/-- R224: instant of line i of the frame that is front, in ns. -/
def lineNs (p : Port) (t : Timetable) (i : Nat) : Nat := atLine t p.cur (lineTime p t) i
/-- R234: W of the next frame. -/
def windowNs (p : Port) (t : Timetable) : Nat := lineNs p t (t.active - 2)
/-- The count of the first boundary of a timetable at or after an instant. -/
def boundaryAt (t : Timetable) (ns : Nat) : Nat := firstCount + cdiv (ns - t.phase) t.period
/-- Boundary count of the j-th frame after the front frame: from the end of a timetable that another follows, frames are
numbered by the one that follows (R238); from its first even boundary on, half rate passes over every odd one (R268). -/
def upcoming (p : Port) (j : Nat) : Nat :=
  match p.tt, p.pendingTt with
  | some t, some (some n, e, _) =>
    let last := if boundaryNs t (p.cur + frameStep p) < e then 2 else 1
    if j < last then p.cur + frameStep p * j else boundaryAt n e + (j - last)
  | _, _ =>
    if p.mode = .halfRate && !p.half then
      let even := p.cur + 1 + (p.cur + 1) % 2
      if p.cur + j ≤ even then p.cur + j else even + 2 * (p.cur + j - even)
    else p.cur + frameStep p * j
/-- Boundary count and number of the frame that the port is making (R223, R239). -/
def dueCount (p : Port) : Nat := upcoming p 1
def dueFrame (p : Port) : Nat := w32 (dueCount p)
/-- R175: D_f of the frame in synthesis. -/
def deadlineNs (p : Port) (t : Timetable) : Nat := boundaryNs t (p.cur + frameStep p) - 100000
/-- The next frame whose departure window is open, as a boundary count. -/
def nextOpen (p : Port) : Nat := upcoming p (if p.windowOpen then 1 else 2)

/-- R223: frame numbers are compared by signed 32-bit difference: the frame of one count is that of another, or after it. -/
def reached (k target : Nat) : Bool := 0 ≤ seqDiff k target
/-- The count, not below another, of the frame that a count numbers. -/
def countNear (base n : Nat) : Nat := base + (seqDiff n base).toNat

/-- R208, R235, R268: the frame that a TARGET_FRAME enters, as a boundary count, and whether it was asked too late. -/
def enterFrame (p : Port) (target : Nat) : Nat × Bool :=
  if target = 0 then (nextOpen p, !p.windowOpen)
  else
    let d := seqDiff target (nextOpen p)
    if d < 0 then (nextOpen p, true)
    else
      let k := nextOpen p + d.toNat
      (if p.mode = .halfRate && p.pendingTt.isNone && k % 2 = 1 && k ≠ p.cur + 1 then k + 1 else k, false)

/-! ## Isolation records (R385) -/

def isolation? (c : Chip) (cls unit : Nat) : Option Isolation :=
  c.faults.isolated.find? (fun i => i.cls = cls && i.unit = unit)
def setIsolation (c : Chip) (i : Isolation) : Chip :=
  let others := c.faults.isolated.filter (fun x => !(x.cls = i.cls && x.unit = i.unit))
  { c with faults := { c.faults with isolated := i :: others } }
def dropIsolation (c : Chip) (cls unit : Nat) : Chip :=
  let others := c.faults.isolated.filter (fun x => !(x.cls = cls && x.unit = unit))
  { c with faults := { c.faults with isolated := others } }

/-- The action for an injected fault of a unit is complete (R394): another may be injected, and where the unit is not
isolated the injection is over. -/
def actionDone (c : Chip) (cls unit : Nat) : Chip :=
  if !c.faults.injected.any (fun x => x.1 = cls && x.2.1 = unit) then c
  else
    let cleared := !(c.faults.isolated.any (fun i => i.cls = cls && (i.unit = unit || (cls = 2 && i.unit * 256 = unit))))
    { c with faults := { c.faults with
        injecting := false
        injected := if cleared then c.faults.injected.filter (fun x => !(x.1 = cls && x.2.1 = unit)) else c.faults.injected } }

/-- A fault event (R397, Table 14-7). The onset is known of an injected fault; the detection is the instant at which the
isolation began, and the action lasts from it to the event, or `action` µs where nothing is isolated. -/
def raiseFault (c : Chip) (code cls cause unit action : Nat) (extra : List U32) : Chip :=
  let injected := c.faults.injected.find? (fun x => x.1 = cls && x.2.1 = unit)
  let isolated := c.faults.isolated.find? (fun i => i.cls = cls && (i.unit = unit || (cls = 2 && i.unit * 256 = unit)))
  let found := (isolated.map (·.sinceNs)).getD (nowNs c)
  let acted := match isolated with
    | some i => if code / 16 = 0xC02 || code = 0xC030 then action else (nowNs c - i.sinceNs) / 1000
    | none => action
  let detected := (injected.map (fun x => (found - x.2.2.2) / 1000)).getD 0
  let c := if code = 0xC030 then c else actionDone c cls unit
  raise c code ([w (cls + cause * 256 + b01 injected.isSome * 65536), w unit, w detected, w acted] ++ extra)

/-- The start has ended in release, whatever came after it. -/
def afterRelease (c : Chip) : Bool := running c || c.start.st = .halted
/-- R449: FAULT_N as a level: true is high. Before release a start fault of Table 2-7 drives it low (R42), and a fault outside
the guarantee until POR_N falls (R377, log 90). -/
def faultN (c : Chip) : Bool :=
  !(c.start.st = .fuseFault || c.start.st = .smFault || c.start.st = .recovery ||
    c.faults.outside || (afterRelease c && c.power.tripped) || (running c && c.sm.active.isNone))

/-! ## Writes to isolated controllers (R386) -/

/-- A write to a word of an isolated controller is lost, and counted with MEM_UNCORRECTABLE and repair 3 (Table 14-4); on a
twin-track word it counts as done on the isolated track. -/
def lostWrite (c : Chip) (p : Place) : Chip :=
  if p.twin || mcOk c p.mc then c
  else
    let wd := p.loc / 64
    let page := p.loc / 4096
    raise c 0x7002 [w (p.mc + (fieldsOf c p.mc wd).channel * 16 + ((areaOfPage c p.mc page).map (·.code)).getD 0 * 256), w wd,
      w (((regionOfPage c p.mc page).map (·.id)).getD 0x3F), 3]
/-- The words of a range of n bytes that a write loses. -/
def lostWrites (c : Chip) (place : Nat → Place) (off n : Nat) : Chip := (wordStarts off n).foldl (fun c o => lostWrite c (place o)) c
/-- Write into a reserved area, for a cell or a decoder. -/
def areaWrite (c : Chip) (a : Area) (off : Nat) (d : List Byte) : Chip :=
  lostWrites (writeArea c a off d) (areaPlace a) off d.length

/-! ## Performance counters (R414, R415, R417) -/

/-- Program of a counter at release. -/
def defaultEvent (slot idx : Nat) : Nat :=
  if idx = 0 then 0x0002
  else if slot < 64 then nth [0, 0x0101, 0x0102, 0x0103, 0x0104, 0x0001, 0x0105, 0x0001] idx
  else 0
/-- A counter of a unit. -/
def counter (c : Chip) (slot idx : Nat) : Counter :=
  (c.perf.counters.find? (fun x => x.slot = slot && x.idx = idx)).getD
    { slot := slot, idx := idx, event := defaultEvent slot idx }
def setCounter (c : Chip) (x : Counter) : Chip :=
  let others := c.perf.counters.filter (fun y => !(y.slot = x.slot && y.idx = x.idx))
  { c with perf := { c.perf with counters := x :: others } }
/-- Add to one counter of a unit; a carry enters the CHAIN counter above it, else WRAPPED is set (R417). -/
def addCounter : Nat → Chip → Nat → Nat → Nat → Chip
  | 0, c, _, _, _ => c
  | fuel + 1, c, slot, idx, n =>
    let x := counter c slot idx
    let v := x.count.toNat + n
    let carry := v / 2 ^ 48
    let c := setCounter c { x with count := BitVec.ofNat 48 v }
    if carry = 0 then c
    else if idx < 7 && (counter c slot (idx + 1)).event = 0x0001 then addCounter fuel c slot (idx + 1) carry
    else
      let c := setCounter c { x with count := BitVec.ofNat 48 v, wrapped := true }
      raiseLimited c 0xA002 slot sec10 carry 1 [w (slot + idx * 256), 0]
/-- Counters of a re-admitted unit restart from 0, with their programming (R416). -/
def restartCounters (c : Chip) (slot : Nat) : Chip :=
  (List.range 8).foldl (fun c i =>
    setCounter c { slot := slot, idx := i, event := (counter c slot i).event }) c
/-- The unit of a slot is isolated. -/
def slotIsolated (c : Chip) (slot : Nat) : Bool :=
  let key : Nat × Nat := if slot < 64 then (1, slot / 4 * 256 + slot % 4 * 32) else if slot < 80 then (2, slot - 64)
    else if slot < 96 then (3, slot - 80) else if slot < 108 then (8, slot - 96) else if slot < 116 then (4, slot - 108) else (5, slot - 116)
  (isolation? c key.1 key.2).isSome || (slot < 64 && (isolation? c 2 (slot / 4)).isSome)
/-- Count an event in every counter of a unit that is programmed with it; those of an isolated unit hold (Table 16-5). -/
def count (c : Chip) (slot event n : Nat) : Chip :=
  if slotIsolated c slot then c
  else (List.range 8).foldl (fun c i => if (counter c slot i).event = event then addCounter 8 c slot i n else c) c

/-! ## Reads that count (R329, R333, R335) -/

/-- What reads of words meet, each place once: the controller that serves one counts it where that is the mirror (R333), and where
the word is unwritten (R335); poisoned ones count where the reader's chapter does not say how it treats them (R329). -/
def countReads (c : Chip) (places : List Place) (countPoison : Bool) : Chip :=
  let states := places.map (wordAt c)
  let mirrored := places.filter (fun p => servingMc c p ≠ p.mc && wordAt c p ≠ .poisoned)
  let unwritten := places.filter (fun p => wordAt c p = .unwritten)
  let c' := { c with poisonReads := c.poisonReads + (if countPoison then states.count .poisoned else 0)
                     unwrittenReads := c.unwrittenReads + unwritten.length }
  let c' := mirrored.foldl (fun d p => count d (80 + servingMc c p) 0x0309 1) c'
  unwritten.foldl (fun d p => count d (80 + servingMc c p) 0x030A 1) c'
/-- Read n bytes at an offset through a place function: the bytes, the words that were poisoned, and the chip with its counters. -/
def readThrough (c : Chip) (place : Nat → Place) (off n : Nat) (countPoison : Bool) : List Byte × Nat × Chip :=
  let words := (wordStarts off n).map place
  ((List.range n).map (fun i => byteAt c (place (off + i))), (words.map (wordAt c)).count .poisoned, countReads c words countPoison)

end Sys2Proof.Machine
end

