-- ==== Sys2Proof/Machine/Dorfa.lean ====
section
/-!
DEFINITION. The Dorfa bitstream (R125 to R145): code tables, tokens, prediction, matches, runs and the check value.
-/

namespace Sys2Proof.Machine

/-! ## Code tables (R140, R141) -/

/-- Lengths written as runs of one length. -/
def lens (runs : List (Nat × Nat)) : List Nat := runs.flatMap (fun r => List.replicate r.1 r.2)

/-- Shapes H0 and H1 (Table 5-6), 64 symbols. -/
def shapeH (i : Nat) : List Nat :=
  if i = 0 then lens [(1, 2), (3, 5), (12, 8), (8, 5), (3, 6), (13, 7), (1, 4), (3, 5), (12, 8), (2, 8), (6, 0)]
  else lens [(1, 5), (15, 8), (4, 3), (6, 5), (2, 6), (12, 7), (2, 5), (2, 8), (12, 9), (2, 9), (6, 0)]
/-- Shapes V0 to V3, 16 symbols. -/
def shapeV (i : Nat) : List Nat :=
  if i = 0 then [1, 3, 3, 4, 4, 5, 6, 7, 8, 9, 10, 11, 11, 4, 0, 0]
  else if i = 1 then [2, 2, 3, 3, 4, 5, 6, 7, 8, 9, 10, 11, 11, 3, 0, 0]
  else if i = 2 then [3, 3, 3, 3, 3, 3, 4, 5, 5, 5, 6, 7, 7, 4, 0, 0]
  else [3, 4, 4, 4, 4, 4, 4, 4, 4, 4, 4, 4, 4, 3, 0, 0]
/-- Shapes Q0 and Q1, 16 symbols. -/
def shapeQ (i : Nat) : List Nat :=
  if i = 0 then [2, 2, 3, 3, 4, 4, 5, 5, 5, 6, 7, 7, 0, 0, 0, 0]
  else [3, 3, 3, 3, 4, 4, 4, 4, 4, 4, 4, 4, 0, 0, 0, 0]
/-- Lengths of static table t: H, then V, then Q. -/
def staticLens (t : Nat) : List Nat := shapeH (t / 8) ++ shapeV (t / 2 % 4) ++ shapeQ (t % 2)

/-- First code word of each length (R140, build_code), for lengths 1 to 15, in u16. -/
def firstCodes (ls : List Nat) : List Nat :=
  ((List.range 15).foldl (fun (st : Nat × List Nat) i =>
    let code := ((st.1 + (if i = 0 then 0 else ls.count i)) * 2) % 65536
    (code, st.2 ++ [code])) (0, [])).2

/-- The code words of an alphabet: symbol, length, word. -/
def buildCode (ls : List Nat) : List (Nat × Nat × Nat) :=
  let firsts := firstCodes ls
  (List.range ls.length).filterMap (fun s =>
    let l := nth ls s
    if l = 0 then none else some (s, l, (nth firsts (l - 1) + (ls.take s).count l) % 65536))

/-! ## Reading bits (R128) -/

/-- A decoding error: code, CAUSE, BIT_OFFSET (Table 5-11). -/
structure DcError where
  code : Nat := 0
  cause : Nat := 0
  pos : Nat := 0
deriving DecidableEq, Repr, Inhabited

/-- Why a tile row stops: an error, or a suspension with what it saves (R154). -/
inductive DcStop where
  | error (e : DcError)
  | starved (s : RowState)
deriving DecidableEq, Repr, Inhabited

/-- The bits not yet read, and how many have been read since the tile-row header. -/
structure BitReader where
  bits : List Bool := []
  pos : Nat := 0
deriving DecidableEq, Repr, Inhabited

/-- The bits of bytes, bit 7 of each first. -/
def bitsOfBytes (l : List Byte) : List Bool := l.flatMap (fun b => (List.range 8).map (fun i => b.getLsbD (7 - i)))

/-- A suspension at the bit a reader stands at. -/
def starvedAt (r : BitReader) : DcStop := .starved { pos := r.pos, unread := r.bits }
/-- What a suspension inside an operation adds to the state saved. -/
def saving {α : Type} (f : RowState → RowState) : Except DcStop α → Except DcStop α
  | .error (.starved s) => .error (.starved (f s))
  | x => x

/-- `read_bits(k)`. -/
def readBits (r : BitReader) (k : Nat) : Except DcStop (Nat × BitReader) :=
  if r.bits.length < k then .error (starvedAt r)
  else .ok ((r.bits.take k).foldl (fun n b => 2 * n + b01 b) 0, { bits := r.bits.drop k, pos := r.pos + k })

/-- Read a code word bit by bit; cause 0 at the first bit that no code word can continue (R140). -/
def readSymAux (code : List (Nat × Nat × Nat)) : Nat → Nat → Nat → BitReader → Except DcStop (Nat × BitReader)
  | 0, _, _, r => .error (.error { code := 0x2001, cause := 0, pos := r.pos })
  | fuel + 1, len, v, r =>
    match r.bits with
    | [] => .error (starvedAt r)
    | b :: rest =>
      let v := 2 * v + b01 b
      let len := len + 1
      match code.find? (fun s => s.2.1 = len && s.2.2 = v) with
      | some s => .ok (s.1, { bits := rest, pos := r.pos + 1 })
      | none =>
        if code.any (fun s => s.2.1 > len && s.2.2 / 2 ^ (s.2.1 - len) = v) then
          readSymAux code fuel len v { bits := rest, pos := r.pos + 1 }
        else .error (.error { code := 0x2001, cause := 0, pos := r.pos })

/-- The three codes of a table in force. -/
structure Codes where
  h : List (Nat × Nat × Nat) := []
  v : List (Nat × Nat × Nat) := []
  q : List (Nat × Nat × Nat) := []
deriving DecidableEq, Repr, Inhabited

def codesOf (ls : List Nat) : Codes :=
  { h := buildCode (ls.take 64), v := buildCode ((ls.drop 64).take 16), q := buildCode ((ls.drop 80).take 16) }

/-- `read_sym`; a suspension inside a code word keeps all its bits unread. -/
def readSym (code : List (Nat × Nat × Nat)) (r : BitReader) : Except DcStop (Nat × BitReader) :=
  saving (fun s => { s with pos := r.pos, unread := r.bits }) (readSymAux code 15 0 0 r)

/-- Signed value of u (R135). -/
def unfoldSign (u : Nat) : Int := if u % 2 = 1 then -((u + 1) / 2 : Nat) else (u / 2 : Nat)

/-! ## Tile rows -/

/-- What a tile row is decoded against. -/
structure RowJob where
  ray : Bool := false
  depth : Nat := 8
  width : Nat := 0
  height : Nat := 0
  /-- top array row and rows of the tile row -/
  y0 : Nat := 0
  rows : Nat := 0
  frame : Nat := 0
  stationRef : Nat := 0
  station : Bool := false
  /-- lengths of the dynamic slots that may be used, by slot -/
  slots : List (Nat × List Nat) := []
  /-- the current array's earlier tile rows, and those of frames f − 1, f − 2, f − 3 -/
  cur : HistArray := {}
  refs : List (Option HistArray) := []
  /-- R154: the element at which the output buffer is full -/
  limit : Option Nat := none
deriving DecidableEq, Repr, Inhabited

def comps (j : RowJob) : Nat := if j.ray then 3 else 4
def tileRows (ray : Bool) : Nat := if ray then 1 else 8
/-- A D-bit component as its history lane (R126), and a lane as the D-bit component of a frame. -/
def laneOf (depth v : Nat) : Nat := v * 2 ^ (16 - depth)
def componentOf (depth lane : Nat) : Nat := lane / 2 ^ (16 - depth)
/-- Element (x, y) of a decoded array, in components of the row's frame; the zero element where it holds none. -/
def elemOf (j : RowJob) (a : HistArray) (x y : Nat) : List Nat :=
  ((nth a.rows (y / tileRows j.ray)).getD (y % tileRows j.ray * a.w + x) [0, 0, 0, 0]).map (componentOf j.depth)
def elemC (e : List Nat) (k : Nat) : Nat := e.getD k 0

/-- The element at (x, y) of the current frame; `done` holds the tile row's elements, newest first. -/
def curElem (j : RowJob) (done : List (List Nat)) (x y : Nat) : List Nat :=
  if y < j.y0 then elemOf j j.cur x y
  else done.getD (done.length - 1 - ((y - j.y0) * j.width + x)) [0, 0, 0, 0]

/-- Prediction of component k at (x, y) (R135). -/
def predict (j : RowJob) (done : List (List Nat)) (pred x y k : Nat) : Nat :=
  let at_ := fun (x y : Nat) => elemC (curElem j done x y) k
  let haveL := x > 0
  let haveA := !j.ray && y > 0
  let l := if haveL then at_ (x - 1) y else if haveA then at_ x (y - 1) else 0
  let a := if haveA then at_ x (y - 1) else l
  let cn := if haveA && haveL then at_ (x - 1) (y - 1) else if haveA then a else l
  match pred with
  | 0 => if cn ≥ max l a then min l a else if cn ≤ min l a then max l a else l + a - cn
  | 1 => l
  | 2 => a
  | _ => 0

/-- CHECK as it runs (R145), before its inversion at the end. -/
def runningCheck (j : RowJob) (done : List (List Nat)) : Nat :=
  crc32c (done.reverse.flatMap (fun e => (List.range (comps j)).flatMap (fun k => beBytes (elemC e k) 2))) ^^^ 0xFFFFFFFF
/-- The state saved where a tile row stands after its elements `done`, inside a token. -/
def savedRow (j : RowJob) (sel kind : Nat) (done : List (List Nat)) (s : RowState) : RowState :=
  { s with position := done.length, kind := kind, tabsel := sel, check := runningCheck j done }
/-- The output buffer is full at the next element (R154). -/
def bufferFull (j : RowJob) (done : List (List Nat)) : Bool := j.limit = some done.length

/-- A table selection (R133, R144): illegal, empty or doubtful, or its codes. -/
def selectTable (j : RowJob) (sel : Nat) (r : BitReader) : Except DcStop Codes :=
  if sel > 19 then .error (.error { code := 0x2001, cause := 1, pos := r.pos - 1 })
  else if sel < 16 then .ok (codesOf (staticLens sel))
  else
    match j.slots.find? (fun s => s.1 = sel - 16) with
    | some s => .ok (codesOf s.2)
    | none => .error (.error { code := 0x2004, cause := 0, pos := r.pos - 1 })

/-- The components of a literal element from component k on, after those it has. -/
def literalComps (j : RowJob) (t : Codes) (done : List (List Nat)) (pred x y : Nat) :
    Nat → List Nat → BitReader → Except DcStop (List Nat × BitReader)
  | 0, have_, r => .ok (have_, r)
  | n + 1, have_, r => do
    let k := have_.length
    let p := predict j done pred x y k
    let here := saving (α := Nat × BitReader) (fun s => { s with comp := k, seed := have_, pos := r.pos, unread := r.bits })
    let s ← here (readSym t.v r)
    if s.1 = 13 then
      pure (have_ ++ (List.range (n + 1)).map (fun i => predict j done pred x y (k + i)), s.2)
    else if s.1 > j.depth || s.1 > 12 then .error (.error { code := 0x2001, cause := 1, pos := s.2.pos - 1 })
    else
      let extra ← here (if s.1 = 0 then pure (0, s.2) else readBits s.2 (s.1 - 1))
      let u := if s.1 = 0 then 0 else 2 ^ (s.1 - 1) + extra.1
      let v := (((p : Int) + unfoldSign u) % (2 ^ j.depth : Int)).toNat
      literalComps j t done pred x y n (have_ ++ [v]) extra.2

/-- A literal block of n elements. -/
def literalBlock (j : RowJob) (t : Codes) (sel pred : Nat) :
    Nat → List (List Nat) → BitReader → Except DcStop (List (List Nat) × BitReader)
  | 0, done, r => .ok (done, r)
  | n + 1, done, r => do
    let pos := done.length
    let here := fun s => { savedRow j sel 1 done s with remaining := n + 1 }
    if pos = j.width * j.rows then .error (.error { code := 0x2003, pos := r.pos - 1 })
    if bufferFull j done then saving here (.error (starvedAt r))
    let e ← saving here (literalComps j t done pred (pos % j.width) (j.y0 + pos / j.width) (comps j) [] r)
    literalBlock j t sel pred n (e.1 :: done) e.2

/-- Length class of a match (Table 5-5): first length and extra bits. -/
def matchClass (k : Nat) : Nat × Nat :=
  if k < 8 then (k + 1, 0)
  else (nth [9, 11, 13, 17, 21, 29, 37, 53, 69, 101, 133, 197, 261, 389, 517, 773] (k - 8), (k - 6) / 2)

/-- `read_disp`. -/
def readDisp (t : Codes) (r : BitReader) : Except DcStop (Int × BitReader) := do
  let s ← readSym t.q r
  let extra ← if s.1 = 0 then pure (0, s.2) else readBits s.2 (s.1 - 1)
  let u := if s.1 = 0 then 0 else 2 ^ (s.1 - 1) + extra.1
  if u > 1024 then .error (.error { code := 0x2002, pos := extra.2.pos - 1 })
  else pure (unfoldSign u, extra.2)

/-- `source_ok` of R136. -/
def sourceOk (j : RowJob) (ref : Nat) (sx sy : Int) (dy : Int) (x y : Nat) : Bool :=
  0 ≤ sx && sx < j.width && 0 ≤ sy && sy < j.height &&
  (if ref = 0 then
    (sy < y || (sy = y && sx < x)) && (!j.ray || dy = 0)
  else (ref : Int) ≤ seqDiff j.frame j.stationRef)

/-- Copy n elements of a match. -/
def copyMatch (j : RowJob) (sel ref : Nat) (dx dy : Int) : Nat → List (List Nat) → BitReader → Except DcStop (List (List Nat) × BitReader)
  | 0, done, r => .ok (done, r)
  | n + 1, done, r =>
    let x := done.length % j.width
    let y := j.y0 + done.length / j.width
    if bufferFull j done then
      saving (fun s => { savedRow j sel 2 done s with remaining := n + 1, ref := ref, dy := dy, dx := dx }) (.error (starvedAt r))
    else if !sourceOk j ref (x + dx) (y + dy) dy x y then .error (.error { code := 0x2002, pos := r.pos - 1 })
    else
      let sx := ((x : Int) + dx).toNat
      let sy := ((y : Int) + dy).toNat
      let e := if ref = 0 then curElem j done sx sy
        else match nth j.refs (ref - 1) with
          | some a => elemOf j a sx sy
          | none => [0, 0, 0, 0]
      copyMatch j sel ref dx dy n (e :: done) r

/-- `run_seed` of R137. -/
def runSeed (j : RowJob) (done : List (List Nat)) : List Nat :=
  let x := done.length % j.width
  let y := j.y0 + done.length / j.width
  if x > 0 then curElem j done (x - 1) y
  else if j.ray || y = 0 then List.replicate (comps j) 0
  else curElem j done (j.width - 1) (y - 1)

/-- A run of n elements (R137). -/
def copyRun (j : RowJob) (sel : Nat) (seed : List Nat) : Nat → List (List Nat) → BitReader → Except DcStop (List (List Nat) × BitReader)
  | 0, done, r => .ok (done, r)
  | n + 1, done, r =>
    if bufferFull j done then
      saving (fun s => { savedRow j sel 3 done s with remaining := n + 1, seed := seed }) (.error (starvedAt r))
    else copyRun j sel seed n (seed :: done) r

/-- The tokens of a tile row (R134), with the table selected, up to the last element: the elements, newest first, and the
table in force. Every token takes at least one bit, which bounds the recursion. -/
def tokens (j : RowJob) (pred : Nat) : Nat → Bool → Nat × Codes → List (List Nat) → BitReader →
    Except DcStop (List (List Nat) × Nat × BitReader)
  | 0, _, _, _, r => .error (starvedAt r)
  | fuel + 1, first, (sel, t), done, r => do
    let total := j.width * j.rows
    let inToken := fun (kind : Nat) => savedRow j sel kind done
    if done.length ≥ total then pure (done, sel, r)
    else
      let h ← saving (inToken 0) (readSym t.h r)
      let illegal : Except DcStop Unit := .error (.error { code := 0x2001, cause := 3, pos := h.2.pos - 1 })
      if j.station && first && h.1 ≠ 57 then illegal
      if h.1 ≤ 15 then
        let x ← literalBlock j t sel pred (h.1 + 1) done h.2
        tokens j pred fuel false (sel, t) x.1 x.2
      else if h.1 ≤ 39 then
        let cls := matchClass (h.1 - 16)
        let ex ← saving (inToken 2) (readBits h.2 cls.2)
        let len := cls.1 + ex.1
        let ref ← saving (fun s => { inToken 2 s with remaining := len }) (readBits ex.2 2)
        let dy ← saving (fun s => { inToken 2 s with remaining := len, ref := ref.1 }) (readDisp t ref.2)
        let dx ← saving (fun s => { inToken 2 s with remaining := len, ref := ref.1, dy := dy.1 }) (readDisp t dy.2)
        if len > total - done.length then .error (.error { code := 0x2003, pos := dx.2.pos - 1 })
        let x ← copyMatch j sel ref.1 dx.1 dy.1 len done dx.2
        tokens j pred fuel false (sel, t) x.1 x.2
      else if h.1 ≤ 55 then
        let ex ← saving (inToken 3) (readBits h.2 (h.1 - 40))
        let len := 2 ^ (h.1 - 40) + ex.1
        if len > total - done.length then .error (.error { code := 0x2003, pos := ex.2.pos - 1 })
        let x ← copyRun j sel (runSeed j done) len done ex.2
        tokens j pred fuel false (sel, t) x.1 x.2
      else if h.1 = 56 then
        let s ← saving (inToken 4) (readBits h.2 5)
        let t' ← selectTable j s.1 s.2
        tokens j pred fuel false (s.1, t') done s.2
      else if h.1 = 57 then
        if !(j.station && first) then illegal
        let n ← saving (inToken 5) (readBits h.2 8)
        if n.1 ≠ j.frame % 256 then .error (.error { code := 0x2001, cause := 3, pos := n.2.pos - 1 })
        tokens j pred fuel false (sel, t) done n.2
      else .error (.error { code := 0x2001, cause := 1, pos := h.2.pos - 1 })

/-- The bytes that CHECK covers (R145). -/
def checkBytes (j : RowJob) (es : List (List Nat)) : List Byte :=
  es.flatMap (fun e => (List.range (comps j)).flatMap (fun k => beBytes (elemC e k) 2))

/-- `decode_tile_row`: the elements of the tile row in raster order. -/
def decodeTileRow (j : RowJob) (bytes : List Byte) : Except DcStop (List (List Nat)) := do
  let r : BitReader := { bits := bitsOfBytes bytes }
  let sel ← readBits r 5
  let pred ← readBits sel.2 2
  let res ← readBits pred.2 1
  if res.1 ≠ 0 then .error (.error { code := 0x2001, cause := 2, pos := res.2.pos - 1 })
  let t ← selectTable j sel.1 res.2
  let x ← tokens j pred.1 (r.bits.length + 1) true (sel.1, t) [] res.2
  let es := x.1.reverse
  let atCheck := savedRow j x.2.1 6 x.1
  let pad ← saving atCheck (readBits x.2.2 ((8 - x.2.2.pos % 8) % 8))
  if pad.1 ≠ 0 then .error (.error { code := 0x2001, cause := 4, pos := pad.2.pos - 1 })
  let chk ← saving atCheck (readBits pad.2 32)
  if chk.1 ≠ crc32c (checkBytes j es) then .error (.error { code := 0x2005, pos := chk.2.pos - 1 })
  if chk.2.bits ≠ [] then .error (.error { code := 0x2003, pos := chk.2.pos })
  pure es

/-! ## Headers and table packets -/

/-- Frame header fields (Table 5-2): mode, planes, D, W, H, directions; none where the header itself is invalid. -/
def frameHeader (b : List Byte) : Option (List Nat) :=
  let w0 := be32 b 0
  let d := fld w0 21 20
  let mode := fld w0 27 27
  let planes := fld w0 26 22 + 1
  let dirs := fld (be32 b 8) 31 24
  if b.length < 12 || fld w0 31 28 ≠ 1 || d = 3 || (mode = 1 && planes ≠ 1) || dirs = 0 || 128 < dirs then none
  else some [mode, planes, 8 + 2 * d, fld (be32 b 4) 31 16, fld (be32 b 4) 15 0, dirs]

/-- Plane header (Table 5-3) of array p, after the frame header: PW, PH, Z, ORG_X, ORG_Y, PITCH. -/
def planeHeader (ray : Bool) (p : Nat) (b : List Byte) : Option (Nat × Nat × Int × Int × Int × Nat) :=
  let pw := fld (be32 b 12) 31 16
  let ph := fld (be32 b 12) 15 0
  let z := be32 b 16
  let ox := be32 b 20
  let oy := be32 b 24
  let pitch := fld (be32 b 28) 31 16
  let plane := fld (be32 b 28) 15 8
  if b.length < 32 || plane ≠ p then none
  else if ray then
    (if pw = 0 && ph = 0 && z = 0 && ox = 0 && oy = 0 && pitch = 0x1000 then some (0, 0, 0, 0, 0, pitch) else none)
  else if 1 ≤ pw && pw ≤ 8192 && 1 ≤ ph && ph ≤ 4608 && pitch ≠ 0 then
    some (pw, ph, signed 32 z, signed 32 ox, signed 32 oy, pitch)
  else none

/-- The 4-bit lengths of a table packet, symbol 0 in bits [7:4] of the first byte. -/
def nibbles (b : List Byte) : List Nat := b.flatMap (fun x => [x.toNat / 16, x.toNat % 16])

/-- Kraft sum of R143: Σ 2^(15 − len) over the symbols with a code word. -/
def kraft (ls : List Nat) : Nat := total (ls.map (fun l => if l = 0 then 0 else 2 ^ (15 - l)))

/-- R143: SLOT, GEN and the 96 lengths of a valid table packet. -/
def tablePacket (b : List Byte) : Option (Nat × Nat × List Nat) :=
  let ls := nibbles (slice b 8 48)
  let slot := fld (be32 b 0) 31 24
  let lh := ls.take 64
  let lv := (ls.drop 64).take 16
  let lq := ls.drop 80
  if b.length = 60 && slot ≤ 3 && fld (be32 b 0) 23 16 = 1 && be32 b 56 = crc32c (b.take 56) &&
     (lh.drop 58).all (· = 0) && (lv.drop 14).all (· = 0) && (lq.drop 12).all (· = 0) &&
     kraft lh ≤ 2 ^ 15 && kraft lv ≤ 2 ^ 15 && kraft lq ≤ 2 ^ 15
  then some (slot, be32 b 4, ls) else none

end Sys2Proof.Machine
end

