-- ==== Sys2Proof/Machine/Flags.lean ====
section
/-!
DEFINITION. The status flags of the host interface: interrupt causes, masks, holdoff and messages (R432 to R434), the
aperture status (R437), and the event writer with the ring, the hold queue and EVENTS_LOST (R70).
-/

namespace Sys2Proof.Machine

/-! ## Interrupts -/

/-- MSI-X enable, the function mask or the vector's own mask hold a message back (R433). -/
def msixBlocked (h : Hif) (v : Nat) : Bool := !h.msixEnable || h.functionMask || (nth h.msixTable v).2.2

/-- Send the message of a vector, or leave it pending in the PBA. -/
def sendVector (h : Hif) (v : Nat) : Hif :=
  if msixBlocked h v then { h with pba := h.pba ||| w (2 ^ v) }
  else
    let e := nth h.msixTable v
    { h with sent := (v, e.1, e.2.1) :: h.sent, pba := h.pba &&& ~~~(w (2 ^ v)) }

/-- A message of vectors 2 to 15 that goes out begins their HOLDOFF (R434); one left pending does not. -/
def sendHeld (h : Hif) (v : Nat) : Hif :=
  let x := sendVector h v
  if msixBlocked h v || !(2 ≤ v && v ≤ 15) || h.holdoff = 0 then x else { x with inHoldoff := v :: x.inHoldoff }
/-- R434: no message goes during HOLDOFF, which vectors 2 to 15 have. -/
def notify (h : Hif) (v : Nat) : Hif := if (2 ≤ v && v ≤ 15) && h.inHoldoff.contains v then h else sendHeld h v

/-- Set a cause (R433): a message goes when the bit goes from 0 to 1 and its mask bit is 0. -/
def setCause (h : Hif) (v : Nat) : Hif :=
  if h.irqStatus.toNat.testBit v then h
  else
    let h := { h with irqStatus := h.irqStatus ||| w (2 ^ v) }
    if h.irqMask.toNat.testBit v then h else notify h v

/-! ## The aperture status -/

/-- Set a bit of HIF_APT_STATUS: FAULT_ADDR takes the access that made it non-zero, and HIF_ERROR is set. -/
def setAptStatus (h : Hif) (bit addr : Nat) : Hif :=
  let h := if h.aptStatus = 0 then { h with aptFault := BitVec.ofNat 64 addr } else h
  setCause { h with aptStatus := h.aptStatus ||| w (2 ^ bit) } 21

/-! ## Rings (R66) -/

/-- Entries in a ring by its indices. -/
def ringUsed (produced consumed : U32) : Nat := (produced - consumed).toNat
/-- Free entries of the event ring. -/
def evtFree (h : Hif) : Nat := 1024 - ringUsed h.evtProduced h.evtConsumed
/-- The response ring is full (R69). -/
def rspFull (h : Hif) : Bool := 256 ≤ ringUsed h.rspProduced h.rspConsumed

/-- The words of an event (Table 3-4), CHECK included. -/
def eventWords (e : Event) : List U32 :=
  let body := [w (e.code + 2 ^ 24), e.seq, e.tag, w (e.session + b01 e.keep * 65536), w e.timeNs, w e.timeS] ++
    (List.range 9).map (fun i => e.data.getD i 0)
  body ++ [w (crc32c (bytesOf body))]

/-- Write an event into the ring: slot, then producer index, then status bits (R433), and only while the ring is not
full by its indices (R430). -/
def writeRing (h : Hif) (e : Event) : Hif :=
  if evtFree h = 0 then h else
  let h := { h with evtRing := (eventWords e :: h.evtRing).take 1024, evtProduced := h.evtProduced + 1 }
  let h := setCause h (if e.code = 0x4010 then 16 else e.code / 4096 + 2)
  if evtFree h ≤ h.threshold then setCause h 1 else h

/-- Enter an event into the history and the logs of `log_read`. -/
def enterLogs (v : Evt) (e : Event) : Evt :=
  let flt := e.code / 4096 = 0xC || e.code = 0x7002
  let st := e.code = 0x0001 || e.code = 0x9010
  { v with history := (e :: v.history).take 65536
           faultLog := if flt then (e :: v.faultLog).take 4096 else v.faultLog
           faultCount := if flt then v.faultCount + 1 else v.faultCount
           startLog := if st then e :: v.startLog else v.startLog
           startCount := if st then v.startCount + 1 else v.startCount }

/-- The host interface as the event writer holds it. -/
structure Writer where
  hif : Hif := {}
  evt : Evt := {}
deriving DecidableEq, Repr

/-- An event is not written to the ring (R70). -/
def loseEvent (x : Writer) (e : Event) : Writer :=
  let v := x.evt
  { x with evt := { v with
      lostFirst := v.lostFirst.or (some e.seq)
      lostCount := v.lostCount + 1
      keepLost := v.keepLost || e.keep
      notWritten := w32 (v.notWritten + 1)
      keepNotWritten := if e.keep then w32 (v.keepNotWritten + 1) else v.keepNotWritten } }

/-- R70: number an event, log it, and write it, hold it or lose it. `ready` is false before release (R59, R412). -/
def deliver (ready : Bool) (x : Writer) (e0 : Event) : Writer :=
  let e := { e0 with seq := x.evt.nextSeq }
  let v := enterLogs { x.evt with nextSeq := x.evt.nextSeq + 1 } e
  if ready && evtFree x.hif ≠ 0 && v.hold.isEmpty && v.lostFirst.isNone then { hif := writeRing x.hif e, evt := v }
  else if (e.keep || !ready) && v.hold.length < 256 then { x with evt := { v with hold := v.hold ++ [e] } }
  else loseEvent { x with evt := v } e

/-- Write held events while space lasts. -/
def drainHold : Nat → Writer → Writer
  | 0, x => x
  | n + 1, x =>
    match x.evt.hold with
    | [] => x
    | e :: rest =>
      if evtFree x.hif = 0 then x
      else drainHold n { hif := writeRing x.hif e, evt := { x.evt with hold := rest } }

/-- R93: HMAC-signed CCI datagram of the controller (Table 3-15). -/
def cciDatagram (key : List Byte) (slot kind counter : Nat) (body data : List Byte) : List Byte :=
  let m := beBytes 0x43434931 4 ++ beBytes (data.length * 65536 + kind * 256 + slot) 4 ++ beBytes counter 8 ++
    slice body 0 64 ++ data
  m ++ (hmac key m).take 16

/-- Send a datagram under a key slot; COUNTER increases with each. -/
def sendDatagram (c : Chip) (peer : Peer) (slot kind : Nat) (body data : List Byte) : Chip :=
  let n := look c.cci.udpSent slot 0 + 1
  { c with cci := { c.cci with udpSent := put c.cci.udpSent slot n }
           out := { c.out with
             udp := (peer, cciDatagram (look c.cci.cciKeys slot []) slot kind n body data) :: c.out.udp } }

/-- R96: send an event to the UDP sessions whose mask names its class. -/
def sendEventUdp (c : Chip) (e : Event) : Chip :=
  (c.cci.sessions.filter (fun x => x.via = .udp && x.mask.testBit (e.code / 4096))).foldl
    (fun c x => sendDatagram c { x.peer with port := BitVec.ofNat 16 x.evtPort } x.keySlot 2
      (bytesOf (eventWords e)) []) c

/-- Events reach the ring from release on, and in RECOVERY and HALTED (R59, R63, R83). -/
def ringOpen (c : Chip) : Bool := running c || c.start.st = .halted || c.start.st = .recovery

/-- R70: when space returns, EVENTS_LOST first, if an event was lost, and then the held events. DESIGN CHOICE (log 91):
where events were only held and none was lost, no EVENTS_LOST is written. -/
def spaceReturns (st : Chip × Writer) : Chip × Writer :=
  let x := st.2
  if evtFree x.hif = 0 || !ringOpen st.1 then st
  else
    match x.evt.lostFirst with
    | none => (st.1, drainHold 256 x)
    | some f =>
      let e := { mkEvent st.1 0x0020 0 0xFFFF [f, w x.evt.lostCount, w (b01 x.evt.keepLost)] with
        seq := x.evt.nextSeq }
      let v := enterLogs { x.evt with nextSeq := x.evt.nextSeq + 1, lostFirst := none, lostCount := 0,
                                      keepLost := false } e
      (sendEventUdp st.1 e, drainHold 256 { hif := writeRing x.hif e, evt := v })

/-- Deliver one signal. -/
def deliverSignal (st : Chip × Writer) : Signal → Chip × Writer
  | .logsLost h f b =>
    let v := st.2.evt
    (st.1, { st.2 with evt := { v with history := v.history.take h, faultLog := v.faultLog.take f, startLog := v.startLog.take b } })
  | .cause v => (st.1, { st.2 with hif := setCause st.2.hif v })
  | .event e =>
    (sendEventUdp st.1 { e with seq := st.2.evt.nextSeq },
     deliver (ringOpen st.1) st.2 e)

/-- Deliver what a step has raised, in order, then what limits held back, and let held events follow. -/
def flush (s : State) : State :=
  let c := raiseHeld s.chip
  let r := spaceReturns (c.signals.foldl deliverSignal ({ c with signals := [] }, { hif := s.hif, evt := s.evt }))
  { s with chip := { r.1 with crcBad := [] }, hif := r.2.hif, evt := r.2.evt }

end Sys2Proof.Machine
end

