-- ==== Sys2Proof/Machine/Operands.lean ====
section
/-!
DEFINITION. The operands of CCI commands: fields of a message (Table 3-2), buffer descriptors (Table 3-6) and the
data they name, the reply of a command (Table 3-3).
-/

namespace Sys2Proof.Machine

/-- What a command is carried out with: the host interface as it stands, the session (identifier 0 when
sessionless), the message, its transport, peer, key slot and inline data. -/
structure Env where
  hif : Hif := {}
  evt : Evt := {}
  fuses : Fuses := {}
  sess : Session := {}
  msg : List U32 := []
  via : Via := .hp
  peer : Peer := {}
  slot : Nat := 0
  inline : List Byte := []
deriving DecidableEq, Repr

/-- A response: STATUS, RESULT words from 0x10, inline data, the session to echo, and whether it is held back until an
abort or a snapshot settles (R71, R421). -/
structure Reply where
  status : Nat := 0
  result : List U32 := []
  data : List Byte := []
  session : Option Nat := none
  held : Option Nat := none
deriving DecidableEq, Repr, Inhabited

/-- The body of a command: checks 8 to 11 and the effect. -/
abbrev Body := Env → Chip → Chip × Reply

def reply (st : Nat) : Reply := { status := st }
def ok (result : List U32) : Reply := { status := stOK, result := result }
/-- A rejected command has no effect (R78). -/
def reject (c : Chip) (st : Nat) : Chip × Reply := (c, reply st)

/-- Field [hi:lo] of the word at a byte offset of a message (R84). -/
def mf (e : Env) (off hi lo : Nat) : Nat := fld (nth e.msg (off / 4)).toNat hi lo
/-- Whole word of a message. -/
def mw (e : Env) (off : Nat) : Nat := (nth e.msg (off / 4)).toNat
def bit (e : Env) (off i : Nat) : Bool := (mw e off).testBit i
def tagOf (e : Env) : U32 := nth e.msg 2
def sid (e : Env) : Nat := e.sess.id

/-- A buffer descriptor (Table 3-6). -/
structure Buf where
  lo : Nat := 0
  hi : Nat := 0
  len : Nat := 0
  kind : Nat := 0
deriving DecidableEq, Repr, Inhabited

def bufAt (e : Env) (off : Nat) : Buf :=
  { lo := mw e off, hi := mw e (off + 4), len := mw e (off + 8), kind := mf e (off + 12) 1 0 }
/-- Memory region that a descriptor of KIND 1 names. -/
def bufRegion (b : Buf) : Nat := fld b.hi 5 0
/-- R75: KIND is valid on the transport (check 8). -/
def bufKindOk (e : Env) (b : Buf) : Bool :=
  b.kind = 1 || (b.kind = 0 && e.via = .hp) || (b.kind = 2 && e.via ≠ .hp)
/-- The checks of a descriptor's region in the order of R78: it exists (check 9), it is not another session's where the
command writes into it (check 10, R80), and then that it holds the range. -/
def bufFault (c : Chip) (sess : Nat) (written : Bool) (b : Buf) : Option Nat :=
  if b.kind ≠ 1 then none
  else
    match memRegion? c (bufRegion b) with
    | none => some stUNKNOWN_RESOURCE
    | some r =>
      if written && !mayAct c sess r.owner then some stNOT_OWNER
      else if b.lo + b.len ≤ r.size then none else some stINVALID_FIELD
/-- KIND 0 transfers are issued (R425). -/
def busReady (c : Chip) : Bool := c.pcie.busMaster && !c.pcie.linkDown && !c.pcie.d3hot
/-- A KIND 0 transfer ends without a bus-master error and without poison (R75, R425). -/
def busMoves (c : Chip) (addr n : Nat) : Bool :=
  busReady c && c.pcie.hostBad.all (fun x => addr + n ≤ x.1 || x.1 + x.2 ≤ addr)

/-- Read n bytes at an offset of a buffer: none is a TRANSFER_FAULT (R75, R329). -/
def bufRead (c : Chip) (inline : List Byte) (b : Buf) (off n : Nat) : Chip × Option (List Byte) :=
  if b.kind = 0 then
    let addr := b.lo + b.hi * 2 ^ 32 + off
    (c, if busMoves c addr n then some (Memory.getBytes c.pcie.hostMem addr n) else none)
  else if b.kind = 1 then
    match memRegion? c (bufRegion b) with
    | none => (c, none)
    | some r =>
      let x := readThrough c (regionPlace r) (b.lo + off) n false
      (x.2.2, if x.2.1 = 0 then some x.1 else none)
  else (c, if off + n ≤ inline.length then some (slice inline off n) else none)

/-- Write bytes at the start of a buffer; toward a part that is isolated the command fails (R386): the chip, the inline data of the response, and whether it was moved. -/
def bufWrite (c : Chip) (b : Buf) (d : List Byte) : Chip × List Byte × Bool :=
  if b.kind = 0 then
    if busMoves c (b.lo + b.hi * 2 ^ 32) d.length then
      ({ c with pcie := { c.pcie with hostMem := Memory.setBytes c.pcie.hostMem (b.lo + b.hi * 2 ^ 32) d } }, [], true)
    else (c, [], false)
  else if b.kind = 1 then
    match memRegion? c (bufRegion b) with
    | none => (c, [], false)
    | some r =>
      if (wordStarts b.lo d.length).all (fun o => reachable c (regionPlace r o)) then (writeRegion c r b.lo d, [], true)
      else (c, [], false)
  else (c, d, true)

/-- Regions that a descriptor holds for the length of a job (R331). -/
def bufHolds (b : Buf) : List Nat := if b.kind = 1 then [bufRegion b] else []

/-- Give data to a buffer as the last step of a command: TRANSFER_FAULT where it cannot be moved. -/
def giveData (c : Chip) (b : Buf) (d : List Byte) (result : List U32) : Chip × Reply :=
  let x := bufWrite c b d
  if x.2.2 then (x.1, { status := stOK, result := result, data := x.2.1 }) else reject c stTRANSFER_FAULT

end Sys2Proof.Machine
end

