-- ==== Sys2Proof/Machine/Cci.lean ====
section
/-!
DEFINITION. Taking a CCI message: the front message of a transport, the checks of Table 3-7 in their order, sequence
numbers and cached responses (R77 to R79, R83), the response, and the events after it (R71).
-/

namespace Sys2Proof.Machine

/-- A message as it waits on a transport. -/
structure Waiting where
  msg : List U32 := []
  peer : Peer := {}
  slot : Nat := 0
  inline : List Byte := []
deriving DecidableEq, Repr, Inhabited

/-- The front message of a transport; in D3hot accepted doorbells stay pending (Table 17-1) (R66, R69, R83, R93, R97): none where none waits or none may be taken. DESIGN CHOICE
(log 91): while the response to an abort or to a `perf_snapshot` is held back, no further message is taken on any transport. -/
def front (s : State) (via : Via) : Option Waiting :=
  let c := s.chip
  if !smServes c || c.cci.held.isSome ||
     !(running c || c.start.st = .halted || (c.start.st = .recovery && via ≠ .udp)) then none
  else
    match via with
    | .hp =>
      if s.hif.inAccepted = s.hif.inConsumed || rspFull s.hif || c.pcie.linkDown || c.pcie.d3hot then none
      else some { msg := wordsOf (Memory.getBytes s.hif.inRing (s.hif.inConsumed.toNat % 256 * 64) 64) }
    | .udp =>
      match c.cci.udp with
      | [] => none
      | m :: _ => some { msg := m.msg, peer := m.peer, slot := m.slot, inline := m.data }
    | .i2c =>
      if c.cci.i2c.msgBusy then some { msg := wordsOf (slice c.cci.i2c.window 0 64), inline := c.cci.i2c.inData } else none

/-- Take the front message off its transport (R68). -/
def popFront (s : State) (via : Via) : State :=
  match via with
  | .hp => { s with hif := { s.hif with inConsumed := s.hif.inConsumed + 1 } }
  | .udp => { s with chip := { s.chip with cci := { s.chip.cci with udp := s.chip.cci.udp.drop 1 } } }
  | .i2c => s

/-- The opcodes of Table 3-8 (R82). -/
def opcodes : List Nat :=
  [0x01, 0x02, 0x03, 0x04, 0x10, 0x11, 0x12, 0x13, 0x14, 0x15, 0x16, 0x20, 0x21, 0x22, 0x23, 0x24, 0x25, 0x26, 0x27,
   0x30, 0x31, 0x32, 0x33, 0x34, 0x40, 0x41, 0x42, 0x50, 0x51, 0x60, 0x61, 0x62, 0x63, 0x64]

/-- Check 1: CHECK is the CRC-32C of bytes 0x00 to 0x3B (R72). -/
def checkGood (m : List U32) : Bool := crc32c (bytesOf (m.take 15)) = (nth m 15).toNat

/-- The command of a message; none where check 1 or 2 fails. -/
def opcodeOf (m : List U32) : Option Nat :=
  let op := fld (nth m 0).toNat 15 0
  if checkGood m && fld (nth m 0).toNat 31 24 = 1 && opcodes.contains op then some op else none

/-- The words of a response (R73, Table 3-3). -/
def responseWords (m : List U32) (r : Reply) : List U32 :=
  let sess := r.session.getD (fld (nth m 3).toNat 15 0)
  let body := [w (fld (nth m 0).toNat 15 0 + 2 ^ 24), nth m 1, nth m 2, w (sess + r.status * 65536)] ++
    (List.range 11).map (fun i => r.result.getD i 0)
  body ++ [w (crc32c (bytesOf body))]

/-- Continuation datagrams for inline data beyond 1,024 bytes (R95). -/
def continuations (c : Chip) (peer : Peer) (slot : Nat) (seq : U32) (d : List Byte) : Chip :=
  (List.range (cdiv d.length 1024)).foldl (fun c i =>
    if i = 0 then c
    else sendDatagram c peer slot 3 (beBytes seq.toNat 4 ++ beBytes (1024 * i) 4) ((d.drop (1024 * i)).take 1024)) c

/-- Write the words of a response on its transport (R65, R93, R97); HP sets cause RSP after the producer index, and
writes only while the ring is not full by its indices (R430). -/
def respondWords (s : State) (via : Via) (peer : Peer) (slot : Nat) (words : List U32) (data : List Byte) : State :=
  match via with
  | .hp =>
    if rspFull s.hif then s else
    let h := { s.hif with rspRing := (words :: s.hif.rspRing).take 256, rspProduced := s.hif.rspProduced + 1 }
    { s with hif := setCause h 0 }
  | .udp =>
    let c := sendDatagram s.chip peer slot 1 (bytesOf words) (data.take 1024)
    { s with chip := continuations c peer slot (nth words 1) data }
  | .i2c =>
    let i := s.chip.cci.i2c
    { s with chip := { s.chip with cci := { s.chip.cci with i2c :=
        { i with response := bytesOf words, rspReady := true, msgBusy := false, inData := [],
                 dataWin := if data = [] then i.dataWin else data.take 64, outData := data.drop 64,
                 dataReady := data ≠ [], dataTaken := false } } } }

/-- The least role of each command (Table 3-8). -/
def needsControl (op : Nat) : Bool := !([0x01, 0x02, 0x03, 0x04, 0x27, 0x33, 0x40, 0x51].contains op)
def needsAdmin (e : Env) (op : Nat) : Bool :=
  [0x42, 0x60, 0x61, 0x62, 0x63, 0x64].contains op || (op = 0x50 && mf e 0x10 7 0 = 0xFF)
def sessionless (op : Nat) : Bool := op = 0x01 || op = 0x03 || op = 0x04

/-- Check 7. -/
def denied (c : Chip) (e : Env) (op : Nat) : Bool :=
  (op = 0x01 && sid e ≠ 0) ||
  (needsControl op && !e.sess.control) || (needsAdmin e op && !e.sess.admin) ||
  ((op = 0x26 || op = 0x27) && e.via = .hp) || (op = 0x63 && e.via = .udp) || (op = 0x61 && !c.cfg.faultInject)

/-- What checks 1 to 7 say of a message. -/
inductive Verdict where
  /-- rejected without consuming a SEQ -/
  | early (r : Reply)
  /-- rejected at check 5 or later; the flag says whether its SEQ is consumed: not again for a repeat -/
  | rejected (r : Reply) (consume : Bool)
  /-- the cached response is returned again -/
  | cached (words : List U32)
  /-- carried out; the flag says whether its SEQ is consumed -/
  | carryOut (consume : Bool)
deriving DecidableEq, Repr, Inhabited

/-- Check 3: the session that a message runs in, along its own path. -/
def sessionFor (c : Chip) (via : Via) (peer : Peer) (id : Nat) : Option Session :=
  match session? c id with
  | some x => if x.via = via && (via ≠ .udp || x.peer = peer) then some x else none
  | none => none

/-- Check 4 (R77). DESIGN CHOICE (log 91): "above" and "below" NEXT_SEQ are read modulo 2³², by the signed 32-bit
difference, as R458 says of record indices. -/
def seqVerdict (x : Session) (m : List U32) (op : Nat) : Verdict :=
  let seq := nth m 1
  if seq = x.nextSeq then .carryOut true
  else
    let behind := (x.nextSeq - seq).toNat
    if behind < 2 ^ 31 then
      match x.cache.find? (fun k => k.seq = seq && k.opcode = op && k.tag = nth m 2) with
      | some k =>
        if behind ≤ 16 then (if [0x03, 0x04, 0x27, 0x33].contains op then .carryOut false else .cached k.words)
        else .early (reply stSTALE_SEQUENCE)
      | none => .early (reply stSTALE_SEQUENCE)
    else .early { status := stSEQUENCE_GAP, result := [x.nextSeq] }

/-- Checks 5 to 7, in their order. -/
def lateVerdict (c : Chip) (e : Env) (op : Nat) (busy consume : Bool) : Verdict :=
  if !(running c) && c.start.st ≠ .halted then .rejected (reply stUNAVAILABLE) consume
  else if c.start.st = .shuttingDown && op ≠ 0x03 && op ≠ 0x04 then .rejected (reply stBUSY) consume
  else if busy then .rejected (reply stBUSY) consume
  else if denied c e op then .rejected (reply stDENIED) consume
  else .carryOut consume

/-- Checks 1 to 7 of Table 3-7 for a message of command `op`. -/
def verdict (c : Chip) (e : Env) (op : Nat) (busy : Bool) : Verdict :=
  let id := fld (nth e.msg 3).toNat 15 0
  if c.start.st = .recovery then
    if op ≠ 0x60 && op ≠ 0x04 && op ≠ 0x03 then .early (reply stUNAVAILABLE)
    else if id ≠ 0 then .early (reply stNO_SESSION)
    else .carryOut false
  else if id = 0 then
    if sessionless op then lateVerdict c e op busy false else .early (reply stNO_SESSION)
  else
    match sessionFor c e.via e.peer id with
    | none => .early (reply stNO_SESSION)
    | some x =>
      match seqVerdict x e.msg op with
      | .carryOut consume => lateVerdict c e op busy consume
      | v => v

/-- The session of a message is heard (R81). -/
def heard (c : Chip) (id : Nat) : Chip :=
  { c with cci := { c.cci with sessions := c.cci.sessions.map (fun x =>
      if x.id = id then { x with lastNs := nowNs c, unservedNs := 0 } else x) } }

/-- Consume the SEQ and cache the response (R77). -/
def consumeSeq (c : Chip) (id : Nat) (op : Nat) (m : List U32) (words : List U32) : Chip :=
  { c with cci := { c.cci with sessions := c.cci.sessions.map (fun x =>
      if x.id = id then
        { x with nextSeq := x.nextSeq + 1
                 cache := ({ seq := nth m 1, opcode := op, tag := nth m 2, words := words } :: x.cache).take 16 }
      else x) } }

/-- The key slot that the controller signs with (R94). -/
def signSlot (e : Env) : Nat := if sid e = 0 then e.slot else e.sess.keySlot

/-- Write a reply and, where its SEQ counts, consume it. -/
def finish (s : State) (e : Env) (op : Nat) (r : Reply) (consume : Bool) : State :=
  let words := responseWords e.msg r
  let c := if consume then consumeSeq s.chip (sid e) op e.msg words else s.chip
  match r.held with
  | some job =>
    { s with chip := { c with cci := { c.cci with
        held := some { via := e.via, msg := e.msg, peer := e.peer, slot := signSlot e, job := job } } } }
  | none => respondWords { s with chip := c } e.via e.peer (signSlot e) words r.data

/-- The environment of a message. -/
def envOf (s : State) (via : Via) (m : Waiting) : Env :=
  { hif := s.hif, evt := s.evt, fuses := s.fuses, msg := m.msg, via := via, peer := m.peer, slot := m.slot,
    inline := m.inline
    sess := (sessionFor s.chip via m.peer (fld (nth m.msg 3).toNat 15 0)).getD {} }

/-- In HALTED a message other than `resync` and `log_read` is taken and counted, without a response (R83). -/
def discardMessage (s : State) (via : Via) : State :=
  let i := s.chip.cci.i2c
  let c := if via = .i2c then { s.chip with cci := { s.chip.cci with i2c := { i with msgBusy := false, inData := [] } } } else s.chip
  { s with chip := c, hif := { s.hif with discarded := satInc s.hif.discarded } }

/-- Carry out the message of command `op` that stands at the front of a transport. Without one, nothing happens
(log 9). A response out of the cache of R77 comes without the inline data of the first one (DEDUCED, log 105). -/
def cciCommand (op : Nat) (busy : Env → Chip → Bool) (body : Body) (via : Via) (s : State) : State :=
  match front s via with
  | none => s
  | some m =>
    if opcodeOf m.msg ≠ some op then s
    else
      let s := popFront s via
      if s.chip.start.st = .halted && op ≠ 0x03 && op ≠ 0x04 then discardMessage s via
      else
        let e := envOf s via m
        let s := { s with chip := heard s.chip (sid e) }
        match verdict s.chip e op (busy e s.chip) with
        | .early r => flush (finish s e op r false)
        | .cached words => flush (respondWords s via m.peer (signSlot e) words [])
        | .rejected r consume => flush (finish s e op r (consume && sid e ≠ 0))
        | .carryOut consume =>
          let x := body e s.chip
          flush (finish { s with chip := x.1 } e op x.2 (consume && sid e ≠ 0))

/-- No BUSY of its own. -/
def neverBusy : Env → Chip → Bool := fun _ _ => false

/-- UNKNOWN_COMMAND: the front message fails check 1 or check 2; it does not restart the KEEPALIVE of the session that it names
(DEDUCED, log 108). -/
def unknownMessage (via : Via) (s : State) : State :=
  match front s via with
  | none => s
  | some m =>
    if opcodeOf m.msg ≠ none then s
    else
      let s := popFront s via
      if s.chip.start.st = .halted then discardMessage s via
      else
        let e := envOf s via m
        flush (finish s e 0 (reply (if checkGood m.msg then stUNKNOWN_COMMAND else stBAD_CHECK)) false)

/-- Write the response that was held back for a job or a snapshot (R71, R89, R421). -/
def respondHeld (s : State) (job : Nat) (r : Reply) : State :=
  match s.chip.cci.held with
  | none => s
  | some h =>
    if h.job ≠ job then s
    else
      let words := responseWords h.msg r
      let id := fld (nth h.msg 3).toNat 15 0
      let sessions := s.chip.cci.sessions.map (fun x =>
        if x.id = id then
          { x with cache := x.cache.map (fun k => if k.seq = nth h.msg 1 then { k with words := words } else k) }
        else x)
      let c := { s.chip with cci := { s.chip.cci with held := none, sessions := sessions } }
      respondWords { s with chip := c } h.via h.peer h.slot words r.data

/-- R89: when the job that a held abort names has ended, its response follows the terminal event; while no pair serves it
waits (R17). -/
def settleAborts (s : State) : State :=
  match s.chip.cci.held with
  | none => s
  | some h =>
    if h.job = 0 || !smServes s.chip then s
    else
      match s.chip.cci.finished.find? (fun f => f.id = h.job) with
      | none => s
      | some f =>
        let t := match f.terminal with
          | .completed => 0
          | .failed => 1
          | .aborted => 2
          | .completedBeforeAbort => 3
        respondHeld s h.job (ok [f.tag, w t, w f.lastLine])

/-- Run a change of the chip, deliver what it raised, and write the response of an abort that it settled. -/
def State.run (f : Chip → Chip) (s : State) : State := settleAborts (flush { s with chip := f s.chip })

/-- The same for what happens only while the data plane and the management agents run (R58, R60, R63). -/
def State.runLive (f : Chip → Chip) (s : State) : State := if running s.chip then s.run f else s

end Sys2Proof.Machine
end

