-- ==== Sys2Proof/Machine/Pixels.lean ====
section
/-!
DEFINITION. Surfaces as bytes of a memory region (R197 to R199), their pixels as lanes (R200, R348), the CSC code (R199,
R349).
-/

namespace Sys2Proof.Machine

/-! ## Geometry of a surface (R198) -/

/-- Bytes per pixel (Table 7-2). -/
def bpp (fmt : Nat) : Nat := if fmt = 2 then 8 else if fmt = 4 then 2 else 4
/-- Bytes of one row: a pixel row, or a row of code blocks. -/
def rowBytes (fmt wd : Nat) : Nat := if fmt = 4 then 32 * (wd / 4) else wd * bpp fmt
def rowsOf (fmt ht : Nat) : Nat := if fmt = 4 then ht / 4 else ht
def leastStride (fmt wd : Nat) : Nat := roundUp (rowBytes fmt wd) 256
def surfSize (fmt ht stride : Nat) : Nat := roundUp (stride * rowsOf fmt ht) 4096

/-- Pixels that one element of a format covers, across and down (R344). -/
def elemW (fmt : Nat) : Nat := if fmt = 3 then 2 else if fmt = 4 then 4 else 1
def elemH (fmt : Nat) : Nat := if fmt = 4 then 4 else 1
/-- Bytes of one element. -/
def elemBytes (fmt : Nat) : Nat := if fmt = 2 || fmt = 3 then 8 else if fmt = 4 then 32 else 4
/-- Region offset of element (ex, ey). -/
def elemOffset (s : Surface) (ex ey : Nat) : Nat := s.offset + ey * s.stride + elemBytes s.format * ex

/-! ## Reading a surface -/

/-- Place of an offset in the region that holds a surface. -/
def surfPlace (c : Chip) (s : Surface) (off : Nat) : Place := regionPlace ((memRegion? c s.region).getD {}) off
/-- Bytes of element (ex, ey), zero where unwritten or poisoned (R206, R350). -/
def elemRead (c : Chip) (s : Surface) (ex ey : Nat) : List Byte :=
  (List.range (elemBytes s.format)).map (fun i => byteAt c (surfPlace c s (elemOffset s ex ey + i)))
/-- Keys of the poisoned words that reading an element meets. -/
def elemPoison (c : Chip) (s : Surface) (ex ey : Nat) : List Nat :=
  ((wordStarts (elemOffset s ex ey) (elemBytes s.format)).map (surfPlace c s)).filterMap (fun p =>
    if wordAt c p = .poisoned then some (wordKey p.mc (p.loc / 64)) else none)

/-! ## CSC (R199, R349) -/

/-- Component n of pixel k of a code block. -/
def cscComp (e : Nat) (n k : Nat) : Nat :=
  let e0 := if n = 3 then fld e 55 48 else fld e (8 * n + 7) (8 * n)
  let e1 := if n = 3 then fld e 63 56 else fld e (24 + 8 * n + 7) (24 + 8 * n)
  let i := if n = 3 then fld e (128 + 4 * k + 3) (128 + 4 * k) else fld e (64 + 4 * k + 3) (64 + 4 * k)
  (e0 * (15 - i) + e1 * i + 7) / 15
/-- The RGBA8 pixel k of a code block. -/
def cscPixel (b : List Byte) (k : Nat) : List Nat := (List.range 4).map (fun n => cscComp (ofLe b) n k)

def minOf (l : List Nat) : Nat := l.foldl min (l.headD 0)
def maxOf (l : List Nat) : Nat := l.foldl max 0
/-- Bits of a value at a position. -/
def atBit (v n : Nat) : Nat := v * 2 ^ n

/-- The encoder of R349: 16 RGBA8 pixels into a code block. -/
def cscEncode (px : List (List Nat)) : List Byte :=
  let comp := fun n => px.map (fun v => v.getD n 0)
  let lo := fun n => minOf (comp n)
  let hi := fun n => maxOf (comp n)
  let s := total ((List.range 3).map (fun n => hi n - lo n))
  let ci := fun (v : List Nat) =>
    if s = 0 then 0 else (15 * total ((List.range 3).map (fun n => v.getD n 0 - lo n)) + s / 2) / s
  let da := hi 3 - lo 3
  let ai := fun (v : List Nat) => if da = 0 then 0 else (15 * (v.getD 3 0 - lo 3) + da / 2) / da
  let ends := total ((List.range 3).map (fun n => atBit (lo n) (8 * n) + atBit (hi n) (24 + 8 * n))) +
    atBit (lo 3) 48 + atBit (hi 3) 56
  let idx := total ((List.range px.length).map (fun k =>
    atBit (ci (px.getD k [])) (64 + 4 * k) + atBit (ai (px.getD k [])) (128 + 4 * k)))
  leBytes (ends + idx) 32

/-! ## Lanes (R200) -/

def lane8 (v : Nat) : Nat := v * 257
def lane10 (v : Nat) : Nat := (v <<< 6) ||| (v >>> 4)
/-- 65535.0, 4095.0 and 1023.0 as f32. -/
def f65535 : F32 := fOfInt 65535

/-- c[0..2] of R200 for FORMAT 3, before its LUT step; `unit` is the eight bytes of the pair and `i` the pixel. -/
def ycbcrRgb (unit : List Byte) (i : Nat) : List F32 :=
  let at_ := fun k => ((le16 unit (2 * k) % 1024 : Nat) : Int)
  let yn := fDiv (fOfInt (at_ (1 + 2 * i) - 64)) (fOfInt 876)
  let cb := fDiv (fOfInt (at_ 0 - 512)) (fOfInt 896)
  let cr := fDiv (fOfInt (at_ 2 - 512)) (fOfInt 896)
  [fAdd yn (fMul (fOfRat 15748 10000) cr),
   fSub (fSub yn (fMul (fOfRat 1873 10000) cb)) (fMul (fOfRat 4681 10000) cr),
   fAdd yn (fMul (fOfRat 18556 10000) cb)]

/-- `to_lanes` of R348 for pixel (x, y) of a surface; `rd` reads an element's bytes. -/
def toLanes (fmt : Nat) (rd : Nat → Nat → List Byte) (x y : Nat) : List Nat :=
  if fmt = 0 then (rd x y).map (fun b => lane8 b.toNat)
  else if fmt = 4 then (cscPixel (rd (x / 4) (y / 4)) (4 * (y % 4) + x % 4)).map lane8
  else if fmt = 1 then
    let v := ofLe (rd x y)
    [lane10 (fld v 9 0), lane10 (fld v 19 10), lane10 (fld v 29 20), fld v 31 30 * 0x5555]
  else if fmt = 2 then
    (List.range 4).map (fun n => (fScaleRound (fOfHalf (le16 (rd x y) (2 * n))) 65535).toNat)
  else
    (ycbcrRgb (rd (x / 2) y) (x % 2)).map (fun v => (fScaleRound (fClamp v f0 f1) 65535).toNat) ++ [65535]

/-- A lane rounded to n steps. -/
def laneTo (v n : Nat) : Nat := (v * n + 32767) / 65535
/-- RGBA8 of lanes. -/
def lanes8 (l : List Nat) : List Nat := (List.range 4).map (fun n => laneTo (l.getD n 0) 255)

/-- `ycbcr_unit` of R348. -/
def ycbcrUnit (p0 p1 : List Nat) : List Byte :=
  let yn := fun (p : List Nat) =>
    let r := fDiv (fOfInt (p.getD 0 0)) f65535
    let g := fDiv (fOfInt (p.getD 1 0)) f65535
    let b := fDiv (fOfInt (p.getD 2 0)) f65535
    fAdd (fAdd (fMul (fOfRat 2126 10000) r) (fMul (fOfRat 7152 10000) g)) (fMul (fOfRat 722 10000) b)
  let dc := fun (p : List Nat) (n : Nat) => fSub (fDiv (fOfInt (p.getD n 0)) f65535) (yn p)
  let luma := fun p => clampI (64 + fFloor (fAdd (fMul (fOfInt 876) (yn p)) fHalf)) 64 940
  let chroma := fun (n num : Nat) =>
    let m := fMul (fAdd (dc p0 n) (dc p1 n)) fHalf
    clampI (512 + fFloor (fAdd (fDiv (fMul (fOfInt 896) m) (fOfRat num 10000)) fHalf)) 64 960
  [chroma 2 18556, luma p0, chroma 0 15748, luma p1].flatMap (fun v => leBytes v.toNat 2)

/-- `from_lanes` of R348: the element of a format from the lanes of its pixels, in raster order. -/
def fromLanes (fmt : Nat) (px : List (List Nat)) : List Byte :=
  let l := px.headD []
  let at_ := fun n => l.getD n 0
  if fmt = 0 then (lanes8 l).map (BitVec.ofNat 8)
  else if fmt = 1 then
    leBytes (laneTo (at_ 0) 1023 + atBit (laneTo (at_ 1) 1023) 10 + atBit (laneTo (at_ 2) 1023) 20 +
      atBit (laneTo (at_ 3) 3) 30) 4
  else if fmt = 2 then (List.range 4).flatMap (fun n => leBytes (halfOf (fDiv (fOfInt (at_ n)) f65535)) 2)
  else if fmt = 3 then ycbcrUnit l (px.getD 1 [])
  else cscEncode (px.map lanes8)

end Sys2Proof.Machine
end

