-- ==== Sys2Proof/Machine/Layers.lean ====
section
/-!
DEFINITION. Plane layers, surfaces and their commands: `layer_define`, `layer_commit`, `surface_alloc` and
`surface_free` (R194 to R214), readiness, settlement and retirement (R208 to R212).
-/

namespace Sys2Proof.Machine

/-! ## Definitions and their checks -/

/-- The newest definition of a layer (R196, R211). -/
def newestDef (l : Layer) : Option LayerDef :=
  match l.pending with
  | none => l.defn
  | some p => if p.undefine then none else p.newDef.or l.defn

/-- The layer is defined, or its definition is pending. -/
def layerKnown (l : Layer) : Bool := l.defn.isSome || (newestDef l).isSome

/-- A coefficient set by index: TAPS and C. -/
def coefSet (t : Tables) (i : Nat) : Option (Nat × List Int) := (t.coefs.find? (fun s => s.1 = i)).map (·.2)
/-- A set is loaded and holds the named taps. -/
def coefHas (c : Chip) (i taps : Nat) : Bool :=
  match coefSet c.tables i with
  | some s => s.1 = taps
  | none => false

/-- The ranges of Table 7-1. -/
def layerDefOk (c : Chip) (d : LayerDef) : Bool :=
  d.format ≤ 4 && 1 ≤ d.w && d.w ≤ 32767 && 1 ≤ d.h && d.h ≤ 32767 && d.x + d.w ≤ 32768 && d.y + d.h ≤ 32768 &&
  -2000000 ≤ d.depth && d.depth ≤ 2000000 && d.coefH ≤ 15 && d.coefV ≤ 15 && coefHas c d.coefH 8 && coefHas c d.coefV 6 &&
  d.srcX ≤ 8191 && d.srcY ≤ 8191 && 1 ≤ d.srcW && d.srcW ≤ 8192 && 1 ≤ d.srcH && d.srcH ≤ 8192 &&
  d.w ≤ 8 * d.srcW && d.srcW ≤ 4 * d.w && d.h ≤ 8 * d.srcH && d.srcH ≤ 4 * d.h

/-- A surface suits a definition: its format, and its size for the source rectangle (R196). -/
def surfaceSuits (s : Surface) (d : LayerDef) : Bool :=
  s.format = d.format && d.srcX + d.srcW ≤ s.w && d.srcY + d.srcH ≤ s.h
def suitsId (c : Chip) (id : Option Nat) (d : LayerDef) : Bool :=
  match id.bind (surface? c) with
  | some s => surfaceSuits s d
  | none => true

/-- R207: shortest frame period among the timetables of the ports, in force or taken, ns: no later settlement may raise the sum. -/
def leastPeriod (c : Chip) : Option Nat :=
  (c.ports.flatMap (fun p => ([p.tt, p.pendingTt.bind (·.1)].filterMap id).map (·.period))).foldl
    (fun m p => match m with | none => some p | some q => some (min p q)) none

/-- R207: bytes per frame × 1.25 × 4 of a layer as it counts. -/
def layerLoad (l : Layer) : Nat :=
  if l.surf.isNone && l.pending.isNone then 0
  else match newestDef l with
    | none => 0
    | some d => d.srcW * d.srcH * bpp d.format * 5
/-- R207: the layers keep within 40.0 GB/s at a frame period. -/
def layersFit (layers : List Layer) (period : Nat) : Bool :=
  total (layers.map layerLoad) * 1000000000 ≤ 4 * 40000000000 * period

/-- A layer is declared opaque (R203). -/
def unity (s : Nat × List Int) : Bool :=
  (List.range 64).all (fun p => ((s.2.drop (8 * p)).take 8).foldl (· + ·) 0 = 1024)
def declaredOpaque (t : Tables) (d : LayerDef) : Bool :=
  d.format = 3 && d.alpha = 255 && ((coefSet t d.coefH).map unity).getD false &&
    ((coefSet t d.coefV).map unity).getD false

/-! ## Footprints (R204) -/

/-- LS, and u and v of R201 at a hogel and tangents. -/
def layerScale (pd : Panel) (d : LayerDef) : F32 :=
  fDiv (fMul (fOfInt d.depth) (fOfInt 1000)) (fOfInt pd.pitch)
def layerU (pd : Panel) (d : LayerDef) (hx : Nat) (tx : F32) : F32 :=
  fAdd (fAdd (fOfInt (pd.x0 - d.x)) (fAdd (fOfInt hx) fHalf)) (fMul (layerScale pd d) tx)
def layerV (pd : Panel) (d : LayerDef) (hy : Nat) (ty : F32) : F32 :=
  fAdd (fAdd (fOfInt (pd.y0 - d.y)) (fAdd (fOfInt hy) fHalf)) (fMul (layerScale pd d) ty)

/-- Least and greatest of f32 values. -/
def fLeast (l : List F32) : F32 := l.foldl (fun m v => if fLt v m then v else m) (l.headD 0)
def fMost (l : List F32) : F32 := l.foldl (fun m v => if fLt m v then v else m) (l.headD 0)
/-- tx of R170 from a table tangent and an offset. -/
def tangent (t o : Int) : F32 := fAdd (fOfScaled t (-14)) (fOfScaled o (-12))

/-- Offset of a hogel. -/
def offsetAt (t : Tables) (pd : Panel) (hx hy : Nat) : Int × Int := t.offsets.getD (hy * pd.w + hx) (0, 0)

/-- Least and greatest tangents over hogels [x0, x1] × [y0, y1] and every direction. -/
def tangentRange (t : Tables) (pd : Panel) (dirs : List Int) (pick : Int × Int → Int) (x0 x1 y0 y1 : Nat) : F32 × F32 :=
  let offs := if t.offsets = [] then [0] else
    (List.range (y1 - y0 + 1)).flatMap (fun j => (List.range (x1 - x0 + 1)).map (fun i =>
      pick (offsetAt t pd (x0 + i) (y0 + j))))
  let lo := offs.foldl min (offs.headD 0)
  let hi := offs.foldl max (offs.headD 0)
  (fLeast (dirs.map (fun d => tangent d lo)), fMost (dirs.map (fun d => tangent d hi)))

/-- Hit box of a layer over hogels: least and greatest u, least and greatest v. -/
def hitBox (t : Tables) (pd : Panel) (d : LayerDef) (x0 x1 y0 y1 : Nat) : F32 × F32 × F32 × F32 :=
  let tx := tangentRange t pd pd.tx (·.1) x0 x1 y0 y1
  let ty := tangentRange t pd pd.ty (·.2) x0 x1 y0 y1
  let us := [layerU pd d x0 tx.1, layerU pd d x0 tx.2, layerU pd d x1 tx.1, layerU pd d x1 tx.2]
  let vs := [layerV pd d y0 ty.1, layerV pd d y0 ty.2, layerV pd d y1 ty.1, layerV pd d y1 ty.2]
  (fLeast us, fMost us, fLeast vs, fMost vs)

/-- A hit box meets the rectangle from −1 to W + 1 by −1 to H + 1. -/
def boxMeets (b : F32 × F32 × F32 × F32) (d : LayerDef) : Bool :=
  fGe b.2.1 (fOfInt (-1)) && fGe (fOfInt (d.w + 1)) b.1 && fGe b.2.2.2 (fOfInt (-1)) && fGe (fOfInt (d.h + 1)) b.2.2.1
/-- A hit box lies within the rectangle from 1 to W − 1 by 1 to H − 1. -/
def boxWithin (b : F32 × F32 × F32 × F32) (d : LayerDef) : Bool :=
  fGe b.1 f1 && fGe (fOfInt ((d.w : Int) - 1)) b.2.1 && fGe b.2.2.1 f1 && fGe (fOfInt ((d.h : Int) - 1)) b.2.2.2

/-- Hogels of a tile: first and last column, first and last row (R173). -/
def tileHogels (pd : Panel) (tt : Timetable) (t : Tile) : Nat × Nat × Nat × Nat :=
  let x0 := 256 * t.col
  let y0 := tt.firstRow + 8 * t.band
  (x0, min (x0 + 255) (pd.w - 1), y0, min (y0 + 7) (tt.firstRow + tt.rowCount - 1))

/-! ## Generations (R180, R181) -/

/-- A tile takes a new generation (R181). -/
def renewTile (gen : Nat) (t : Tile) : Tile :=
  { t with gen := gen, st := match t.st with
      | .running => .stopping
      | .complete => .waiting
      | st => st }

/-- Block counter slot of a tile for RUNAHEAD_DISCARDED (R414). -/
def blockSlot (region block : Nat) : Nat := 4 * region + block

/-- R180, R182: the named tiles of the frame in synthesis take the next generation. -/
def renewTiles (c : Chip) (p : Nat) (affected : Tile → Bool) : Chip :=
  let pt := port c p
  if pt.tt.isNone then c else
  let gen := (pt.gen + 1) % 65536
  let dropped := pt.tiles.filter (fun t => affected t && (t.st = .running || t.st = .complete))
  let c := dropped.foldl (fun c t => count c (blockSlot t.region t.block) 0x0102 1) c
  updPort c p (fun x => { x with gen := gen, tiles := x.tiles.map (fun t => if affected t then renewTile gen t else t) })

/-- A definition touches a tile of a port under the tables given (R204). -/
def inFootprint (tb : Tables) (x : Port) (t : Tile) (d : LayerDef) : Bool :=
  match x.tt, tb.panel with
  | some tt, some pd =>
    let h := tileHogels pd tt t
    boxMeets (hitBox tb pd d h.1 h.2.1 h.2.2.1 h.2.2.2) d
  | _, _ => true

/-! ## Frames and layers (R208 to R211) -/

/-- W of boundary count k of a port. -/
def windowOf (p : Port) (t : Timetable) (k : Nat) : Nat :=
  atLine t (k - frameStep p) (lineTime p t) (t.active - 2)

/-- W of frame k, a boundary count as `upcoming` gives it: the first frame of a timetable that follows another has its window
under the other (R234). -/
def closeOf (p : Port) (t : Timetable) (k : Nat) : Nat :=
  match p.pendingTt with
  | some (some n, e, _) =>
    if k ≤ boundaryAt n e then windowOf p t (boundaryAt t e) else atLine n (k - 1) n.lineTime (n.active - 2)
  | _ => windowOf p t k

/-- The mover jobs that a commit of a surface waits for (R209). -/
def waitsFor (c : Chip) (surf : Nat) : List Nat := (c.movers.filter (fun j => j.dst = surf)).map (·.id)

/-- A pending change is ready (R209, R211). -/
def changeReady (c : Chip) (x : LayerChange) : Bool :=
  x.surf.isNone || x.waits.all (fun id => !(c.movers.any (fun j => j.id = id)))

/-- A pending surface is replaced or dropped (R211). -/
def supersede (c : Chip) (i : Nat) (x : LayerChange) : Chip :=
  match x.surf with
  | none => c
  | some s => raiseOwn c (layer c i).owner 0x4003 [w i, w s, x.tag]

/-- Merge a command into the pending change of a layer. -/
def pendChange (c : Chip) (i : Nat) (x : LayerChange) : Chip :=
  let old := (layer c i).pending
  let c := match old with
    | some o => if x.undefine || x.surf.isSome then supersede c i o else c
    | none => c
  let o := old.getD {}
  let keep := x.surf.isNone && !x.undefine && !o.undefine
  let new : LayerChange :=
    { x with surf := if keep then o.surf else x.surf
             waits := if keep then o.waits else x.waits
             tag := if keep then o.tag else x.tag
             newDef := if x.undefine then none else if o.undefine then x.newDef else x.newDef.or o.newDef
             heldOnce := o.heldOnce && keep }
  updLayer c i (fun l => { l with pending := some new, effective := x.target })

/-- A surface is in display (R212); a job that is writing into it reports it (R351). -/
def showSurface (c : Chip) (s : Nat) : Chip :=
  let c := updSurface c s (fun y => { y with inDisplay := true })
  { c with movers := c.movers.map (fun j => if j.mover.isSome && j.dst = s then { j with destShown := true } else j) }

/-- The change of a layer comes in force (R210, R212); LYR_IN_FORCE names 0xFFFF where the layer then has no surface
(DESIGN CHOICE, log 17). -/
def bringInForce (c : Chip) (i : Nat) (x : LayerChange) : Chip :=
  let l := layer c i
  let surf := if x.undefine then none else x.surf.or l.surf
  let c := updLayer c i (fun l =>
    { l with pending := none
             defn := if x.undefine then none else x.newDef.or l.defn
             surf := surf
             owner := if x.undefine then 0 else l.owner })
  let c := surf.toList.foldl showSurface c
  (List.range 4).foldl (fun c p =>
    let pt := port c p
    match pt.tt with
    | none => c
    | some t =>
      let k := if pt.windowOpen || windowOf pt t (pt.cur + frameStep pt) = nowNs c then dueCount pt else nextOpen pt
      raiseOwn c l.owner 0x4001 [w (i + p * 256), w (surf.getD 0xFFFF), w k]) c

/-- Settle the pending changes due at the window close of the reference port's frame k (R210). -/
def settleLayers (c : Chip) (k : Nat) : Chip :=
  (List.range 8).foldl (fun c i =>
    match (layer c i).pending with
    | none => c
    | some x =>
      if !reached k x.target then c
      else if changeReady c x then bringInForce c i x
      else
        let l := layer c i
        let c := updLayer c i (fun l => { l with heldCount := l.heldCount + 1, pending := some { x with heldOnce := true } })
        raiseOwn c l.owner 0x4002 [w (i + b01 l.surf.isNone * 256), w (x.surf.getD 0xFFFF), w k]) c

/-! ## Retirement (R212, R213) -/

/-- Free a surface: a layer that had it in force after the last timetable was deleted has none. -/
def dropSurface (c : Chip) (id : Nat) : Chip :=
  { c with surfs := c.surfs.filter (fun s => s.id ≠ id)
           layers := c.layers.map (fun l => if l.surf = some id then { l with surf := none } else l) }

/-- A surface retires at a boundary of port p with frame number f. -/
def retireSurface (c : Chip) (p f : Nat) (s : Surface) : Chip :=
  let c := raiseOwn c s.owner 0x4004 [w (s.id + p * 65536), w f, w (b01 s.freeDeferred)]
  if s.freeDeferred then dropSurface c s.id
  else updSurface c s.id (fun x => { x with inDisplay := false, retireFrame := w32 f })

/-- Surfaces that a front frame, or a frame whose window has closed, uses. -/
def shownSurfaces (c : Chip) : List Nat :=
  c.ports.flatMap (fun p => if p.tt.isSome then p.frontUses ++ p.layers.map (·.surf) else [])

/-- Retire what no front frame and no closed frame uses, at a boundary of port p. -/
def retireUnused (c : Chip) (p f : Nat) : Chip :=
  let shown := shownSurfaces c
  (c.surfs.filter (fun s => s.inDisplay && !shown.contains s.id)).foldl (fun c s => retireSurface c p f s) c

/-! ## Commands -/

/-- 16-bit signed field. -/
def s16 (n : Nat) : Int := signed 16 n

/-- The definition that a message carries. -/
def layerDefOf (e : Env) : LayerDef :=
  { format := mf e 0x14 19 16, x := s16 (mf e 0x18 15 0), y := s16 (mf e 0x18 31 16), w := mf e 0x1C 15 0,
    h := mf e 0x1C 31 16, depth := signed 32 (mw e 0x20), coefH := mf e 0x24 7 0, coefV := mf e 0x24 15 8,
    alpha := mf e 0x24 23 16, srcX := mf e 0x28 15 0, srcY := mf e 0x28 31 16, srcW := mf e 0x2C 15 0,
    srcH := mf e 0x2C 31 16 }

/-- Target of a layer command on the reference port. -/
def layerTarget (c : Chip) (r target : Nat) : Nat := (enterFrame (port c r) target).1

/-- R207 as the layers would stand. -/
def fitsAfter (c : Chip) (i : Nat) (x : LayerChange) : Bool :=
  let layers := upd c.layers i (fun l =>
    let o := l.pending.getD {}
    { l with pending := some { x with newDef := if x.undefine then none else x.newDef.or o.newDef } })
  layersFit layers ((leastPeriod c).getD 1)

/-- A surface that a commit may name: it exists and is not free deferred (R213). -/
def commitSurface (c : Chip) (id : Nat) : Option Surface :=
  match surface? c id with
  | some s => if s.freeDeferred then none else some s
  | none => none

/-- The owners of a layer and of the surface that a message names let a session act (R80, R196). -/
def mayLayer (c : Chip) (session i s : Nat) : Bool :=
  mayAct c session (layer c i).owner && ((surface? c s).map (fun y => mayAct c session y.owner)).getD true

/-- `layer_define` (R195, R196). -/
def layerDefineBody : Body := fun e c =>
  let i := mf e 0x10 2 0
  let undef := bit e 0x10 8
  let d := layerDefOf e
  let s := if undef then 0xFFFF else mf e 0x14 15 0
  let l := layer c i
  if i = 0 || (!undef && !layerDefOk c d) then reject c stINVALID_FIELD
  else if s ≠ 0xFFFF && (commitSurface c s).isNone then reject c stUNKNOWN_RESOURCE
  else if !mayLayer c (sid e) i s then reject c stNOT_OWNER
  else if !undef && !(if s = 0xFFFF then suitsId c l.surf d && suitsId c (l.pending.bind (·.surf)) d else suitsId c (some s) d) then
    reject c stINVALID_FIELD
  else
    match referencePort c with
    | none => reject c stUNAVAILABLE
    | some r =>
      if undef then
        if !layerKnown l then (c, ok [])
        else (pendChange c i { undefine := true, target := layerTarget c r 0, tag := tagOf e }, ok [])
      else
        let x : LayerChange := { surf := if s = 0xFFFF then none else some s, newDef := some d,
                                 target := layerTarget c r 0, tag := tagOf e, waits := waitsFor c s }
        if !fitsAfter c i x then reject c stINFEASIBLE
        else (pendChange (updLayer c i (fun l => { l with owner := sid e })) i x, ok [])

/-- `layer_commit` (R208 to R211). -/
def layerCommitBody : Body := fun e c =>
  let i := mf e 0x10 2 0
  let s := mf e 0x14 15 0
  let l := layer c i
  if i = 0 then reject c stINVALID_FIELD
  else
    match newestDef l, commitSurface c s with
    | some d, some surf =>
      if !mayLayer c (sid e) i s then reject c stNOT_OWNER
      else if !surfaceSuits surf d then reject c stINVALID_FIELD
      else
        match referencePort c with
        | none => reject c stUNAVAILABLE
        | some r =>
          let k := layerTarget c r (mw e 0x18)
          let x : LayerChange := { surf := some s, target := k, tag := tagOf e, waits := waitsFor c s }
          if !fitsAfter c i x then reject c stINFEASIBLE
          else (pendChange (updLayer c i (fun l => { l with owner := sid e })) i x, ok [w k])
    | _, _ => reject c stUNKNOWN_RESOURCE

/-- Lowest offset of a region at which a surface fits (log 18). -/
def surfaceFit (c : Chip) (r : MemRegion) (size : Nat) : Option Nat :=
  let held := c.surfs.filter (fun s => s.region = r.id)
  let starts := (held.map (fun s => s.offset + s.size)).foldr insertSorted [0]
  (starts.filter (fun o => o + size ≤ r.size && held.all (fun s => o + size ≤ s.offset || s.offset + s.size ≤ o))).head?

/-- `surface_alloc` (R198). -/
def surfaceAllocBody : Body := fun e c =>
  let fmt := mf e 0x10 19 16
  let wd := mf e 0x14 15 0
  let ht := mf e 0x14 31 16
  let least := leastStride fmt wd
  let stride := if mw e 0x18 = 0 then least else mw e 0x18
  if fmt > 4 || wd = 0 || wd > 8192 || ht = 0 || ht > 8192 || (fmt = 3 && wd % 2 = 1) ||
     (fmt = 4 && (wd % 4 ≠ 0 || ht % 4 ≠ 0)) || stride % 256 ≠ 0 || stride < least then reject c stINVALID_FIELD
  else
    match memRegion? c (mf e 0x10 5 0) with
    | none => reject c stUNKNOWN_RESOURCE
    | some r =>
      let size := surfSize fmt ht stride
      if !mayAct c (sid e) r.owner then reject c stNOT_OWNER
      else if c.surfs.length ≥ 256 then reject c stNO_SPACE
      else
        match surfaceFit c r size, ((List.range 257).filter (fun id => (surface? c id).isNone)).head? with
        | some off, some id =>
          ({ c with surfs := c.surfs ++ [{ id := id, region := r.id, format := fmt, w := wd, h := ht, offset := off,
                                           stride := stride, size := size, owner := sid e }] },
           ok [w id, w off, w stride, w size])
        | _, _ => reject c stNO_SPACE

/-- A pending commit names a surface, or an unfinished mover job does (R213). -/
def surfaceBusy (c : Chip) (id : Nat) : Bool :=
  c.layers.any (fun l => (l.pending.bind (·.surf)) = some id) ||
  c.movers.any (fun j => j.dst = id || (j.op ≠ 0 && j.src = id))

/-- `surface_free` (R213). -/
def surfaceFreeBody : Body := fun e c =>
  let id := mf e 0x10 15 0
  match surface? c id with
  | none => reject c stUNKNOWN_RESOURCE
  | some s =>
    if !mayAct c (sid e) s.owner then reject c stNOT_OWNER
    else if s.freeDeferred then (c, reply stFREE_DEFERRED)
    else if surfaceBusy c id then reject c stIN_USE
    else if s.inDisplay then (updSurface c id (fun x => { x with freeDeferred := true }), reply stFREE_DEFERRED)
    else (dropSurface c id, ok [])

/-- SURFACE_ALLOC (R198). -/
def execSurfaceAlloc (via : Via) (s : State) : Host.Outcome State Fault Refusal :=
  .next (cciCommand 0x21 neverBusy surfaceAllocBody via s)
/-- SURFACE_FREE (R213). -/
def execSurfaceFree (via : Via) (s : State) : Host.Outcome State Fault Refusal :=
  .next (cciCommand 0x22 neverBusy surfaceFreeBody via s)

end Sys2Proof.Machine
end

