-- ==== Sys2Proof/Machine/Synth.lean ====
section
/-!
DEFINITION. What the cells compute: the depth list, plane and layer samples, a ray's drive values, the correction factor
(R160, R167 to R171, R200, R201), and the Renok Block Code (R287 to R289).
-/

namespace Sys2Proof.Machine

/-! ## Inputs of a frame -/

/-- A decoded scene frame: its mode, depth and arrays by number. -/
structure Scene where
  ray : Bool := false
  depth : Nat := 8
  planes : List HistArray := []
deriving DecidableEq, Repr, Inhabited

/-- What a tile is synthesised from. -/
structure SynthIn where
  panel : Panel := {}
  tables : Tables := {}
  layers : List LayerUse := []
  scene : Option Scene := none
  level : Nat := 0
deriving DecidableEq, Repr, Inhabited

/-- An entry of the depth list (R168). -/
inductive Entry where
  | layer (u : LayerUse)
  | plane (a : HistArray)
deriving DecidableEq, Repr, Inhabited

/-- Insert by an order that keeps earlier entries first on a tie. -/
def insertBy {α : Type} (goesBefore : α → α → Bool) (a : α) : List α → List α
  | [] => [a]
  | b :: l => if goesBefore a b then a :: b :: l else b :: insertBy goesBefore a l
def sortBy {α : Type} (goesBefore : α → α → Bool) (l : List α) : List α := l.foldr (insertBy goesBefore) []

def entryDepth : Entry → Int
  | .layer u => u.defn.depth
  | .plane a => a.z
/-- Rank at equal depth: layers by number, then planes by number. -/
def entryRank : Entry → Nat
  | .layer u => u.layer
  | .plane a => 256 + a.array
def entryFirst (a b : Entry) : Bool :=
  entryDepth b < entryDepth a || (entryDepth a = entryDepth b && entryRank a < entryRank b)

/-- R168, R186: planes that a level admits. -/
def levelCap (level : Nat) : Nat := if level = 0 then 32 else if level = 1 then 16 else 8
def admitted (level : Nat) (planes : List HistArray) : List HistArray :=
  let l := sortBy (fun a b => entryFirst (.plane a) (.plane b)) planes
  let cap := levelCap level
  if l.length ≤ cap then l else l.take (cap - 1) ++ l.drop (l.length - 1)

/-- Planes of a scene at a level; none in ray mode. -/
def scenePlanes (i : SynthIn) : List HistArray :=
  match i.scene with
  | some s => if s.ray then [] else admitted i.level s.planes
  | none => []
def depthList (i : SynthIn) : List Entry :=
  sortBy entryFirst (i.layers.map .layer ++ (scenePlanes i).map .plane)

/-! ## Linear light (R164, R169) -/

/-- LUT[k], the default ramp until a colour table is in force. -/
def lutAt (t : Tables) (k : Nat) : Nat :=
  match t.colour with
  | some ct => ct.lut.getD k 0
  | none => (k * 32768 + 2047) / 4095
/-- M[p][n] in 2.14. -/
def matrixAt (t : Tables) (p n : Nat) : Int :=
  match t.colour with
  | some ct => ct.m.getD (3 * p + n) 0
  | none => if p = n then 16384 else 0
def lin (t : Tables) (v : Nat) : F32 := fOfScaled (lutAt t (v / 16)) (-15)

/-- `pm` (R169): `depth` is D, and e holds history lanes. -/
def pm (t : Tables) (depth : Nat) (e : List Nat) : List F32 :=
  let l := fun n => e.getD n 0
  let a := fDiv (fOfInt ((l 3 ||| (l 3 / 2 ^ depth) : Nat) : Int)) f65535
  [fMul (lin t (l 0)) a, fMul (lin t (l 1)) a, fMul (lin t (l 2)) a, a]

/-- `elem` of R169: the zero element outside the array. -/
def planeElem (a : HistArray) (x y : Int) : List Nat :=
  if 0 ≤ x && x < a.w && 0 ≤ y && y < a.h then
    ((a.rows.getD (y.toNat / 8) []).getD (y.toNat % 8 * a.w + x.toNat) [0, 0, 0, 0])
  else [0, 0, 0, 0]

/-- u or v of a plane: base in 2⁻¹⁶ hogels, hogel number, scale, tangent, pitch. -/
def planeCoord (base : Int) (h : Nat) (s t pt : F32) : F32 :=
  fDiv (fAdd (fAdd (fOfScaled base (-16)) (fAdd (fOfInt h) fHalf)) (fMul s t)) pt

def planeScale (pd : Panel) (a : HistArray) : F32 := fDiv (fMul (fOfInt a.z) (fOfInt 1000)) (fOfInt pd.pitch)
def planeU (pd : Panel) (a : HistArray) (hx : Nat) (tx : F32) : F32 :=
  planeCoord (pd.x0 * 65536 - a.orgX) hx (planeScale pd a) tx (fOfScaled a.pitch (-12))
def planeV (pd : Panel) (a : HistArray) (hy : Nat) (ty : F32) : F32 :=
  planeCoord (pd.y0 * 65536 - a.orgY) hy (planeScale pd a) ty (fOfScaled a.pitch (-12))

/-- `plane_sample` (R169). -/
def planeSample (i : SynthIn) (depth : Nat) (a : HistArray) (hx hy : Nat) (tx ty : F32) : List F32 :=
  let u := planeU i.panel a hx tx
  let v := planeV i.panel a hy ty
  let x := fFloor u
  let y := fFloor v
  let fx := fSub u (fOfInt x)
  let fy := fSub v (fOfInt y)
  let at_ := fun dx dy => pm i.tables depth (planeElem a (x + dx) (y + dy))
  let lerp := fun (p q f : F32) => fAdd p (fMul f (fSub q p))
  (List.range 4).map (fun n =>
    let g := fun dx dy => (at_ dx dy).getD n 0
    lerp (lerp (g 0 0) (g 1 0) fx) (lerp (g 0 1) (g 1 1) fx) fy)

/-! ## Layers (R200, R201) -/

/-- `lpm`: pixel (x, y) of a layer's surface, linear and premultiplied; `rd` reads elements. -/
def lpm (t : Tables) (fmt : Nat) (rd : Nat → Nat → List Byte) (x y : Nat) : List F32 :=
  if fmt = 3 then
    (ycbcrRgb (rd (x / 2) y) (x % 2)).map (fun v =>
      fOfScaled (lutAt t (fScaleRound (fClamp v f0 f1) 4095).toNat) (-15)) ++ [f1]
  else if fmt = 2 then
    let h := fun n => fOfHalf (le16 (rd x y) (2 * n))
    (List.range 3).map (fun n => fMul (h n) (h 3)) ++ [h 3]
  else
    let l := toLanes fmt rd x y
    let al := fDiv (fOfInt (l.getD 3 0)) f65535
    (List.range 3).map (fun n => fMul (lin t (l.getD n 0)) al) ++ [al]

/-- Coefficient of phase p and tap k of a set, × 2⁻¹⁰. -/
def coefAt (t : Tables) (set p k : Nat) : F32 :=
  fOfScaled (if p < 64 then (((coefSet t set).getD (0, [])).2.getD (8 * p + k) 0) else Config.coefBeyond k) (-10)

/-- sx and sy of R201 at a hogel and tangents; none where the ray misses the destination rectangle. -/
def layerPoint (pd : Panel) (d : LayerDef) (hx hy : Nat) (tx ty : F32) : Option (F32 × F32) :=
  let u := layerU pd d hx tx
  let v := layerV pd d hy ty
  if fGe u f0 && fLt u (fOfInt d.w) && fGe v f0 && fLt v (fOfInt d.h) then
    some (fSub (fMul u (fDiv (fOfInt d.srcW) (fOfInt d.w))) fHalf, fSub (fMul v (fDiv (fOfInt d.srcH) (fOfInt d.h))) fHalf)
  else none
/-- The surface column of tap t, and the surface row of tap m, about x and y. -/
def tapX (d : LayerDef) (x : Int) (t : Nat) : Nat := d.srcX + (clampI (x - 3 + t) 0 ((d.srcW : Int) - 1)).toNat
def tapY (d : LayerDef) (y : Int) (m : Nat) : Nat := d.srcY + (clampI (y - 2 + m) 0 ((d.srcH : Int) - 1)).toNat
/-- Elements of a layer's surface that a ray reads (R201). -/
def layerElems (pd : Panel) (d : LayerDef) (hx hy : Nat) (tx ty : F32) : List (Nat × Nat) :=
  match layerPoint pd d hx hy tx ty with
  | none => []
  | some (sx, sy) => (List.range 6).flatMap (fun m => (List.range 8).map (fun t =>
      (tapX d (fFloor sx) t / elemW d.format, tapY d (fFloor sy) m / elemH d.format)))

/-- `layer_sample` (R201). -/
def layerSample (c : Chip) (i : SynthIn) (use : LayerUse) (hx hy : Nat) (tx ty : F32) : List F32 :=
  let d := use.defn
  let s := (surface? c use.surf).getD {}
  match layerPoint i.panel d hx hy tx ty with
  | none => [f0, f0, f0, f0]
  | some (sx, sy) =>
    let x := fFloor sx
    let y := fFloor sy
    let phase := fun (f : F32) (k : Int) => (fFloor (fMul (fSub f (fOfInt k)) (fOfInt 64))).toNat % 256
    let ph := phase sx x
    let pv := phase sy y
    let row := fun (m : Nat) =>
      (List.range 8).foldl (fun (acc : List F32) (t : Nat) =>
        let e := lpm i.tables d.format (elemRead c s) (tapX d x t) (tapY d y m)
        let k := coefAt i.tables d.coefH ph t
        (List.range 4).map (fun n => fAdd (acc.getD n 0) (fMul k (e.getD n 0)))) [f0, f0, f0, f0]
    let out := (List.range 6).foldl (fun (acc : List F32) (m : Nat) =>
      let r := row m
      let k := coefAt i.tables d.coefV pv m
      (List.range 4).map (fun n => fAdd (acc.getD n 0) (fMul k (r.getD n 0)))) [f0, f0, f0, f0]
    let ga := fDiv (fOfInt d.alpha) (fOfInt 255)
    let a := fClamp (fMul (out.getD 3 0) ga) f0 f1
    (List.range 3).map (fun n => fClamp (fMul (out.getD n 0) ga) f0 a) ++ [a]

/-! ## Rays (R170) -/

/-- 0.996 as f32. -/
def fOpaque : F32 := fOfRat 996 1000

/-- tx and ty of a ray (R170). -/
def rayTx (i : SynthIn) (hx hy d : Nat) : F32 := tangent (i.panel.tx.getD d 0) (offsetAt i.tables i.panel hx hy).1
def rayTy (i : SynthIn) (hx hy d : Nat) : F32 := tangent (i.panel.ty.getD d 0) (offsetAt i.tables i.panel hx hy).2

/-- Composite front to back: the accumulated values and the entries sampled. -/
def composite (sample : Entry → List F32) : List Entry → List F32 → Nat → List F32 × Nat
  | [], acc, n => (acc, n)
  | q :: rest, acc, n =>
    if fGe (acc.getD 3 0) fOpaque then (acc, n)
    else
      let s := sample q
      let wt := fSub f1 (acc.getD 3 0)
      composite sample rest ((List.range 4).map (fun m => fAdd (acc.getD m 0) (fMul wt (s.getD m 0)))) (n + 1)

/-- The values y of R170 for the three primaries, before the correction factor, the entries sampled, and whether the ray
stopped at the accumulated alpha of R170. -/
def synthY (c : Chip) (i : SynthIn) (entries : List Entry) (hx hy d : Nat) : List F32 × Nat × Bool :=
  let tx := rayTx i hx hy d
  let ty := rayTy i hx hy d
  let depth := (i.scene.getD {}).depth
  let r := composite (fun q => match q with
    | .plane a => planeSample i depth a hx hy tx ty
    | .layer u => layerSample c i u hx hy tx ty) entries [f0, f0, f0, f0] 0
  let ray := (i.scene.getD {}).ray
  let stops := fGe (r.1.getD 3 0) fOpaque
  let acc :=
    if ray && !stops then
      let a := (i.scene.getD {}).planes.headD {}
      let e := (a.rows.getD hy []).getD (hx * i.panel.dirs + d) [0, 0, 0]
      let wt := fSub f1 (r.1.getD 3 0)
      (List.range 3).map (fun n => fAdd (r.1.getD n 0) (fMul wt (lin i.tables (e.getD n 0))))
    else r.1
  let y := (List.range 3).map (fun p =>
    let m := fun n => fMul (fOfScaled (matrixAt i.tables p n) (-14)) (acc.getD n 0)
    fAdd (fAdd (m 0) (m 1)) (m 2))
  (y, r.2, stops && (ray || r.2 < entries.length))

/-- Index of an emitter value (R298). -/
def valueIndex (pd : Panel) (hx hy d p : Nat) : Nat := ((hy * pd.w + hx) * pd.dirs + d) * 3 + p
/-- `corr` of R171: a poisoned code is 0 (R306). -/
def mapCode (c : Chip) (i : Nat) : Nat :=
  match findArea c 2 0 with
  | some a => (byteAt c (areaPlace a i)).toNat
  | none => 0
/-- Drive value of y under a map code. -/
def driveOf (y : F32) (code : Nat) : Nat := (fScaleRound (fClamp (fMul y (corrFactor code)) f0 f1) 65535).toNat

/-! ## The Renok Block Code (R287 to R289) -/

/-- Values of a block that belong to primary p. -/
def ofPrimary (v : List Nat) (b p : Nat) : List Nat :=
  ((List.range v.length).filter (fun k => (64 * b + k) % 3 = p)).map (fun k => v.getD k 0)

/-- Least S for a range r (R288). -/
def shiftFor (r qmax : Nat) : Nat → Nat → Nat
  | 0, s => s
  | n + 1, s => if (r + (1 <<< s) / 2) >>> s > qmax then shiftFor r qmax n (s + 1) else s

/-- `encode_block` (R288). -/
def encodeBlock (v : List Nat) (b q : Nat) : List Byte :=
  let qmax := 2 ^ q - 1
  let lo := fun p => minOf (ofPrimary v b p)
  let sh := fun p => shiftFor (maxOf (ofPrimary v b p) - lo p) qmax 16 0
  let idx := (List.range 64).foldl (fun n k =>
    let p := (64 * b + k) % 3
    n * 2 ^ q + ((v.getD k 0 - lo p) + (1 <<< sh p) / 2) >>> sh p) 0
  beBytes (lo 0) 2 ++ beBytes (lo 1) 2 ++ beBytes (lo 2) 2 ++
    [BitVec.ofNat 8 (sh 0 * 16 + sh 1), BitVec.ofNat 8 (sh 2 * 16)] ++ beBytes idx (8 * q)

/-- `decode_value` (R289). -/
def decodeValue (blk : List Byte) (b k q : Nat) : Nat :=
  let p := (64 * b + k) % 3
  let lo := ofBe (slice blk (2 * p) 2)
  let s := if p = 2 then (blk.getD 7 0).toNat / 16 else if p = 1 then (blk.getD 6 0).toNat % 16 else (blk.getD 6 0).toNat / 16
  let area := ofBe (slice blk 8 (8 * q))
  min 65535 (lo + fld area (64 * q - 1 - q * k) (64 * q - q * (k + 1)) * 2 ^ s)

/-- Bits of an index, and bytes of a block, at a ratio. -/
def ratioQ (ratio2 : Bool) : Nat := if ratio2 then 7 else 3
def blockBytes (ratio2 : Bool) : Nat := if ratio2 then 64 else 32
/-- ROW_BYTES and ROW_STRIDE (R225). -/
def rowCodeBytes (pd : Panel) (ratio2 : Bool) : Nat := cdiv (3 * pd.w * pd.dirs) 64 * blockBytes ratio2
def rowStride (pd : Panel) (ratio2 : Bool) : Nat := roundUp (rowCodeBytes pd ratio2) 4096

/-- Code of values that begin at block b0 of a row. -/
def encodeValues (v : List Nat) (b0 q : Nat) : List Byte :=
  (List.range (cdiv v.length 64)).flatMap (fun i =>
    let l := (v.drop (64 * i)).take 64
    encodeBlock (l ++ List.replicate (64 - l.length) 0) (b0 + i) q)

end Sys2Proof.Machine
end

