-- ==== Sys2Proof/Machine/History.lean ====
section
/-!
DEFINITION. The history buffers in GDDR7 (R126, R148, R156): where the buffers of a stream lie in the reserve of area 5,
what is written there, and what a reader takes from there. The decoded arrays of `HistArray` are these buffers' contents
with their headers; a poisoned word of them reads as zeros (log 93).
-/

namespace Sys2Proof.Machine

/-! ## Channels -/

/-- The live or stored channel of a stream. -/
def channel (s : Stream) (item : Bool) : Channel := if item then s.item else s.live
def updChannel (c : Chip) (i : Nat) (item : Bool) (f : Channel → Channel) : Chip :=
  updStream c i (fun s => if item then { s with item := f s.item } else { s with live := f s.live })
def chan (c : Chip) (i : Nat) (item : Bool) : Channel := channel (stream c i) item

/-- Decoded arrays of a frame. -/
def arraysOf (ch : Channel) (f : Nat) : List HistArray := ch.hist.filter (fun a => a.frame = f)
def sceneFrame? (ch : Channel) (f : Nat) : Option SceneFrame := ch.frames.find? (fun x => x.num = f)

/-! ## The reserve (R156) -/

/-- R126: bytes of an array row with its stride, and of one buffer. -/
def histStride (a : HistArray) : Nat := roundUp (a.w * 8) 256
def histBytes (a : HistArray) : Nat := histStride a * a.h
/-- Bytes of the history reserve that arrays take, with four buffers each. -/
def historyBytes (l : List HistArray) : Nat := total (l.map (fun a => 4 * histBytes a))
def historyReserve : Nat := 8 * 2 ^ 30

/-- What the other streams hold of the reserve: first byte and end. -/
def reservedBy (c : Chip) (i : Nat) : List (Nat × Nat) :=
  ((List.range 16).filter (fun k => k ≠ i && (stream c k).reserve ≠ 0)).map (fun k =>
    ((stream c k).histBase, (stream c k).histBase + (stream c k).reserve))
/-- The lowest offset at which n bytes are free of other streams. -/
def reserveGap (c : Chip) (i n : Nat) : Option Nat :=
  let l := reservedBy c i
  ((0 :: l.map (·.2)).foldr insertSorted []).find? (fun b =>
    b + n ≤ historyReserve && l.all (fun r => b + n ≤ r.1 || r.2 ≤ b))

/-- A buffer's offset in the reserve: the arrays of a frame in order, four buffers each, and frame f in buffer f mod 4
(log 93). -/
def bufferOffset (s : Stream) (ch : Channel) (a : HistArray) : Nat :=
  let before := (List.range a.array).filterMap (fun n =>
    (ch.hist.find? (fun x => x.frame = a.frame && x.array = n)).or (ch.hist.find? (fun x => x.array = n)))
  s.histBase + historyBytes before + a.frame % 4 * histBytes a

/-- An element as its 8 bytes. -/
def elementBytes (e : List Nat) : List Byte := (List.range 4).flatMap (fun k => leBytes (e.getD k 0) 2)
/-- Write tile row y of an array. -/
def writeTileRow (c : Chip) (i : Nat) (item : Bool) (a : HistArray) (y : Nat) : Chip :=
  match findArea c 5 0 with
  | none => c
  | some area =>
    let base := bufferOffset (stream c i) (chan c i item) a
    (List.range (cdiv (nth a.rows y).length a.w)).foldl (fun c k =>
      areaWrite c area (base + (y * tileRows a.ray + k) * histStride a)
        ((((nth a.rows y).drop (k * a.w)).take a.w).flatMap elementBytes)) c
/-- Write every tile row that a channel's arrays hold. -/
def writeHistory (c : Chip) (i : Nat) (item : Bool) (l : List HistArray) : Chip :=
  l.foldl (fun c a => (List.range a.rows.length).foldl (fun c y => writeTileRow c i item a y) c) c

/-- Every stream's buffers move together, in the order of the streams: what is free becomes one range. -/
def packReserve (c : Chip) (i : Nat) : Chip :=
  let r := (List.range 16).foldl (fun (x : Chip × Nat) k =>
    if k = i then x else (updStream x.1 k (fun s => { s with histBase := x.2 }), x.2 + (stream x.1 k).reserve)) (c, 0)
  (List.range 16).foldl (fun c k =>
    if k = i || (stream c k).reserve = 0 then c
    else writeHistory (writeHistory c k false (stream c k).live.hist) k true (stream c k).item.hist)
    (updStream r.1 i (fun s => { s with histBase := r.2 }))

/-- A stream takes n bytes of the reserve; none where no room remains. -/
def takeReserve (c : Chip) (i n : Nat) : Option Chip :=
  if (stream c i).reserve = n then some c
  else if historyReserve < n + total ((List.range 16).map (fun k => if k = i then 0 else (stream c k).reserve)) then none
  else
    let c := match reserveGap c i n with
      | some b => updStream c i (fun s => { s with histBase := b })
      | none => packReserve c i
    some (updStream c i (fun s => { s with reserve := n }))

/-! ## Reading -/

/-- An array as the cells read it: an element in a poisoned word is zero. -/
def seenArray (c : Chip) (s : Stream) (ch : Channel) (a : HistArray) : HistArray :=
  match findArea c 5 0 with
  | none => a
  | some area =>
    if s.reserve = 0 || (c.poison = [] && c.crcBad = [] && area.mcs.all (mcOk c)) || (sceneFrame? ch a.frame).isSome then a
    else
      let base := bufferOffset s ch a
      { a with rows := (List.range a.rows.length).map (fun y =>
          (List.range (nth a.rows y).length).map (fun k =>
            let at_ := base + (y * tileRows a.ray + k / a.w) * histStride a + k % a.w * 8
            if wordAt c (areaPlace area at_) = .poisoned then [0, 0, 0, 0] else nth (nth a.rows y) k)) }

/-- The words of a tile row of an array in the history reserve. -/
def historyWords (c : Chip) (s : Stream) (ch : Channel) (a : HistArray) (y : Nat) : List Place :=
  match findArea c 5 0 with
  | none => []
  | some area =>
    if s.reserve = 0 then []
    else
      let base := bufferOffset s ch a
      ((List.range (cdiv (nth a.rows y).length a.w)).flatMap (fun k =>
        (wordStarts (base + (y * tileRows a.ray + k) * histStride a) (8 * a.w)).map (fun o => areaPlace area (o / 64 * 64)))).eraseDups

/-- R107, R148: the array of the previous frame of a stream: the newest by number before frame f. -/
def previousArray (ch : Channel) (f n : Nat) : Option HistArray :=
  (ch.hist.filter (fun b => b.array = n && seqDiff b.frame f < 0)).foldl (fun best b => match best with
    | none => some b
    | some a => if seqDiff a.frame b.frame < 0 then some b else some a) none

end Sys2Proof.Machine
end

