-- ==== Sys2Proof/Machine/Bands.lean ====
section
/-!
DEFINITION. Bands and tiles: what a port frame is made from, the tile rows that a band needs, and the times of a tile
(R173 to R175).
-/

namespace Sys2Proof.Machine

/-! ## What a port frame is made from -/

/-- Tables of the frame in synthesis: the newest until its window closes (R166). -/
def tablesFor (c : Chip) (p : Port) : Tables := if p.windowOpen then c.tables else p.tables
/-- The panel description of the rows that a port sends (R166). -/
def rowPanel (c : Chip) (x : Port) : Option Panel := if x.swapped then x.frontPanel else x.tables.panel.or c.tables.panel

/-- The port that a stream feeds: the lowest whose FRAME_ID in force follows it. -/
def portOf (c : Chip) (i : Nat) : Option Nat :=
  (List.range 4).find? (fun p => let id := (port c p).frameId.toNat
    (port c p).tt.isSome && fld id 31 28 = 0 && fld id 27 24 = i)
/-- The panel description in force for a stream: that of the port it feeds, or the newest where it feeds none (R131,
R166). -/
def panelOf (c : Chip) (i : Nat) : Option Panel := match portOf c i with
  | some p => (tablesFor c (port c p)).panel
  | none => c.tables.panel

/-- A layer as the frame in synthesis of a port shows it: with its pending change, once that is certain (R210): a change
that was held comes in force no sooner than the next close of the reference port. -/
def layerFor (c : Chip) (p : Port) (t : Timetable) (i : Nat) : Option LayerUse :=
  let l := layer c i
  let certain := match l.pending, (referencePort c).bind (fun r => (port c r).tt.map (fun rt => (port c r, rt))) with
    | some x, some (rp, rt) => changeReady c x && closeOf rp rt (countNear (nextOpen rp) x.target) ≤ windowOf p t (p.cur + frameStep p)
    | _, _ => false
  let x := l.pending.getD {}
  let d := if !certain then l.defn else if x.undefine then none else x.newDef.or l.defn
  let s := if !certain then l.surf else if x.undefine then none else x.surf.or l.surf
  match d, s with
  | some d, some s => some { layer := i, surf := s, defn := d }
  | _, _ => none

/-- Layers in the depth list of the frame in synthesis. -/
def layersFor (c : Chip) (p : Port) : List LayerUse :=
  match p.tt with
  | some t => if p.windowOpen then (List.range 8).filterMap (layerFor c p t) else p.layers
  | none => []

/-! ## Scene frames -/

/-- The frame header in force behind some frames in decoding: the newest station frame's among them, else that of the last
station frame which became ready (R131). -/
def hdrBehind (ch : Channel) (l : List SceneFrame) : List Nat :=
  ((l.filter (fun y => y.station && y.hdr ≠ [])).getLast?.map (·.hdr)).getD ch.ctx.frameHdr
def newestHdr (ch : Channel) : List Nat := hdrBehind ch ch.frames
/-- The header that a predicted frame keeps: that of the station frame it follows. -/
def chainHdr (ch : Channel) (x : SceneFrame) : List Nat := hdrBehind ch (ch.frames.takeWhile (fun y => y.num ≠ x.num))
/-- Fields of the frame header that a frame keeps: its own, the marker's, or those in force (R131). -/
def headerOf (ch : Channel) (f : Nat) : List Nat :=
  match sceneFrame? ch f with
  | some x => if x.hdr ≠ [] then x.hdr else match x.marker with
      | some m => [m.mode, m.planes]
      | none => chainHdr ch x
  | none => newestHdr ch
def isRay (ch : Channel) (f : Nat) : Bool := match (arraysOf ch f).head? with
  | some a => a.ray
  | none => nth (headerOf ch f) 0 = 1
def arrayCount (ch : Channel) (f : Nat) : Nat := match sceneFrame? ch f with
  | some _ => nth (headerOf ch f) 1
  | none => (arraysOf ch f).length
/-- Shape of array a of frame f: its own, or that of the frame before it in a chain (R131). -/
def shapeFor (ch : Channel) (f a : Nat) : Option HistArray :=
  match ch.hist.find? (fun x => x.frame = f && x.array = a) with
  | some x => some x
  | none => match sceneFrame? ch f with
    | some x => if x.station then none else ch.hist.find? (fun y => y.array = a)
    | none => none
/-- Shapes of every array of a frame, where they are known. -/
def shapesOf (ch : Channel) (f : Nat) : Option (List HistArray) :=
  let l := (List.range (arrayCount ch f)).map (shapeFor ch f)
  if l = [] || l.contains none then none else some (l.filterMap id)

/-- R149: a tile row is ready. -/
def rowReady (ch : Channel) (f : Nat) (r : Nat × Nat) : Bool :=
  match ch.hist.find? (fun x => x.frame = f && x.array = r.1) with
  | some x => !x.held && nth x.rows r.2 ≠ []
  | none => false

/-- The scene that feeds a port frame, as the cells read it: every plane of the frame stands in the ranking, begun or not
(R168). -/
def sceneFor (c : Chip) (p : Port) : Option Scene :=
  match p.feed with
  | some (i, item, some f) =>
    let ch := chan c i item
    let known := match shapesOf ch f with
      | some l => l.map (fun (a : HistArray) => if a.frame = f then a else { a with frame := f, rows := [] })
      | none => arraysOf ch f
    let l := known.map (seenArray c (stream c i) ch)
    some { ray := isRay ch f, depth := (l.headD {}).depth, planes := sortBy (fun a b => a.array < b.array) l }
  | _ => none

/-! ## Bands (R173, R174) -/

def bandCount (t : Timetable) : Nat := cdiv t.rowCount 8
def colCount (pd : Panel) : Nat := cdiv pd.w 256
def tileIndex (p : Nat) (t : Tile) : Nat := p * 2 ^ 24 + t.band * 2 ^ 8 + t.col
/-- First and last hogel row of a band. -/
def bandRows (t : Timetable) (b : Nat) : Nat × Nat :=
  (t.firstRow + 8 * b, min (t.firstRow + 8 * b + 7) (t.firstRow + t.rowCount - 1))

/-- Tile rows of a plane that rows y0 to y1 need. -/
def planeNeeds (t : Tables) (pd : Panel) (y0 y1 : Nat) (a : HistArray) : List (Nat × Nat) :=
  let ty := tangentRange t pd pd.ty (·.2) 0 (pd.w - 1) y0 y1
  let vs := [planeV pd a y0 ty.1, planeV pd a y0 ty.2, planeV pd a y1 ty.1, planeV pd a y1 ty.2]
  let lo := clampI (fFloor (fLeast vs)) 0 a.h
  let hi := clampI (fFloor (fMost vs) + 1) (-1) ((a.h : Int) - 1)
  if hi < lo then [] else
  (List.range (hi.toNat / 8 - lo.toNat / 8 + 1)).map (fun i => (a.array, lo.toNat / 8 + i))

/-- Tile rows that a band of the frame in synthesis needs; none where the frame's shape is not known yet. -/
def bandNeeds (c : Chip) (p : Port) (b : Nat) : Option (List (Nat × Nat)) :=
  match p.feed, p.tt, (tablesFor c p).panel with
  | some (i, item, some f), some t, some pd =>
    let ch := chan c i item
    let r := bandRows t b
    if isRay ch f then some ((List.range (r.2 + 1 - r.1)).map (fun k => (0, r.1 + k)))
    else (shapesOf ch f).map (fun l => (admitted p.level l).flatMap (planeNeeds (tablesFor c p) pd r.1 r.2))
  | some (_, _, none), _, _ => none
  | _, _, _ => some []

/-- A band is ready (R174). -/
def bandReady (c : Chip) (p : Port) (b : Nat) : Bool :=
  match p.feed with
  | some (i, item, some f) => match bandNeeds c p b with
    | some l => l.all (rowReady (chan c i item) f)
    | none => false
  | some _ => false
  | none => true

/-! ## Times of a tile (R175) -/

/-- A region is in service: not isolated, and not off. -/
def regionServes (c : Chip) (u : Nat) : Bool :=
  (region c u).inService && !(region c u).off && (isolation? c 2 u).isNone
/-- f_min in MHz. -/
def fMin (c : Chip) : Nat :=
  (((List.range 16).filter (regionServes c)).map (fun u => (region c u).mhz)).foldl (fun m f => if m = 0 then f else min m f) 0
/-- Depth planes that the frame in synthesis admits. -/
def planesAdmitted (c : Chip) (p : Port) (level : Nat) : Nat :=
  match p.feed with
  | some (i, item, f) =>
    let ch := chan c i item
    let n := match f with
      | some f => if isRay ch f then 0 else arrayCount ch f
      | none => if nth (newestHdr ch) 0 = 1 then 0 else nth (newestHdr ch) 1
    min n (levelCap level)
  | none => 0
/-- Hogels of a tile. -/
def tileHogelCount (pd : Panel) (tt : Timetable) (t : Tile) : Nat :=
  let h := tileHogels pd tt t
  (h.2.1 + 1 - h.1) * (h.2.2.2 + 1 - h.2.2.1)
/-- ops_t: planes, layers and 6 for each ray (R34). -/
def tileOps (c : Chip) (p : Port) (t : Tile) (level : Nat) : Nat :=
  match p.tt, (tablesFor c p).panel with
  | some tt, some pd =>
    tileHogelCount pd tt t * pd.dirs * (planesAdmitted c p level + (layersFor c p).length + 6)
  | _, _ => 0
/-- W_t in ns. -/
def tileWorst (c : Chip) (p : Port) (t : Tile) : Nat :=
  if fMin c = 0 then 0 else tileOps c p t p.level * 1000 / (16 * fMin c)
/-- S_t. -/
def tileStartBy (c : Chip) (p : Port) (t : Tile) : Nat :=
  match p.tt with
  | some tt => deadlineNs p tt - tileWorst c p t
  | none => 0

/-- The deadline of a tile row that the tiles now in synthesis set (R155): the earliest S_t among those whose bands need
it. -/
def rowDeadline (c : Chip) (i : Nat) (item : Bool) (f : Nat) (r : Nat × Nat) : Option Nat :=
  let times := c.ports.flatMap (fun p =>
    if p.tt.isSome && p.feed = some (i, item, some f) then
      (p.tiles.filter (fun t => ((bandNeeds c p t.band).getD []).contains r)).map (tileStartBy c p)
    else [])
  if times = [] then none else some (minOf times)
/-- The earliest deadline that a tile row of a frame has been assigned. -/
def rowDue (c : Chip) (i : Nat) (item : Bool) (f : Nat) (r : Nat × Nat) : Option Nat :=
  let set := match sceneFrame? (chan c i item) f with
    | some x => (x.due.filter (fun d => (d.1, d.2.1) = r)).map (·.2.2)
    | none => []
  let times := (rowDeadline c i item f r).toList ++ set
  if times = [] then none else some (minOf times)
/-- The deadlines that the tiles of a port set are kept with the scene frame they read, while it is being decoded (R155). -/
def keepDeadlines (c : Chip) (p : Nat) : Chip :=
  let x := port c p
  match x.feed with
  | some (i, item, some f) =>
    if (sceneFrame? (chan c i item) f).isNone then c
    else
      let set := x.tiles.flatMap (fun t => ((bandNeeds c x t.band).getD []).map (fun r => (r.1, r.2, tileStartBy c x t)))
      updChannel c i item (fun ch => { ch with frames := ch.frames.map (fun y => if y.num = f then { y with due := set ++ y.due } else y) })
  | _ => c

end Sys2Proof.Machine
end

