-- ==== Sys2Proof/Machine/Streams.lean ====
section
/-!
DEFINITION. What the decoders do with a stream: frames and chains (R146, R147), tile-row assembly (R129), code tables
(R143, R144), authentication (R112 to R114), decoding and concealment (R107, R148, R150), readiness and anchoring (R149,
R156), and the decoders' work (R152 to R155).
-/

namespace Sys2Proof.Machine

def stOwner (c : Chip) (i : Nat) : Nat := (stream c i).owner

/-! ## Events of a stream -/

/-- A decoding error (R150, R151). -/
def dcError (c : Chip) (i code cause pos plane row f : Nat) : Chip :=
  let c := updStream c i (fun s => { s with dcErrors := w32 (s.dcErrors + 1) })
  let data := [w (i + plane * 256 + row * 65536), w f, 1, w (cause + min pos 0xFFFFFF * 256)]
  if code = 0x2007 then raiseOwn c (stOwner c i) code data
  else raiseLimitedOwn c (stOwner c i) code i ms10 1 2 data

/-- DST_LOSS, at most once per 10 ms per stream (R107). -/
def reportLoss (c : Chip) (i : Nat) : Chip :=
  let s := stream c i
  let due := match s.lossNs with
    | none => true
    | some t => t + ms10 ≤ nowNs c
  if s.lossPackets + s.lossRows = 0 || !due then c
  else
    raiseOwn (updStream c i (fun s => { s with lossPackets := 0, lossRows := 0, lossNs := some (nowNs c) })) s.owner 0x1013
      [w i, w s.lossPackets, w s.lossRows]

def loseRows (c : Chip) (i n : Nat) : Chip := updStream c i (fun s => { s with lossRows := s.lossRows + n })

/-- Count a discarded packet on a port (R115). -/
def countDrop (c : Chip) (ep reason : Nat) : Chip :=
  updEth c ep (fun e =>
    let l := if e.drops = [] then List.replicate 8 0 else e.drops
    { e with drops := upd l reason (fun n => min (n + 1) 0xFFFFFFFF) })

/-! ## Paths and anchor requests (R105, R109) -/

def pathOf (s : Stream) (ep : Nat) : PathState := if ep = 0 then s.path0 else s.path1
def updPath (c : Chip) (i ep : Nat) (f : PathState → PathState) : Chip :=
  updStream c i (fun s => if ep = 0 then { s with path0 := f s.path0 } else { s with path1 := f s.path1 })
/-- A path is in service for a stream (R105). -/
def pathServes (c : Chip) (s : Stream) (ep : Nat) : Bool :=
  (eth c ep).link && !(eth c ep).isolated && s.paths.getLsbD ep && (pathOf s ep).heard && !(pathOf s ep).silent &&
  nowNs c < (pathOf s ep).lastNs + ms10
def pathsInService (c : Chip) (s : Stream) : List Nat := (List.range 2).filter (pathServes c s)

/-- The bytes of an anchor request (R109, Table 4-4). -/
def anchorPacket (c : Chip) (s : Stream) : List Byte :=
  let h := beBytes (1 * 2 ^ 28 + 4 * 2 ^ 24 + 16) 4 ++ beBytes s.streamId 4 ++ beBytes s.requests 4 ++
    beBytes s.lastFrame 4 ++ beBytes 0 4 ++ beBytes 0xFF000000 4 ++ beBytes 0 4
  h ++ beBytes (crc32c h) 4 ++ beBytes c.shadow.deviceId.toNat 8 ++ beBytes s.reason 4 ++ beBytes s.lastGoodFrame 4

/-- Send an anchor request on each path in service. -/
def requestAnchor (c : Chip) (i : Nat) : Chip :=
  let s := stream c i
  let paths := pathsInService c s
  match s.srcPeer with
  | none => c
  | some peer =>
    if paths = [] then c
    else
      let out := paths.map (fun ep => (ep, peer, anchorPacket c s)) ++ c.out.anchors
      let c := { c with out := { c.out with anchors := out } }
      raiseOwn (updStream c i (fun s => { s with requests := w32 (s.requests + 1) })) s.owner 0x1012 [w i, w s.reason]

/-! ## Losing an anchor (R108) -/

/-- The decoders leave a channel's work. -/
def leaveWork (c : Chip) (i : Nat) (item : Bool) : Chip :=
  { c with decs := c.decs.map (fun d => match d.work with
      | some (j, it, _, _, _) => if j = i && it = item then { d with work := none, suspended := false } else d
      | none => d) }

/-- A channel loses its chain. -/
def dropChain (c : Chip) (i : Nat) (item : Bool) : Chip :=
  leaveWork (updChannel c i item (fun ch =>
    { ch with frames := [], skip := none, ctx := { ch.ctx with anchored := false }
              hist := ch.hist.filter (fun a => !ch.frames.any (fun x => x.num = a.frame)) })) i item

/-- A stream becomes unanchored with a REASON of Table 4-4. A stored item only waits for its next station frame. -/
def unanchor (c : Chip) (i : Nat) (item : Bool) (reason : Nat) : Chip :=
  let c := dropChain c i item
  if item then c
  else requestAnchor (updStream c i (fun s => { s with st := .unanchored, reason := reason })) i

/-! ## Frames (R101, R146, R147) -/

/-- A scene frame has begun (R232). -/
def markBegun (c : Chip) (i : Nat) (item : Bool) (f : Nat) : Chip :=
  let newer := match (chan c i item).begun with
    | none => true
    | some g => 0 < seqDiff f g
  if !newer then c
  else
    let c := updChannel c i item (fun ch => { ch with begun := some f })
    { c with ports := c.ports.map (fun p => if p.feed = some (i, item, none) then { p with feed := some (i, item, some f) } else p) }

def updFrame (c : Chip) (i : Nat) (item : Bool) (f : Nat) (g : SceneFrame → SceneFrame) : Chip :=
  updChannel c i item (fun ch => { ch with frames := ch.frames.map (fun x => if x.num = f then g x else x) })

/-- No more bytes of the open tile row can follow; `lost` where a lost packet may have carried some, `sure` where one
has. -/
def closeRow (lost sure : Bool) (x : SceneFrame) : SceneFrame :=
  match x.openRow with
  | none => x
  | some r =>
    { x with openRow := none
             rows := x.rows.map (fun d => if (d.array, d.row) = r then
               { d with closed := true, lost := d.lost || lost, counted := d.counted || sure } else d) }
/-- n counted packets of a frame are lost. -/
def losePackets (n : Nat) (x : SceneFrame) : SceneFrame :=
  { x with lost := x.lost + n, nextFrag := x.nextFrag + n, gap := x.gap + n }
/-- The packets lost since the last data packet are placed: each of the `absent` tile rows that began among them takes at
least one, and what is left may have carried bytes of the open row (R107, log 94). -/
def settleGap (absent : Nat) (x : SceneFrame) : SceneFrame := { closeRow (absent < x.gap) false x with gap := 0 }

/-- A channel takes a frame; the missing ones before it enter as copies (R146). -/
def acceptFrame (c : Chip) (i : Nat) (item : Bool) (p : Packet) (missing : List Nat) : Chip :=
  updChannel c i item (fun ch =>
    let station := p.station || p.typ = 3
    let copies : List SceneFrame := missing.map (fun n => { num := n, copy := true, closed := true, stationRef := ch.ctx.chainStation })
    { ch with frames := ch.frames ++ copies ++ [{ num := p.frame, station := station, stationRef := p.stationRef, slots := ch.ctx.slots }]
              ctx := { ch.ctx with lastFrame := some p.frame
                                   chainStation := if ch.ctx.anchored && station then p.frame else ch.ctx.chainStation } })
/-- Its packets are discarded. -/
def skipFrame (c : Chip) (i : Nat) (item : Bool) (f : Nat) : Chip :=
  let c := updChannel c i item (fun ch => { ch with skip := some f })
  updStream c i (fun s => { s with discards := s.discards + 1 })

/-! ## Code tables (R143, R144) -/

/-- A table packet of frame f on a channel. -/
def tableTaken (c : Chip) (i : Nat) (item : Bool) (p : Packet) : Chip :=
  let b := p.payload
  let r := tablePacket b
  let slotByte := (b.headD 0).toNat
  let c := if r.isSome then c else dcError c i 0x2004 0 0 (p.plane % 256) p.row p.frame
  let c := updChannel c i item (fun ch =>
    let x := ch.ctx
    let ctx := match r with
      | some (slot, gen, ls) =>
        let slots := if gen = w32 (x.lastGen + 1) then x.slots else x.slots.map (fun t => { t with doubt := true })
        { x with lastGen := gen
                 slots := upd slots slot (fun _ => { valid := true, gen := gen, firstFrame := p.frame, lens := ls }) }
      | none => if b ≠ [] && slotByte ≤ 3 then { x with slots := upd x.slots slotByte (fun _ => {}) } else x
    { ch with ctx := ctx })
  updFrame c i item p.frame (fun x => { x with slots := (chan c i item).ctx.slots })

/-- At the first data of a station frame, TABLE_GEN of its marker is compared (R144). -/
def checkTableGen (c : Chip) (i : Nat) (item : Bool) (x : SceneFrame) : Chip :=
  let c := updFrame c i item x.num (fun y => { y with dataSeen := true })
  match x.station, x.marker with
  | true, some m =>
    if m.tableGen = (chan c i item).ctx.lastGen then c
    else
      let doubt := fun (t : DynSlot) => if t.valid && t.firstFrame = x.num then t else { t with doubt := true }
      let c := updChannel c i item (fun ch => { ch with ctx := { ch.ctx with slots := ch.ctx.slots.map doubt } })
      updFrame c i item x.num (fun y => { y with slots := y.slots.map doubt })
  | _, _ => c

/-! ## Authentication (R112 to R114) -/

/-- A frame is taken out of a channel with its arrays. -/
def discardFrame (c : Chip) (i : Nat) (item : Bool) (f : Nat) : Chip :=
  updChannel c i item (fun ch => { ch with frames := ch.frames.filter (fun x => x.num ≠ f)
                                           hist := ch.hist.filter (fun a => a.frame ≠ f) })
/-- A frame, live or stored, fails authentication, with its cause in the order of R114: the stream becomes unanchored. -/
def authFail (c : Chip) (i : Nat) (item : Bool) (f cause : Nat) : Chip :=
  let c := raiseOwn (discardFrame c i item f) (stOwner c i) 0x1014 [w i, w f, w cause]
  let c := unanchor (if item then dropChain c i true else c) i false 3
  updChannel c i item (fun ch => { ch with skip := some f })
/-- R114: the time after a complete frame within which its trailer arrives, ns. -/
def trailerWindow (s : Stream) : Nat := s.mergeWindow * 20000 + 1000000

/-- Causes that the counted packets themselves show: AUTH 0, a lost packet. -/
def authCheck (c : Chip) (i : Nat) (item : Bool) (p : Packet) : Chip :=
  if !(stream c i).authRequired then c
  else
    match sceneFrame? (chan c i item) p.frame with
    | none => c
    | some x =>
      if p.typ < 3 && !p.auth then authFail c i item p.frame 1
      else if x.closed && x.lost ≠ 0 && !x.verified then authFail c i item p.frame 4
      else c

/-- An authentication trailer. -/
def trailerTaken (c : Chip) (i : Nat) (item : Bool) (p : Packet) : Chip :=
  let s := stream c i
  match s.authRequired, sceneFrame? (chan c i item) p.frame with
  | true, some x =>
    let slot := (p.payload.headD 0).toNat
    let next := (s.activeKey + 1) % 8
    let key := look c.cci.dstKeys slot []
    if x.verified || p.payload.length < 20 || (slot ≠ s.activeKey && (slot ≠ next || key = [])) then c
    else if x.closed && x.closedNs + trailerWindow s < nowNs c then authFail c i item p.frame 2
    else if key = [] then authFail c i item p.frame 5
    else if !x.closed || x.lost ≠ 0 then authFail c i item p.frame 4
    else if (hmac key x.tagBytes).take 16 ≠ slice p.payload 4 16 then authFail c i item p.frame 3
    else
      let c := updFrame c i item p.frame (fun y => { y with verified := true })
      let c := updChannel c i item (fun ch => { ch with hist := ch.hist.map (fun a => if a.frame = p.frame then { a with held := false } else a) })
      if slot = s.activeKey then c
      else raiseOwn (updStream c i (fun s => { s with activeKey := slot })) s.owner 0x1015 [w i, w slot]
  | _, _ => c

/-! ## Tile-row assembly (R129, R107) -/

/-- Tile rows of array n below a bound of which no packet has come, in a frame that has lost packets: their first packets
are lost (R107). -/
def absentRows (x : SceneFrame) (n bound : Nat) : List (Nat × Nat) :=
  if x.lost = 0 then []
  else ((List.range bound).filter (fun y => !x.rows.any (fun d => d.array = n && d.row = y))).map (fun y => (n, y))
/-- Those tile rows are concealed, and the packets lost since the last data packet are placed. -/
def loseAbsent (c : Chip) (i : Nat) (item : Bool) (f : Nat) (gone : List (Nat × Nat)) : Chip :=
  let l : List RowData := gone.map (fun r => { array := r.1, row := r.2, lost := true, closed := true, counted := true })
  loseRows (updFrame c i item f (fun x => { settleGap gone.length x with rows := (settleGap gone.length x).rows ++ l })) i gone.length
/-- The tile rows absent from every array of a frame of which no more packets come. -/
def absentRest (ch : Channel) (x : SceneFrame) : List (Nat × Nat) :=
  (List.range (arrayCount ch x.num)).flatMap (fun n => match shapeFor ch x.num n with
    | some a => absentRows x n a.rows.length
    | none => [])
/-- Every counted packet of a frame has arrived or is lost. -/
def closeFrame (c : Chip) (i : Nat) (item : Bool) (f : Nat) : Chip :=
  match sceneFrame? (chan c i item) f with
  | none => c
  | some x =>
    if x.closed then c
    else
      let now := nowNs c
      let c := updFrame c i item f (fun x => { losePackets (x.fragCount - x.nextFrag) x with closed := true, closedNs := now })
      let ch := chan c i item
      loseAbsent c i item f (absentRest ch ((sceneFrame? ch f).getD {}))
/-- A frame whose counted packets are all in or lost is closed (R101). -/
def closeWhole (c : Chip) (i : Nat) (item : Bool) (f : Nat) : Chip :=
  match sceneFrame? (chan c i item) f with
  | some x => if x.fragCount ≠ 0 && x.fragCount ≤ x.nextFrag then closeFrame c i item f else c
  | none => c

/-- The frames before a new one close: what is missing of them is lost. -/
def endFrames (c : Chip) (i : Nat) (item : Bool) : Chip :=
  let l := ((chan c i item).frames.filter (fun x => !x.closed)).map (·.num)
  l.foldl (fun c f => closeFrame c i item f) c
/-- The frame of a packet, taken as R146 and R147 state; false where its packets are discarded. -/
def enterScene (c : Chip) (i : Nat) (item : Bool) (p : Packet) : Chip × Bool :=
  let ch := chan c i item
  if ch.skip = some p.frame then (c, false)
  else if ch.frames.any (fun x => x.num = p.frame) then (c, true)
  else
    let c := endFrames (updChannel c i item (fun ch => { ch with skip := none })) i item
    let station := p.station || p.typ = 3
    match ch.ctx.lastFrame, ch.ctx.anchored with
    | some g, true =>
      let d := seqDiff p.frame g
      let gap := fun c => dcError c i 0x2006 0 0 (p.plane % 256) p.row p.frame
      if d ≤ 0 then (skipFrame (gap c) i item p.frame, false)
      else if station then (acceptFrame c i item p [], true)
      else
        let strange := p.stationRef ≠ ch.ctx.chainStation
        let c := if d = 1 then c else gap c
        if 4 < d || strange then
          let c := if strange then dcError c i 0x2007 0 0 (p.plane % 256) p.row p.frame else c
          (skipFrame (unanchor c i item 2) i item p.frame, false)
        else
          let missing := (List.range (d.toNat - 1)).map (fun k => w32 (g + 1 + k))
          (acceptFrame c i item p missing, true)
    | _, _ => if station then (acceptFrame c i item p [], true) else (skipFrame c i item p.frame, false)

/-- The bytes of a data packet join their tile row. -/
def addData (c : Chip) (i : Nat) (item : Bool) (x : SceneFrame) (p : Packet) : Chip :=
  let r := (p.plane, p.row)
  let known := x.rows.any (fun d => (d.array, d.row) = r)
  if p.cont then
    if x.openRow = some r then
      if x.gap = 0 then
        updFrame c i item x.num (fun x => { x with rows := x.rows.map (fun d =>
          if (d.array, d.row) = r then { d with bytes := d.bytes ++ p.payload, parts := d.parts ++ [(p.seq, p.payload.length)] } else d) })
      else loseRows (updFrame c i item x.num (fun x => { closeRow true true x with gap := 0 })) i 1
    else if known then c
    else loseAbsent c i item x.num (absentRows x p.plane (p.row + 1))
  else if x.rows.any (fun d => d.array = p.plane && p.row ≤ d.row) then
    updFrame (dcError c i 0x2006 0 0 p.plane p.row p.frame) i item x.num (settleGap 0)
  else
    updFrame (loseAbsent c i item x.num (absentRows x p.plane p.row)) i item x.num (fun x =>
      { x with openRow := some r, rows := x.rows ++ [{ array := p.plane, row := p.row, bytes := p.payload, parts := [(p.seq, p.payload.length)] }] })

/-- A counted packet of a frame that is taken. -/
def countedTaken (c : Chip) (i : Nat) (item : Bool) (p : Packet) : Chip :=
  match sceneFrame? (chan c i item) p.frame with
  | none => c
  | some x =>
    let tag := if (stream c i).authRequired then p.hdr ++ p.payload else []
    let c := updFrame c i item p.frame (fun x =>
      { losePackets (p.fragIdx - x.nextFrag) x with
        nextFrag := p.fragIdx + 1, fragCount := p.fragCount, tagBytes := x.tagBytes ++ tag })
    let c := if p.typ = 2 then tableTaken c i item p
      else
        let c := if x.dataSeen then c else checkTableGen c i item x
        addData c i item ((sceneFrame? (chan c i item) p.frame).getD {}) p
    authCheck (closeWhole c i item p.frame) i item p

/-- A lost PKT_SEQ reaches the decoders (R107): it belongs to the frame that is not yet complete. -/
def lostPacket (c : Chip) (i : Nat) : Chip :=
  let c := updStream c i (fun s => { s with packetsLost := w32 (s.packetsLost + 1), lossPackets := s.lossPackets + 1 })
  match (stream c i).live.frames.getLast? with
  | none => c
  | some x =>
    if x.closed then c
    else
      authCheck (closeWhole (updFrame c i false x.num (losePackets 1)) i false x.num) i false { typ := 3, frame := x.num }

/-- A station marker of a frame that is taken (Table 4-3). -/
def markerTaken (c : Chip) (i : Nat) (item : Bool) (p : Packet) : Chip :=
  if p.payload.length < 12 then c
  else
    let m : Marker := { frameBytes := be32 p.payload 0, fragCount := be16 p.payload 4, planes := (nth p.payload 6).toNat
                        mode := (nth p.payload 7).toNat, tableGen := be32 p.payload 8 }
    closeWhole (updFrame c i item p.frame (fun x => { x with marker := some m, fragCount := max x.fragCount m.fragCount })) i item p.frame

/-- A scheduled item plays: the live stream is only followed (R122). -/
def itemPlays (s : Stream) : Bool := match s.playing with
  | some x => x.job ≠ 0
  | none => false

/-- A packet of a stream, live or stored, is handed to the decoders. While an item plays, live frames already begun go on
to the stream's frame boundary (R158); of later ones only the tables are taken. -/
def handPacket (c : Chip) (i : Nat) (item : Bool) (p : Packet) : Chip :=
  if !item && itemPlays (stream c i) && (sceneFrame? (chan c i false) p.frame).isNone then
    let c := endFrames c i false
    if p.typ = 2 then tableTaken c i false p else c
  else if p.typ = 5 then trailerTaken c i item p
  else if p.typ ≠ 3 && !p.station && !(chan c i item).ctx.anchored then (if item then c else countDrop c p.ep 6)
  else
    let r := enterScene c i item p
    if !r.2 then r.1
    else if p.typ = 3 then markerTaken r.1 i item p
    else countedTaken r.1 i item p

/-- The ring hands over packets in PKT_SEQ order up to the first open hole (R106). -/
def release : Nat → Chip → Nat → Chip
  | 0, c, _ => c
  | k + 1, c, i =>
    let s := stream c i
    match s.nextOut, s.high with
    | some n, some h =>
      if 0 < seqDiff n h || s.holes.any (fun x => x.1 = n) then c
      else
        let c := updStream c i (fun s => { s with nextOut := some (w32 (n + 1)), ring := s.ring.filter (fun p => p.seq ≠ n) })
        release k (match s.ring.find? (fun p => p.seq = n) with
          | some p => handPacket c i false p
          | none => lostPacket c i) i
    | _, _ => c

/-! ## Readiness and anchoring (R108, R149, R156) -/

/-- Arrays of a frame: as its header says, or as its packets have shown. -/
def arraysSeen (ch : Channel) (x : SceneFrame) : Nat := maxOf (arrayCount ch x.num :: x.rows.map (fun d => d.array + 1))

/-- Every tile row of a frame is decoded or concealed. Where neither header nor marker says how many arrays the frame has, they
are those that its packets have shown. -/
def frameDone (ch : Channel) (x : SceneFrame) : Bool :=
  x.closed && (List.range (arraysSeen ch x)).all (fun a =>
    match ch.hist.find? (fun y => y.frame = x.num && y.array = a) with
    | some y => y.rows.all (· ≠ [])
    | none => false)

/-- The stream anchors on a station frame. -/
def anchorOn (c : Chip) (i : Nat) (item : Bool) (f : Nat) : Chip :=
  let c := updChannel c i item (fun ch => { ch with
    lastReady := some f
    ctx := { ch.ctx with anchored := true, chainStation := ch.ctx.lastFrame.getD f, doneFrame := f } })
  if item then c
  else
    raiseOwn (updStream c i (fun s => { s with st := .anchored, afterItem := false, lastGoodFrame := f })) (stOwner c i) 0x1011
      [w i, w f]

/-- A frame has become ready (R149). -/
def readyFrame (c : Chip) (i : Nat) (item : Bool) (x : SceneFrame) : Chip :=
  if !(chan c i item).ctx.anchored then anchorOn c i item x.num
  else
    let c := updChannel c i item (fun ch => { ch with lastReady := some x.num, ctx := { ch.ctx with doneFrame := x.num } })
    if item || x.errors then c else updStream c i (fun s => { s with lastGoodFrame := x.num })

/-- A frame whose tile rows are all done, and which is authenticated where it must be, becomes ready or is discarded. A
station frame takes its room in the history reserve then (R156). -/
def frameReady (c : Chip) (i : Nat) (item : Bool) (x : SceneFrame) : Chip :=
  let ch := chan c i item
  let clean := !x.errors && !x.concealed && x.hdr ≠ []
  let c := updChannel c i item (fun ch => { ch with frames := ch.frames.filter (fun y => y.num ≠ x.num) })
  let keeps := fun (c : Chip) => if x.hdr = [] then c else updChannel c i item (fun ch => { ch with ctx := { ch.ctx with frameHdr := x.hdr } })
  if !ch.ctx.anchored && !(x.station && clean && (item || (stream c i).st = .unanchored)) then discardFrame c i item x.num
  else if !x.station then readyFrame c i item x
  else if arraysOf ch x.num = [] then readyFrame c i item x
  else match takeReserve c i (historyBytes (arraysOf ch x.num)) with
    | none => unanchor (discardFrame (dcError c i 0x2001 5 0 0 0 x.num) i item x.num) i item 2
    | some c => readyFrame (writeHistory (keeps c) i item (arraysOf ch x.num)) i item x

/-- A missing frame enters history as a copy of the frame before it (R146). -/
def enterCopy (c : Chip) (i : Nat) (item : Bool) (x : SceneFrame) : Chip :=
  let ch := chan c i item
  let before := ((List.range 32).filterMap (previousArray ch x.num)).map (·.frame)
  let copies := (arraysOf ch (before.headD x.num)).map (fun a => { a with frame := x.num, restored := false })
  let c := updChannel c i item (fun ch =>
    { ch with hist := copies ++ ch.hist, frames := ch.frames.filter (fun y => y.num ≠ x.num), lastReady := some x.num })
  writeHistory c i item copies

/-- Frames become ready in their order. -/
def finishFrames : Nat → Chip → Nat → Bool → Chip
  | 0, c, _, _ => c
  | k + 1, c, i, item =>
    let ch := chan c i item
    match ch.frames with
    | [] => c
    | x :: _ =>
      if x.copy then finishFrames k (enterCopy c i item x) i item
      else if frameDone ch x && (x.verified || !(stream c i).authRequired) then
        finishFrames k (frameReady c i item x) i item
      else c

/-! ## Decoding a tile row -/

/-- R131: the header of array a of a frame keeps the rules. -/
def headerKept (c : Chip) (i : Nat) (ch : Channel) (x : SceneFrame) (a : Nat) (hdr : List Nat)
    (ph : Nat × Nat × Int × Int × Int × Nat) : Bool :=
  (match panelOf c i with
    | some pd => nth hdr 3 = pd.w && nth hdr 4 = pd.h && nth hdr 5 = pd.dirs
    | none => false) &&
  (match x.marker with
    | some m => nth hdr 0 = m.mode && nth hdr 1 = m.planes
    | none => true) &&
  (x.hdr = [] || x.hdr = hdr) && a < nth hdr 1 &&
  (x.station || ((chainHdr ch x = [] || chainHdr ch x = hdr) &&
    match ch.hist.find? (fun y => y.array = a && y.frame ≠ x.num) with
    | some y => y.ray || (y.w, y.h, y.z, y.orgX, y.orgY, y.pitch) = ph
    | none => true))

/-- An array with no tile row decoded yet. -/
def newArray (x : SceneFrame) (a : Nat) (held : Bool) (hdr : List Nat) (ph : Nat × Nat × Int × Int × Int × Nat) : HistArray :=
  let ray := nth hdr 0 = 1
  let wd := if ray then nth hdr 3 * nth hdr 5 else ph.1
  let ht := if ray then nth hdr 4 else ph.2.1
  { frame := x.num, array := a, ray := ray, w := wd, h := ht, z := ph.2.2.1, orgX := ph.2.2.2.1, orgY := ph.2.2.2.2.1,
    pitch := ph.2.2.2.2.2, depth := nth hdr 2, held := held, rows := List.replicate (cdiv ht (tileRows ray)) [] }

/-- The array that a tile row belongs to where its own header cannot be used: the shape of the frame before it. -/
def inheritedArray (ch : Channel) (x : SceneFrame) (a : Nat) (held : Bool) : HistArray :=
  match ch.hist.find? (fun y => y.array = a) with
  | some y => { y with frame := x.num, held := held, restored := false, rows := y.rows.map (fun _ => []) }
  | none => { frame := x.num, array := a, held := held }

/-- Rows of elements in tile row y. -/
def rowsIn (a : HistArray) (y : Nat) : Nat := if a.ray then 1 else min 8 (a.h - 8 * y)
/-- The concealed content of tile row y (R107, R148), with arrays as the decoders see them. -/
def concealedRow (see : HistArray → HistArray) (ch : Channel) (a : HistArray) (y : Nat) : List (List Nat) :=
  match previousArray ch a.frame a.array with
  | some b => if b.w = a.w && b.h = a.h && nth b.rows y ≠ [] then nth (see b).rows y
    else List.replicate (a.w * rowsIn a y) [0, 0, 0, 0]
  | none => List.replicate (a.w * rowsIn a y) [0, 0, 0, 0]

/-- What decoding a tile row came to: its elements, an error, concealment for loss, or a suspension. -/
inductive RowEnd where
  | elements (l : List (List Nat))
  | error (e : DcError)
  | lost
  | starved (s : RowState) (full : Bool)
deriving DecidableEq, Repr, Inhabited

/-- A tile row's data end early (R145, R150): it waits for more, is concealed for loss, or is in error. -/
def dataEnds (d : RowData) (s : RowState) (bits : Nat) : RowEnd :=
  if !d.closed then .starved s false else if d.lost then .lost else .error { code := 0x2003, pos := bits }

/-- The array that REF k + 1 names: that of the frame k + 1 before it. -/
def refArray (ch : Channel) (x : SceneFrame) (n k : Nat) : Option HistArray :=
  ch.hist.find? (fun h => h.array = n && h.frame = w32 (x.num + 2 ^ 32 - (k + 1)))
/-- Decode the tile row of an array from its bytes after any frame and plane header, up to the element at which the output
buffer is full. -/
def decodeBytes (see : HistArray → HistArray) (ch : Channel) (x : SceneFrame) (a : HistArray) (y : Nat) (d : RowData) (b : List Byte) (limit : Option Nat) : RowEnd :=
  let from_ := (d.saved.getD {}).position
  let job : RowJob :=
    { ray := a.ray, depth := a.depth, width := a.w, height := a.h, y0 := y * tileRows a.ray, rows := rowsIn a y, frame := x.num,
      stationRef := x.stationRef, station := x.station, cur := a, limit := limit.map (max from_),
      slots := ((List.range 4).filter (fun k => (nth x.slots k).valid && !(nth x.slots k).doubt)).map (fun k => (k, (nth x.slots k).lens)),
      refs := (List.range 3).map (fun k => (refArray ch x a.array k).map see) }
  if y ≥ a.rows.length then .error { code := 0x2001, cause := 2 }
  else
    match decodeTileRow job b with
    | .ok l => .elements (l.map (fun e => e.map (laneOf a.depth)))
    | .error (.error e) => .error e
    | .error (.starved s) => if s.unread ≠ [] && job.limit = some s.position then .starved s true else dataEnds d s (8 * b.length)

/-- Decode tile row y of array n of a frame: the array it belongs to and how it ended. -/
def decodeRow (c : Chip) (i : Nat) (ch : Channel) (x : SceneFrame) (n y : Nat) (limit : Option Nat) : HistArray × List Nat × RowEnd :=
  let held := (stream c i).authRequired && !x.verified
  let own := ch.hist.find? (fun a => a.frame = x.num && a.array = n)
  let a := own.getD (inheritedArray ch x n held)
  match x.rows.find? (fun d => d.array = n && d.row = y) with
  | none => (a, x.hdr, if x.lost = 0 then .error { code := 0x2006 } else .lost)
  | some d =>
    if d.counted then (a, x.hdr, .lost)
    else if y ≠ 0 then (a, x.hdr, decodeBytes (seenArray c (stream c i) ch) ch x a y d d.bytes limit)
    else if d.bytes.length < 32 then (a, x.hdr, dataEnds d {} 0)
    else
      let bad : RowEnd := .error { code := 0x2001, cause := 2 }
      match frameHeader d.bytes with
      | none => (a, x.hdr, bad)
      | some hdr =>
        match planeHeader (nth hdr 0 = 1) n d.bytes with
        | none => (a, x.hdr, bad)
        | some ph =>
          if !headerKept c i ch x n hdr ph then (a, x.hdr, bad)
          else
            let a := own.getD (newArray x n held hdr ph)
            (a, hdr, decodeBytes (seenArray c (stream c i) ch) ch x a y d (d.bytes.drop 32) limit)

/-- Four buffers per array: a frame and the three before it (R126), for each frame in decoding. -/
def pruneHist (frames : List SceneFrame) (l : List HistArray) (n : Nat) : List HistArray :=
  let own := l.filter (fun a => a.array = n)
  let keep := (own.take (3 + max 1 (own.countP (fun a => frames.any (fun x => x.num = a.frame))))).map (·.frame)
  l.filter (fun a => a.array ≠ n || keep.contains a.frame)

/-- A tile row enters history. -/
def enterRow (c : Chip) (i : Nat) (item : Bool) (f : Nat) (a : HistArray) (y : Nat) (elems : List (List Nat)) (hdr : List Nat)
    (concealed error : Bool) : Chip :=
  let c := updChannel c i item (fun ch =>
    let own := fun (b : HistArray) => b.frame = f && b.array = a.array
    let a := { a with rows := upd a.rows y (fun _ => elems) }
    { ch with hist := if ch.hist.any own then ch.hist.map (fun b => if own b then a else b)
                else pruneHist ch.frames (a :: ch.hist) a.array })
  let station := ((sceneFrame? (chan c i item) f).getD {}).station
  let c := if station then c else writeTileRow c i item { a with rows := upd a.rows y (fun _ => elems) } y
  updFrame c i item f (fun x =>
    { x with hdr := hdr, concealed := x.concealed || concealed, errors := x.errors || error
             rows := x.rows.map (fun d => if d.array = a.array && d.row = y then
               { d with bytes := [], closed := true, saved := none, outputFull := false } else d) })

/-- DC_OUTPUT_LATE, once per frame and stream (R155). -/
def reportLate (c : Chip) (i : Nat) (item : Bool) (f n y : Nat) (due : Option Nat) : Chip :=
  match due, sceneFrame? (chan c i item) f with
  | some t, some x =>
    if x.late || nowNs c ≤ t then c
    else
      raiseOwn (updFrame c i item f (fun x => { x with late := true })) (stOwner c i) 0x2010
        [w i, w f, w n, w y, w (nowNs c - t)]
  | _, _ => c

/-! ## The decoders' work (R152, R154) -/

/-- Bits of a tile row wait that its last suspension had not seen, or its loss is known. -/
def rowWaits (x : SceneFrame) (n y : Nat) : Bool :=
  match x.rows.find? (fun d => d.array = n && d.row = y) with
  | some d => d.closed || d.outputFull || d.tried < d.bytes.length || d.saved.isNone && d.bytes ≠ []
  | none => x.closed || x.rows.any (fun d => d.array = n && y < d.row)
/-- Its decoding has been suspended. -/
def rowSuspended (x : SceneFrame) (n y : Nat) : Bool :=
  match x.rows.find? (fun d => d.array = n && d.row = y) with
  | some d => d.saved.isSome
  | none => false

/-- Tile rows of an array still to be decoded: the next in plane mode, any in ray mode. -/
def rowsToDo (ch : Channel) (x : SceneFrame) (n : Nat) : List Nat :=
  match ch.hist.find? (fun a => a.frame = x.num && a.array = n) with
  | some a =>
    let l := (List.range a.rows.length).filter (fun y => nth a.rows y = [])
    if a.ray then l else l.take 1
  | none => [0]
/-- The frames before one have what its decoding needs (R152). -/
def earlierDone (ch : Channel) (x : SceneFrame) (n y : Nat) : Bool :=
  (ch.frames.takeWhile (fun g => g.num ≠ x.num)).all (fun g => match ch.hist.find? (fun a => a.frame = g.num && a.array = n) with
    | some a => if a.ray then (a.rows.take (y + 513)).all (· ≠ []) else a.rows.all (· ≠ [])
    | none => !g.copy && arrayCount ch g.num ≤ n && arrayCount ch g.num ≠ 0)

/-- A piece of work: stream, stored or live, frame, array, tile row. -/
abbrev Piece := Nat × Bool × Nat × Nat × Nat
/-- Pieces of a channel that a decoder may take. -/
def piecesOf (c : Chip) (i : Nat) (item suspended : Bool) : List Piece :=
  let ch := chan c i item
  ch.frames.flatMap (fun x => if x.copy then [] else
    (List.range (arraysSeen ch x)).flatMap (fun n =>
      ((rowsToDo ch x n).filter (fun y => rowWaits x n y && rowSuspended x n y = suspended && earlierDone ch x n y &&
        !c.decs.any (fun d => match d.work with
          | some (j, it, f, m, r) => j = i && it = item && f = x.num && m = n && (!isRay ch x.num || r = y)
          | none => false))).map (fun y => (i, item, x.num, n, y))))
/-- Earliest deadline first, then the lower stream, then the lower array. -/
def pieceFirst (c : Chip) (a b : Piece) : Bool :=
  let t := fun (p : Piece) => (rowDue c p.1 p.2.1 p.2.2.1 (p.2.2.2.1, p.2.2.2.2)).getD (2 ^ 100)
  t a < t b || (t a = t b && (a.1 < b.1 || (a.1 = b.1 && a.2.2.2.1 < b.2.2.2.1)))
/-- The next piece of work. -/
def nextPiece (c : Chip) (suspended : Bool) : Option Piece :=
  ((List.range 16).flatMap (fun i => piecesOf c i false suspended ++ piecesOf c i true suspended)).foldl
    (fun best p => match best with
      | none => some p
      | some b => if pieceFirst c p b then some p else some b) none
/-- A free decoder takes work. -/
def takeWork (c : Chip) (suspended : Bool) (dd : Nat) : Chip :=
  let d := nth c.decs dd
  if d.work.isSome || d.isolated then c
  else match nextPiece c suspended with
    | none => c
    | some p => updDec c dd (fun d => { d with work := some p, suspended := false })
def dispatchDecoders (c : Chip) : Chip := (List.range 8).foldl (fun c dd => takeWork c false dd) c

/-- In plane mode a decoder goes on with the next tile row of the array in its hand, where bits of it wait (R152, R154). -/
def nextRow (c : Chip) (dd i : Nat) (item : Bool) (f n : Nat) : Chip :=
  let ch := chan c i item
  match sceneFrame? ch f with
  | none => c
  | some x =>
    if isRay ch f then c
    else match rowsToDo ch x n with
      | y :: _ => if rowWaits x n y then updDec c dd (fun d => { d with work := some (i, item, f, n, y) }) else c
      | [] => c

/-- The words of history within reach of a tile row: its references', and the row that concealment copies; poisoned ones count
(R329). -/
def countRefs (c : Chip) (i : Nat) (item : Bool) (x : SceneFrame) (a : HistArray) (y : Nat) (hidden : Bool) : Chip :=
  let ch := chan c i item
  if c.poison = [] && c.crcBad = [] && (List.range 16).all (mcOk c) then c
  else if hidden then
    match previousArray ch a.frame a.array with
    | some b => countReads c (historyWords c (stream c i) ch b y) true
    | none => c
  else if x.station then c
  else (List.range 3).foldl (fun c k => match refArray ch x a.array k with
    | some b => countReads c (historyWords c (stream c i) ch b y) true
    | none => c) c
/-- A decoder finishes the tile row in its hand, or suspends it where its bits are missing or where its output buffer is
full, at element `outputFull` (R154). -/
def rowDone (c : Chip) (dd : Nat) (outputFull : Option Nat) : Chip :=
  if (nth c.decs dd).isolated then c else
  match (nth c.decs dd).work with
  | none => c
  | some (i, item, f, n, y) =>
    let ch := chan c i item
    let c := updDec c dd (fun d => { d with work := none })
    match sceneFrame? ch f with
    | none => c
    | some x =>
      let due := rowDue c i item f (n, y)
      let r := decodeRow c i ch x n y outputFull
      let a := r.1
      let see := seenArray c (stream c i) ch
      let enter := fun (c : Chip) (l : List (List Nat)) (hidden bad : Bool) =>
        let c := enterRow (countRefs c i item x a y hidden) i item f a y l r.2.1 hidden bad
        let c := count (count c (108 + dd) 0x0501 l.length) (108 + dd) 0x0502 1
        let c := nextRow (reportLate c i item f n y due) dd i item f n
        finishFrames 64 c i item
      match r.2.2 with
      | .starved s full =>
        let c := updFrame c i item f (fun x => { x with rows := x.rows.map (fun d =>
          if d.array = n && d.row = y then { d with tried := d.bytes.length, saved := some s, outputFull := full } else d) })
        count (updDec c dd (fun d => { d with suspended := true })) (108 + dd) (if full then 0x0503 else 0x0504) 1
      | .elements l => enter c l false false
      | .lost =>
        let counted := x.rows.any (fun d => d.array = n && d.row = y && d.counted)
        enter (if counted then c else loseRows c i 1) (concealedRow see ch a y) true false
      | .error e => enter (dcError c i e.code e.cause e.pos n y f) (concealedRow see ch a y) true true

end Sys2Proof.Machine
end

