-- ==== Sys2Proof/Machine/Tiles.lean ====
section
/-!
DEFINITION. The global scheduler: capacity of blocks and regions, dealing and starting of tiles (R176, R179, R183), the
projection and the degradation ladder (R186 to R192).
-/

namespace Sys2Proof.Machine

def updTile (c : Chip) (p band col : Nat) (f : Tile → Tile) : Chip :=
  updPort c p (fun x => { x with tiles := x.tiles.map (fun t => if t.band = band && t.col = col then f t else t) })

/-! ## Capacity (R183, R184) -/

/-- Active cells of a block: the siding cell takes the place of the first failed cell. -/
def blockCells (b : Block) : Nat := if b.removed then 0 else min 16 (17 - b.failedCells.length)
/-- Cells of a block that may run a tile: the siding cell last. -/
def healthyCells (b : Block) : List Nat :=
  if b.removed then []
  else (((List.range 17).filter (· ≠ b.spare) ++ [b.spare]).filter (fun k => !b.failedCells.contains k)).take 16
def regionCells (c : Chip) (u : Nat) : Nat :=
  if regionServes c u then total ((region c u).blocks.map blockCells) else 0
def blockOf (c : Chip) (u b : Nat) : Block := nth (region c u).blocks b

/-! ## Tiles in hand -/

/-- Tiles of every port with a timetable. -/
def portTiles (c : Chip) : List (Nat × Tile) :=
  (List.range 4).flatMap (fun p => if (port c p).tt.isSome then (port c p).tiles.map (fun t => (p, t)) else [])
def onCell (t : Tile) : Bool := t.st = .running || t.st = .stopping
/-- The cell of a tile is in service: what a part sends whose boundary drains is discarded (R385). -/
def cellServes (c : Chip) (t : Tile) : Bool :=
  regionServes c t.region && !(blockOf c t.region t.block).removed && !(blockOf c t.region t.block).failedCells.contains t.cell
def isHeld (t : Tile) : Bool := t.st = .queued || onCell t
/-- Not yet started (R188, R189). -/
def notStarted (t : Tile) : Bool := t.st = .waiting || t.st = .queued
def tileDeadline (c : Chip) (p : Nat) : Nat := match (port c p).tt with
  | some t => deadlineNs (port c p) t
  | none => 0
/-- Order of deadline, then tile index. -/
def tileFirst (c : Chip) (a b : Nat × Tile) : Bool :=
  tileDeadline c a.1 < tileDeadline c b.1 ||
  (tileDeadline c a.1 = tileDeadline c b.1 && tileIndex a.1 a.2 < tileIndex b.1 b.2)
def inOrder (c : Chip) (l : List (Nat × Tile)) : List (Nat × Tile) := sortBy (tileFirst c) l

def dealtTo (c : Chip) (u : Nat) : Nat := (portTiles c).countP (fun x => isHeld x.2 && x.2.region = u)
def dealtBlock (c : Chip) (u b : Nat) : Nat :=
  (portTiles c).countP (fun x => isHeld x.2 && x.2.region = u && x.2.block = b)
def queuedOn (c : Chip) (u b : Nat) : List (Nat × Tile) :=
  (portTiles c).filter (fun x => x.2.st = .queued && x.2.region = u && x.2.block = b)
def busyCells (c : Chip) (u b : Nat) : List Nat :=
  ((portTiles c).filter (fun x => onCell x.2 && x.2.region = u && x.2.block = b)).map (·.2.cell)

/-! ## Dealing (R176) -/

/-- The entry with the smallest ratio of dealt tiles to cells, the first on a tie: (name, dealt, cells). -/
def leastRatio (l : List (Nat × Nat × Nat)) : Option (Nat × Nat × Nat) :=
  l.foldl (fun best x => match best with
    | none => some x
    | some b => if x.2.1 * b.2.2 < b.2.1 * x.2.2 then some x else some b) none
/-- Blocks of a region whose queue has room. -/
def openBlocks (c : Chip) (u : Nat) : List (Nat × Nat × Nat) :=
  ((List.range 4).filter (fun b => 0 < blockCells (blockOf c u b) && (queuedOn c u b).length < 8)).map
    (fun b => (b, dealtBlock c u b, blockCells (blockOf c u b)))
/-- Regions that may be dealt a tile: those whose ratio is below 2 and that have a queue with room. -/
def openRegions (c : Chip) : List (Nat × Nat × Nat) :=
  (((List.range 16).map (fun u => (u, dealtTo c u, regionCells c u))).filter (fun x =>
    0 < x.2.2 && x.2.1 < 2 * x.2.2 && openBlocks c x.1 ≠ []))

/-- R176: a tile may be released. -/
def releasable (c : Chip) (x : Nat × Tile) : Bool :=
  x.2.st = .waiting && nowNs c ≤ tileStartBy c (port c x.1) x.2 && bandReady c (port c x.1) x.2.band

/-- Deal one tile, if it may be released and a region may take it. -/
def dealTile (c : Chip) (x : Nat × Tile) : Chip :=
  if c.faults.schedStopped.isSome || !releasable c x then c
  else
    match leastRatio (openRegions c) with
    | none => c
    | some r => match leastRatio (openBlocks c r.1) with
      | none => c
      | some b =>
        let c := updTile c x.1 x.2.band x.2.col (fun t => { t with st := .queued, region := r.1, block := b.1 })
        count c (64 + r.1) 0x0203 1

/-! ## Starting (R21, R179, R183) -/

/-- A free cell of a block takes the queued tile with the earliest deadline, and of those with the lowest tile index, as the
arbiter of R21 orders them. DESIGN CHOICE (log 91): a tile that returned to the head of its queue (R22, R183) has no other
place in that order. -/
def startOne (c : Chip) (u b : Nat) : Chip :=
  let free := (healthyCells (blockOf c u b)).filter (fun k => !(busyCells c u b).contains k)
  let ready := (queuedOn c u b).filter (fun x =>
    x.2.notBefore ≤ nowNs c && nowNs c ≤ tileStartBy c (port c x.1) x.2)
  match free, inOrder c ready with
  | k :: _, x :: _ =>
    updTile c x.1 x.2.band x.2.col (fun t =>
      { t with st := .running, cell := k, level := (port c x.1).level, startNs := nowNs c, mapSeen := c.power.mapLoads })
  | _, _ => c
def startBlock (c : Chip) (u b : Nat) : Chip := (List.range 17).foldl (fun c _ => startOne c u b) c
def startAll (c : Chip) : Chip :=
  (List.range 16).foldl (fun c u =>
    if regionServes c u then (List.range 4).foldl (fun c b => startBlock c u b) c else c) c

/-! ## The projection (R187) -/

/-- A, in operations per second. -/
def arithmeticRate (c : Chip) : Nat := total ((List.range 16).map (fun u => regionCells c u * 32 * (region c u).mhz * 880000))

/-- R267: the ratio that frames in synthesis are encoded at. -/
def effRatio2 (p : Port) (t : Timetable) : Bool :=
  t.ratio2 && (p.mode = .normal || p.mode = .restriped || p.mode = .portDown)

/-- Work bytes of a tile (log 20). -/
def tileBytes (c : Chip) (p : Port) (t : Tile) (level : Nat) : Nat :=
  match p.tt, (tablesFor c p).panel with
  | some tt, some pd =>
    let n := tileHogelCount pd tt t
    let tiles := max 1 p.tiles.length
    let planes := match sceneFor c p with
      | some s => if s.ray then [] else admitted level s.planes
      | none => []
    let rays := match sceneFor c p with
      | some s => if s.ray then 8 * n * pd.dirs else 0
      | none => 0
    let layers := total ((layersFor c p).map (fun u => u.defn.srcW * u.defn.srcH * bpp u.defn.format * 5 / 4))
    2 * (cdiv (3 * n * pd.dirs) 64 * blockBytes (effRatio2 p tt)) + 3 * n * pd.dirs +
      (if (tablesFor c p).offsets = [] then 0 else 2 * n) + 10 * total (planes.map (fun a => a.w * a.h)) / tiles +
      layers / tiles + n + rays
  | _, _ => 0

/-- Code bytes of a tile in one track. -/
def tileCode (p : Port) (tt : Timetable) (pd : Panel) (t : Tile) : Nat :=
  let h := tileHogels pd tt t
  (h.2.2.2 + 1 - h.2.2.1) * (cdiv (3 * (h.2.1 + 1 - h.1) * pd.dirs) 64 * blockBytes (effRatio2 p tt))
/-- Work bytes of the copy of a tile under L3 (R189): both tracks written, and the front buffer read where it holds a
frame. -/
def copyBytes (c : Chip) (p : Port) (t : Tile) : Nat :=
  match p.tt, (tablesFor c p).panel with
  | some tt, some pd => (if p.swapped then 3 else 2) * tileCode p tt pd t
  | _, _ => 0

/-- Operations and bytes that a tile has still to do. -/
def tileLeft (c : Chip) (x : Nat × Tile) (level : Nat) : Nat × Nat :=
  let p := port c x.1
  if x.2.st = .toRepeat then (0, copyBytes c p x.2) else
  let lv := if onCell x.2 then x.2.level else level
  let ops := tileOps c p x.2 lv
  let bytes := tileBytes c p x.2 lv
  if x.2.st = .running then
    let done := (nowNs c - x.2.startNs) * (32 * (region c x.2.region).mhz * 88) / 100000
    (ops - done, if ops = 0 then 0 else bytes * (ops - done) / ops)
  else (ops, bytes)

/-- The tiles that are neither complete nor repeated, in order. -/
def unfinished (c : Chip) : List (Nat × Tile) :=
  inOrder c ((portTiles c).filter (fun x => x.2.st ≠ .complete && x.2.st ≠ .repeated))

/-- A projected tile: port, tile, finish in ns, and whether memory bounds it. -/
structure Projected where
  port : Nat := 0
  tile : Tile := {}
  finish : Nat := 0
  memory : Bool := false
deriving DecidableEq, Repr, Inhabited

/-- Walk the tiles with the sums of operations and bytes. -/
def projectAux (c : Chip) (levels : Nat → Nat) : List (Nat × Tile) → Nat → Nat → List Projected
  | [], _, _ => []
  | x :: rest, ops, bytes =>
    let d := tileLeft c x (levels x.1)
    let o := ops + d.1
    let b := bytes + d.2
    let a := arithmeticRate c
    let ta := if a = 0 then 2 ^ 100 else o * 1000000000 / a
    let tb := if c.workRate = 0 then 0 else b * 1000000000 / c.workRate
    { port := x.1, tile := x.2, finish := nowNs c + max ta tb, memory := decide (ta < tb) } ::
      projectAux c levels rest o b
/-- The projection with the frames at the levels given by port. -/
def projectWith (c : Chip) (levels : Nat → Nat) : List Projected := projectAux c levels (unfinished c) 0 0
def projected (c : Chip) : List Projected := projectWith c (fun p => (port c p).level)
/-- Margin of a projected tile in µs. -/
def marginUs (c : Chip) (x : Projected) : Int := ((tileDeadline c x.port : Int) - x.finish) / 1000
def isLate (c : Chip) (x : Projected) : Bool := tileDeadline c x.port < x.finish

/-! ## The ladder (R188 to R192) -/

/-- The owner of a port. -/
def portOwner (c : Chip) (p : Nat) : Nat := match (port c p).tt with
  | some t => t.owner
  | none => 0
/-- Number under which the frame in synthesis is due. -/
def dueOf (c : Chip) (p : Nat) : Nat := dueFrame (port c p)

/-- Change the level of the frame in synthesis. -/
def setLevel (c : Chip) (p level reason : Nat) (margin : Int) : Chip :=
  let old := (port c p).level
  raiseOwn (updPort c p (fun x => { x with level := level })) (portOwner c p) 0x3001
    [w (p + old * 256 + level * 65536 + reason * 2 ^ 24), w (dueOf c p), wi margin]

/-- A tile falls to L3 with the bit of its cause in TILES_REPEATED; black where no frame was ever front (R189). -/
def fallTile (c : Chip) (p band col cause : Nat) : Chip :=
  let c := updTile c p band col (fun t => { t with st := .toRepeat })
  updPort c p (fun x => { x with repeatCauses := x.repeatCauses ||| 1 <<< cause ||| (if x.swapped then 0 else 16) })

/-- Step frames down, and tiles at L2 to L3, until no tile that has not started is projected late. -/
def stepDown (lost : Bool) : Nat → Chip → Chip
  | 0, c => c
  | k + 1, c =>
    match (projected c).find? (fun x => notStarted x.tile && isLate c x) with
    | none => c
    | some x =>
      let lv := (port c x.port).level
      stepDown lost k
        (if lv < 2 then setLevel c x.port (lv + 1) (if lost then 2 else b01 x.memory) (marginUs c x)
        else fallTile c x.port x.tile.band x.tile.col 2)
/-- R187: project completion; `lost` when capacity has just been lost. -/
def project (lost : Bool) (c : Chip) : Chip :=
  if c.faults.schedStopped.isSome then c else stepDown lost ((portTiles c).length + 8) c

/-- R191: at the first release of a frame its level may rise by one; a scheduler that restarts releases none. -/
def firstRelease (c : Chip) (p : Nat) : Chip :=
  let x := port c p
  if c.faults.schedStopped.isSome || x.firstRel || !x.tiles.any (fun t => releasable c (p, t)) then c
  else
    let c := updPort c p (fun x => { x with firstRel := true })
    if x.level = 0 || x.goodLevels.length < 8 || x.goodLevels.any (fun l => x.level < l) then c
    else
      let l := projectWith c (fun q => if q = p then x.level - 1 else (port c q).level)
      if l.any (isLate c) then c
      else
        let margins := (l.filter (fun y => y.port = p)).map (marginUs c)
        setLevel c p (x.level - 1) 3 (margins.foldl min (margins.headD 0))

/-! ## Inputs that have changed (R166, R173, R180, R210) -/

/-- The tiles of a frame. -/
def freshTiles (t : Timetable) (pd : Panel) (gen : Nat) : List Tile :=
  (List.range (bandCount t)).flatMap (fun b => (List.range (colCount pd)).map (fun k => { band := b, col := k, gen := gen }))
/-- The tiles of a frame under another width: those that it had, and new ones. -/
def recut (x : Port) (t : Timetable) (pd : Panel) : List Tile :=
  (freshTiles t pd x.gen).map (fun n => (x.tiles.find? (fun o => o.band = n.band && o.col = n.col)).getD n)
/-- Coefficient sets loaded since (KIND 3). -/
def setsLoaded (a b : Tables) : List Nat := (List.range 16).filter (fun i => nth a.gens (3 + i) ≠ nth b.gens (3 + i))
/-- A table of KIND 0, 1 or 2 has been loaded since. -/
def tablesLoaded (a b : Tables) : Bool := (List.range 3).any (fun k => nth a.gens k ≠ nth b.gens k)
/-- Definitions whose footprint a change of layers or coefficient sets touches: those that only the old or only the new
inputs hold, and those that use a set loaded since. -/
def changedDefs (x : Port) (tb : Tables) (layers : List LayerUse) : List LayerDef :=
  let sets := setsLoaded x.madeTables tb
  (x.madeLayers.filter (fun u => !layers.contains u) ++
    layers.filter (fun u => !x.madeLayers.contains u || sets.contains u.defn.coefH || sets.contains u.defn.coefV)).map (·.defn)
/-- The affected tiles of the frame in synthesis of a port take the next generation once its tables or layers are other than
those its tiles stand for. -/
def syncInputs (c : Chip) (p : Nat) : Chip :=
  let x := port c p
  let tb := tablesFor c x
  let layers := layersFor c x
  match x.tt, tb.panel with
  | some tt, some pd =>
    if x.tiles = [] then c
    else
      let c :=
        if tablesLoaded x.madeTables tb then
          updPort (renewTiles c p (fun _ => true)) p (fun x => { x with tiles := recut x tt pd })
        else match changedDefs x tb layers with
          | [] => c
          | defs => renewTiles c p (fun t => defs.any (inFootprint tb x t))
      updPort c p (fun x => { x with madeTables := tb, madeLayers := layers })
  | _, _ => c

/-- R176: renew what changed inputs touch, deal what may be released, project, and start what may start. -/
def schedule (c : Chip) : Chip :=
  let c := (List.range 4).foldl syncInputs c
  let c := (List.range 4).foldl firstRelease c
  let waiting := (inOrder c (portTiles c)).filter (fun x => x.2.st = .waiting)
  startAll (project false (waiting.foldl dealTile c))

/-- R23, R183, R184: the tiles that match return to the scheduler; one that ran starts no sooner than an instant (R179). -/
def returnTiles (c : Chip) (hit : Tile → Bool) (notBefore : Nat) : Chip :=
  { c with ports := c.ports.map (fun p => { p with tiles := p.tiles.map (fun t =>
      if isHeld t && hit t then { t with st := .waiting, notBefore := if onCell t then notBefore else t.notBefore } else t) }) }

end Sys2Proof.Machine
end

