-- ==== Sys2Proof/Machine/Frames.lean ====
section
/-!
DEFINITION. The frames of a port: what feeds them (R231 to R233, R110, R122), the start of synthesis (R173, R176, R239),
and the monitor tap's slots (R215 to R217).
-/

namespace Sys2Proof.Machine

/-! ## What feeds a port frame -/

/-- FRAME_ID of the frame in synthesis. -/
def frameIdOf (p : Port) : U32 := match p.pendingCommit with
  | some x => if p.windowOpen && reached (dueCount p) x.enters then x.id else p.frameId
  | none => p.frameId
def blackId : U32 := 0x10000000#32

/-- What a choice comes to: the feed, and the frames passed over. -/
abbrev Choice := Option (Nat × Bool × Option Nat) × Option (Nat × Nat)

/-- R232: choose n(f) on a channel. -/
def pickScene (c : Chip) (p : Port) (i : Nat) (item : Bool) : Choice :=
  let begun := (chan c i item).begun
  let fresh : Choice := (some (i, item, begun), none)
  match p.sceneUsed.find? (fun u => u.1 = i && u.2.1 = item) with
  | some (_, _, u) =>
      let next : Choice := (some (i, item, some (w32 (u + 1))), none)
      match begun with
      | some g =>
        let d := seqDiff g u
        if d ≤ 0 then next
        else
          let told := match p.feed with
            | some (k, kt, some n) => if k = i && kt = item && 0 < seqDiff n u then n else w32 (u + 1)
            | _ => w32 (u + 1)
          let skipped := seqDiff g told
          (some (i, item, some g), if 0 < skipped then some (told, skipped.toNat) else none)
      | none => next
  | none => fresh
/-- R110: the last ready frame of a channel, held. -/
def heldScene (c : Chip) (i : Nat) (item : Bool) : Choice :=
  match (chan c i item).lastReady with
  | some f => (some (i, item, some f), none)
  | none => (none, none)

/-- What feeds the frame in synthesis of a port. -/
def feedFor (c : Chip) (p : Port) : Choice :=
  let id := (frameIdOf p).toNat
  if fld id 31 28 ≠ 0 then (none, none)
  else
    let i := fld id 27 24
    let s := stream c i
    if s.st = .unbound then (none, none)
    else if itemPlays s then pickScene c p i true
    else if s.st = .anchored && !s.afterItem then pickScene c p i false
    else if s.afterItem then heldScene c i true
    else if s.fallback = 1 && s.playing.isSome then pickScene c p i true
    else if s.fallback = 2 then heldScene c i s.fromStore
    else (none, none)

/-- Choose, or choose again; SCN_SCENE_SKIPPED for the frames passed over. -/
def chooseFeed (c : Chip) (p : Nat) : Chip :=
  let x := port c p
  let r := feedFor c x
  let c := match r.1, r.2 with
    | some (i, _, _), some (first, n) => raiseOwn c (portOwner c p) 0x5005 [w (p + i * 256), w (dueFrame x), w first, w n]
    | _, _ => c
  updPort c p (fun x => { x with feed := r.1, usedFeed := x.usedFeed && decide (x.feed = r.1) })

/-! ## The tap (R215 to R217) -/

def tapBase (p slot : Nat) : Nat := (4 * p + slot) * 2 ^ 24
/-- The tap direction: the least TX² + TY², the lower on a tie. -/
def tapDir (pd : Panel) : Nat :=
  let sq := fun d => (pd.tx.getD d 0) ^ 2 + (pd.ty.getD d 0) ^ 2
  (List.range pd.dirs).foldl (fun best d => if sq d < sq best then d else best) 0
def tapWidth (pd : Panel) : Nat := cdiv pd.w 2
def tapStride (pd : Panel) : Nat := roundUp (4 * tapWidth pd) 256
/-- Write bytes at a linear address. -/
def writeLinear (c : Chip) (a : Nat) (d : List Byte) : Chip := writeThrough c (fun o => linearPlace c (a + o)) 0 d
def readLinear (c : Chip) (a n : Nat) : List Byte := (List.range n).map (fun i => byteAt c (linearPlace c (a + i)))

/-- A slot's writing begins. -/
def tapBegin (c : Chip) (p slot : Nat) : Chip := writeLinear c (tapBase p slot) (leBytes 0x54415031 4 ++ leBytes p 4)
/-- Bytes of the image rows, stride padding excluded. -/
def tapImage (c : Chip) (p slot : Nat) (pd : Panel) (t : Timetable) : List Byte :=
  (List.range (cdiv t.rowCount 2)).flatMap (fun y =>
    readLinear c (tapBase p slot + 0x1000 + y * tapStride pd) (4 * tapWidth pd))
/-- At the boundary the frame of a slot became front (Table 7-4). -/
def tapEnd (c : Chip) (p slot f : Nat) (repeated : Bool) (pd : Panel) (t : Timetable) : Chip :=
  let crc := crc32c (tapImage c p slot pd t)
  let words := [0x54415031, p + 4 + 8 * b01 repeated, f, tapWidth pd + cdiv t.rowCount 2 * 65536,
    t.firstRow + tapDir pd * 65536, c.time.ns.toNat, w32 c.time.sec.toNat, crc]
  writeLinear c (tapBase p slot) (words.flatMap (fun x => leBytes x 4) ++ List.replicate 32 0#8)

/-! ## The start of synthesis (R173, R226, R239) -/

/-- Of each stream the newest scene frame from which a tile was synthesised (R232); a held one may be older. -/
def usedScene (x : Port) : List (Nat × Bool × Nat) := match x.feed with
  | some (i, item, some f) =>
    if x.usedFeed && !x.sceneUsed.any (fun u => u.1 = i && u.2.1 = item && decide (0 < seqDiff u.2.2 f)) then
      (i, item, f) :: x.sceneUsed.filter (fun u => !(u.1 = i && u.2.1 = item))
    else x.sceneUsed
  | _ => x.sceneUsed

/-- The back buffer of a port is free: synthesis of the next frame begins, of every tile (R178). -/
def startSynthesis (c : Chip) (p : Nat) : Chip :=
  let x := port c p
  match x.tt, c.tables.panel with
  | some t, some pd =>
    let slot := dueFrame x % 4
    let c := updPort c p (fun x =>
      { x with sceneUsed := usedScene x, feed := none, usedFeed := false, firstRel := false, tiles := freshTiles t pd x.gen
               madeTables := tablesFor c x, madeLayers := layersFor c x
               repeatCauses := 0, repeatReported := false, tapSlot := slot, doneNs := 0, headroom := 0 })
    chooseFeed (tapBegin c p slot) p
  | _, _ => c

/-- R239: the frame in synthesis is held for one period, and its scene frame is chosen again. -/
def holdSynthesis (c : Chip) (p : Nat) : Chip :=
  let before := (port c p).feed
  let c := chooseFeed c p
  if (port c p).feed = before then c
  else
    let c := renewTiles c p (fun _ => true)
    updPort c p (fun x => { x with tiles := x.tiles.map (fun t =>
      if t.st = .repeated || t.st = .toRepeat then { t with st := .waiting } else t) })

/-- R235: a commit has changed the source of the frame in synthesis, which takes a new generation. -/
def renewFrame (c : Chip) (p : Nat) : Chip := chooseFeed (renewTiles c p (fun _ => true)) p

end Sys2Proof.Machine
end

