-- ==== Sys2Proof/Machine/Movers.lean ====
section
/-!
DEFINITION. The layer movers: `mover_submit`, `mover_abort`, the scoreboard and the lines of a job (R342 to R355).
-/

namespace Sys2Proof.Machine

/-! ## Jobs -/

/-- Rectangles of pixels meet. -/
def rectsMeet (x y x' y' wd ht wd' ht' : Nat) : Bool := x < x' + wd' && x' < x + wd && y < y' + ht' && y' < y + ht

/-- The destination rectangle of job a meets a rectangle of job b on a common surface. -/
def destHits (a b : MoverJob) : Bool :=
  (a.dst = b.dst && rectsMeet a.dstX a.dstY b.dstX b.dstY a.w a.h b.w b.h) ||
  (b.op ≠ 0 && a.dst = b.src && rectsMeet a.dstX a.dstY b.srcX b.srcY a.w a.h b.w b.h)
/-- Two jobs conflict (R352). -/
def conflict (a b : MoverJob) : Bool := destHits a b || destHits b a

/-- The job reads its own writes (R345). -/
def readsOwnWrites (j : MoverJob) : Bool :=
  let ox : Int := (j.srcX : Int) - j.dstX
  let oy : Int := (j.srcY : Int) - j.dstY
  j.op ≠ 0 && j.src = j.dst && ox.natAbs < j.w && oy.natAbs < j.h &&
  (if oy = 0 then (if j.xDesc then 0 < ox else ox < 0) else if j.yDesc then 0 < oy else oy < 0)

/-- Lines of a job (R344): rows of elements of the destination. -/
def jobLines (fmt ht : Nat) : Nat := ht / elemH fmt
def destFormat (c : Chip) (j : MoverJob) : Nat := ((surface? c j.dst).getD {}).format

/-- Accepted jobs before a job, in acceptance order. -/
def before (l : List MoverJob) (id : Nat) : List MoverJob := l.takeWhile (fun j => j.id ≠ id)
/-- The oldest job that a free mover may take (R352). -/
def nextJob (c : Chip) : Option MoverJob :=
  c.movers.find? (fun j => j.mover.isNone && !j.aborting && (before c.movers j.id).all (fun k => !conflict k j))
def moverFree (c : Chip) (m : Nat) : Bool := !c.moverOut.contains m && c.movers.all (fun j => j.mover ≠ some m)
/-- A free mover takes the oldest job that may start. -/
def takeJob (c : Chip) (m : Nat) : Chip :=
  if !moverFree c m then c
  else
    match nextJob c with
    | none => c
    | some n =>
      let shown := ((surface? c n.dst).getD {}).inDisplay
      { c with movers := c.movers.map (fun j => if j.id = n.id then { j with mover := some m, destShown := shown } else j) }
/-- R352: LM0 takes first. -/
def dispatchMovers (c : Chip) : Chip := takeJob (takeJob c 0) 1

/-- Bits of FILL that a format uses (Table 12-2). -/
def fillUnused (fmt fill : Nat) : Bool :=
  if fmt = 3 then fld fill 15 10 ≠ 0 || fld fill 31 26 ≠ 0 || fld fill 47 42 ≠ 0 || fld fill 63 58 ≠ 0
  else fmt ≠ 2 && fld fill 63 32 ≠ 0

/-- A rectangle lies within a surface, aligned as its format needs (R343). -/
def rectOk (s : Surface) (x y wd ht : Nat) : Bool :=
  x + wd ≤ s.w && y + ht ≤ s.h && (s.format ≠ 3 || (x % 2 = 0 && wd % 2 = 0)) &&
  (s.format ≠ 4 || (x % 4 = 0 && y % 4 = 0 && wd % 4 = 0 && ht % 4 = 0))

/-- The job of a message, without its identifier. -/
def moverJobOf (e : Env) : MoverJob :=
  { op := mf e 0x10 1 0, xDesc := bit e 0x10 2, yDesc := bit e 0x10 3, signal := mf e 0x10 31 16, src := mf e 0x14 15 0,
    dst := mf e 0x14 31 16, srcX := mf e 0x18 15 0, srcY := mf e 0x18 31 16, dstX := mf e 0x1C 15 0,
    dstY := mf e 0x1C 31 16, w := mf e 0x20 15 0, h := mf e 0x20 31 16, fill := mw e 0x24 + mw e 0x28 * 2 ^ 32 }

/-- The ranges of Table 12-1 that need no surface. -/
def moverFieldsOk (j : MoverJob) : Bool :=
  j.op ≤ 2 && 1 ≤ j.w && j.w ≤ 8192 && 1 ≤ j.h && j.h ≤ 8192 && j.dstX ≤ 8191 && j.dstY ≤ 8191 &&
  j.signal ≤ j.h && (j.op = 0 || (j.srcX ≤ 8191 && j.srcY ≤ 8191))

/-- The checks that depend on the surfaces (R343). -/
def moverFits (j : MoverJob) (src dst : Surface) : Bool :=
  rectOk dst j.dstX j.dstY j.w j.h && j.signal ≤ jobLines dst.format j.h &&
  (j.op ≠ 0 || !fillUnused dst.format j.fill) &&
  (j.op = 0 || (rectOk src j.srcX j.srcY j.w j.h && (j.op ≠ 1 || src.format = dst.format))) &&
  (dst.format ≠ 3 || j.w % 2 = 0) && (dst.format ≠ 4 || (j.w % 4 = 0 && j.h % 4 = 0))

/-- `mover_submit` (R343). -/
def moverSubmitBody : Body := fun e c =>
  let j := moverJobOf e
  if !moverFieldsOk j then reject c stINVALID_FIELD
  else
    match commitSurface c j.dst, (if j.op = 0 then some {} else commitSurface c j.src) with
    | some dst, some src =>
      if !mayAct c (sid e) dst.owner || (j.op ≠ 0 && !mayAct c (sid e) src.owner) then reject c stNOT_OWNER
      else if !moverFits j src dst then reject c stINVALID_FIELD
      else if jobsFull c then reject c stNO_SPACE
      else
        let n := newJob c 0x23 (tagOf e) (sid e) []
        let j := { j with id := n.1, hazard := readsOwnWrites j }
        (dispatchMovers { n.2 with movers := n.2.movers ++ [j] }, { status := stACCEPTED, result := [w n.1] })
    | _, _ => reject c stUNKNOWN_RESOURCE

/-! ## Lines -/

/-- Write an element of a surface. -/
def elemWrite (c : Chip) (s : Surface) (ex ey : Nat) (d : List Byte) : Chip :=
  match memRegion? c s.region with
  | none => c
  | some r => lostWrite (writeRegion c r (elemOffset s ex ey) d) (regionPlace r (elemOffset s ex ey))

/-- The bytes that element (i, line) of a job writes, with the words its reading took as zero. -/
def jobElement (c : Chip) (j : MoverJob) (src dst : Surface) (i line : Nat) : List Byte × List Nat :=
  let f := dst.format
  if j.op = 0 then
    (if f = 4 then cscEncode (List.replicate 16 ((leBytes j.fill 4).map (·.toNat))) else leBytes j.fill (elemBytes f), [])
  else
    let rd := elemRead c src
    if src.format = f then
      let ex := j.srcX / elemW f + i
      let ey := j.srcY / elemH f + line
      (rd ex ey, elemPoison c src ex ey)
    else
      let px := (List.range (elemH f)).flatMap (fun y => (List.range (elemW f)).map (fun x =>
        (j.srcX + i * elemW f + x, j.srcY + line * elemH f + y)))
      (fromLanes f (px.map (fun p => toLanes src.format rd p.1 p.2)),
       px.flatMap (fun p => elemPoison c src (p.1 / elemW src.format) (p.2 / elemH src.format)))

/-- R335: reads of unwritten words count, each word of the source elements that a destination element of `ew` by `eh` pixels
takes. -/
def countUnwritten (c : Chip) (j : MoverJob) (src : Surface) (ew eh i line : Nat) : Chip :=
  let elems := ((List.range eh).flatMap (fun y => (List.range ew).map (fun x =>
    ((j.srcX + i * ew + x) / elemW src.format, (j.srcY + line * eh + y) / elemH src.format)))).eraseDups
  let words := (elems.flatMap (fun e => (wordStarts (elemOffset src e.1 e.2) (elemBytes src.format)).map (· / 64))).eraseDups
  countReads c (words.map (fun n => surfPlace c src (64 * n))) false
/-- R350: a line that covers a whole word of its destination clears its poison. -/
def clearLine (c : Chip) (dst : Surface) (ex ey n : Nat) : Chip :=
  match memRegion? c dst.region with
  | none => c
  | some r =>
    let off := elemOffset dst ex ey
    let len := n * elemBytes dst.format
    (wordStarts off len).foldl (fun c o => if o % 64 = 0 && o + 64 ≤ off + len then clearPoison c (regionPlace r o) else c) c

/-- Run one line of a job, element by element (R344). -/
def runLine (c : Chip) (j : MoverJob) (line : Nat) : Chip × List Nat :=
  let dst := (surface? c j.dst).getD {}
  let src := (surface? c j.src).getD {}
  let n := j.w / elemW dst.format
  let x := (List.range n).foldl (fun st i =>
    let i := if j.xDesc then n - 1 - i else i
    let x := jobElement st.1 j src dst i line
    let c := if j.op = 0 then st.1 else countUnwritten st.1 j src (elemW dst.format) (elemH dst.format) i line
    (elemWrite c dst (j.dstX / elemW dst.format + i) (j.dstY / elemH dst.format + line) x.1,
     x.2.foldl (fun l k => if l.contains k then l else k :: l) st.2)) (c, j.poisoned)
  (clearLine x.1 dst (j.dstX / elemW dst.format) (j.dstY / elemH dst.format + line) n, x.2)

/-- Destination row of line number n in Y_DIR order. -/
def lineRow (c : Chip) (j : MoverJob) (n : Nat) : Nat :=
  let f := destFormat c j
  j.dstY / elemH f + (if j.yDesc then jobLines f j.h - 1 - n else n)
/-- LAST_LINE of a job (R354). -/
def lastLine (c : Chip) (j : MoverJob) : Nat := if j.linesDone = 0 then 0xFFFFFFFF else lineRow c j (j.linesDone - 1)

/-- Result of a mover job (Table 12-3). -/
def moverResult (j : MoverJob) : List U32 :=
  [w (b01 j.hazard + b01 j.destShown * 2 + b01 (j.poisoned ≠ []) * 4 + (j.mover.getD 0) * 8), w j.poisoned.length,
   w j.linesDone]

/-- End a mover job: its terminal event, the scoreboard, the commits that waited, the next job (R352, R354). -/
def endMover (c : Chip) (j : MoverJob) (t : Terminal) (status : Nat) : Chip :=
  let c := endJob c j.id t status (lastLine c j) (moverResult j)
  dispatchMovers { c with movers := c.movers.filter (fun x => x.id ≠ j.id) }

/-- MOVER_LINE_COMPLETE (R352, R353): a mover's next line is written and acknowledged. -/
def moverLine (m : Nat) (c : Chip) : Chip :=
  if c.moverOut.contains m then c else
  match c.movers.find? (fun j => j.mover = some m) with
  | none => c
  | some j =>
    let f := destFormat c j
    let line := if j.yDesc then jobLines f j.h - 1 - j.linesDone else j.linesDone
    let x := runLine c j line
    let shown := ((surface? c j.dst).getD {}).inDisplay
    let j := { j with linesDone := j.linesDone + 1, poisoned := x.2, destShown := j.destShown || shown }
    let c := { x.1 with movers := x.1.movers.map (fun k => if k.id = j.id then j else k) }
    let c := setProgress c j.id j.linesDone
    let c := count c (116 + m) 0x0603 1
    let c := count c (116 + m) 0x0602 (j.w / elemW f * elemBytes f)
    let sf := ((surface? c j.src).getD {}).format
    let c := if j.op = 0 then c
      else count c (116 + m) 0x0601 (j.w / elemW sf * elemBytes sf * max 1 (elemH f / elemH sf))
    let c := if j.signal ≠ 0 && j.linesDone = j.signal then
        raiseJob c j.id 0 0x4010 [w j.id, w (j.dst + m * 65536), w (lineRow c j (j.linesDone - 1)), w j.signal]
      else c
    if j.linesDone < jobLines f j.h then (if j.aborting then endMover c j .aborted 0 else c)
    else endMover c j (if j.aborting then .completedBeforeAbort else .completed) 0

/-- R89: settle the abort of a mover job that no mover has taken; a running one ends at its next line boundary (`moverLine`). -/
def settleMoverAbort (c : Chip) (j : MoverJob) : Chip := if j.aborting && j.mover.isNone then endMover c j .aborted 0 else c

/-! ## Aborts (R89) -/

/-- Check an abort of a job of the named opcodes: the reply of one that is settled already, or the job. -/
def abortCheck (c : Chip) (e : Env) (ops : List Nat) : Reply ⊕ Job :=
  let id := mw e 0x10
  match job? c id with
  | some j =>
    if !ops.contains j.opcode then .inl (reply stUNKNOWN_RESOURCE)
    else if !mayAct c (sid e) j.owner then .inl (reply stNOT_OWNER)
    else .inr j
  | none =>
    match c.cci.finished.find? (fun f => f.id = id && ops.contains f.opcode) with
    | none => .inl (reply stUNKNOWN_RESOURCE)
    | some f =>
      let t := match f.terminal with
        | .completed => 0
        | .failed => 1
        | .aborted => 2
        | .completedBeforeAbort => 3
      .inl { status := stJOB_DONE, result := [f.tag, w t, w f.lastLine] }

/-- `mover_abort`: the response is held until the abort settles (R71). -/
def moverAbortBody : Body := fun e c =>
  match abortCheck c e [0x23] with
  | .inl r => (c, r)
  | .inr j =>
    ({ c with movers := c.movers.map (fun k => if k.id = j.id then { k with aborting := true } else k) },
     { status := stOK, held := some j.id })

/-- MOVER_SUBMIT (R343). -/
def execMoverSubmit (via : Via) (s : State) : Host.Outcome State Fault Refusal :=
  .next (cciCommand 0x23 neverBusy moverSubmitBody via s)
/-- MOVER_ABORT (R89). -/
def execMoverAbort (via : Via) (s : State) : Host.Outcome State Fault Refusal :=
  .next (cciCommand 0x24 neverBusy moverAbortBody via s)

end Sys2Proof.Machine
end

