-- ==== Sys2Proof/Machine/Schedule.lean ====
section
/-!
DEFINITION. What a tile writes when it completes (R172, R177, R216, R298 to R303), repeats under L3 (R189, R217), and the
scheduler's commands; the layer commands and mover lines, after which tiles are dealt again.
-/

namespace Sys2Proof.Machine

/-! ## The rows of a tile -/

/-- Inputs of a tile. -/
def synthIn (c : Chip) (p : Port) (pd : Panel) (t : Tile) : SynthIn :=
  { panel := pd, tables := tablesFor c p, layers := layersFor c p, scene := sceneFor c p, level := t.level }

/-- What one hogel row of a tile comes to: a ray for each hogel and direction. -/
def tileRow (c : Chip) (i : SynthIn) (entries : List Entry) (x0 x1 hy : Nat) : List (List F32 × Nat × Bool) :=
  (List.range (x1 + 1 - x0)).flatMap (fun k => (List.range i.panel.dirs).map (fun d => synthY c i entries (x0 + k) hy d))

/-- The map code that a tile reads: that of before the first map load answered since its run started (R299). -/
def tileMapCode (c : Chip) (seen i : Nat) : Nat :=
  match c.power.mapOld.find? (fun x => seen < x.1 && x.2.1 = i) with
  | some x => x.2.2
  | none => mapCode c i
/-- Drive values of a row, in index order (R161, R171). -/
def rowDrives (c : Chip) (pd : Panel) (seen x0 hy : Nat) (rays : List (List F32 × Nat × Bool)) : List Nat :=
  let first := valueIndex pd x0 hy 0 0
  (List.range (3 * rays.length)).map (fun k =>
    driveOf (((rays.getD (k / 3) ([], 0, false)).1).getD (k % 3) 0) (tileMapCode c seen (first + k)))

/-- First code block of a tile within a row (R172). -/
def firstBlock (pd : Panel) (col : Nat) : Nat := 12 * pd.dirs * col
/-- Offset of a row of a buffer in the frame buffers (R225). -/
def rowOffset (t : Timetable) (pd : Panel) (buf i : Nat) : Nat := (buf * t.rowCount + i) * rowStride pd t.ratio2

/-- The unit of area 1 for a frame of a panel description: a description with another ROW_STRIDE has its own until its
first frame becomes front (log 36). -/
def bufferUnit (x : Port) (p : Nat) (t : Timetable) (pd : Panel) : Nat := if rowStride pd t.ratio2 = x.bufStride then p else p + 8
/-- Write a row's code into a buffer of a port, in both tracks. -/
def writeRow (c : Chip) (unit : Nat) (off : Nat) (code : List Byte) : Chip :=
  match findArea c 1 unit with
  | some a => areaWrite c a off code
  | none => c

/-- Tap pixels of a row (R216). -/
def tapPixel (y : List F32) : List Byte :=
  let v := fun n => (fScaleRound (fClamp (y.getD n 0) f0 f1) 1023).toNat
  leBytes (v 0 + v 1 * 2 ^ 10 + v 2 * 2 ^ 20 + 3 * 2 ^ 30) 4
def writeTapRow (c : Chip) (p slot : Nat) (pd : Panel) (x0 x1 py : Nat) (pixels : Nat → List Byte) : Chip :=
  let at_ := tapBase p slot + 0x1000 + py * tapStride pd
  let d := (List.range (x1 / 2 + 1 - x0 / 2)).flatMap (fun k => pixels (x0 / 2 + k))
  lostWrites (writeLinear c (at_ + 4 * (x0 / 2)) d) (linearPlace c) (at_ + 4 * (x0 / 2)) d.length

/-! ## Stress (R300 to R303) -/

/-- A(n). -/
def ageSteps (d : DriveParams) (n : Nat) : Nat := d.t.countP (fun t => t ≤ n && t < 0xFFFF)
/-- Last temperature of the driver that drives a hogel, 0.5 °C; 0 before any (log 5). -/
def driverTemp (c : Chip) (hx hy : Nat) : Int :=
  match c.drivers.find? (fun d => d.colFirst ≤ hx && hx < d.colFirst + d.colCount && d.rowFirst ≤ hy && hy < d.rowFirst + d.rowCount) with
  | some d => d.temp
  | none => 0
def stressBand (temp : Int) : Nat := (clampI ((temp + 80) / 20) 0 15).toNat
def counterPlace (c : Chip) (i : Nat) : Option Area := (findArea c 3 0).filter (fun a => wordAt c (areaPlace a (2 * i)) ≠ .poisoned)

/-- Add 1 to a stress counter; a seeded row's map code falls by the ageing steps gained. -/
def stressAdd (c : Chip) (p i hy : Nat) : Chip :=
  match counterPlace c i with
  | none => c
  | some a =>
    let n := (byteAt c (areaPlace a (2 * i))).toNat + 256 * (byteAt c (areaPlace a (2 * i + 1))).toNat
    let m := min (n + 1) 65535
    let c := areaWrite (countReads c [areaPlace a (2 * i)] false) a (2 * i) (leBytes m 2)
    let down := ageSteps c.power.params m - ageSteps c.power.params n
    if down = 0 || !c.power.seeded.contains hy then c
    else
      let code := mapCode c i
      let c := if code < down then updPort c p (fun x => { x with headroom := x.headroom + 1 }) else c
      match findArea c 2 0 with
      | some m => areaWrite (countReads c [areaPlace m i] false) m i [BitVec.ofNat 8 (code - down)]
      | none => c

/-- R302: one value with drive v′: P is num over den; a certain or impossible count draws nothing. -/
def sampleValue (c : Chip) (p i hx hy v : Nat) : Chip :=
  let num := v * nth c.power.params.w (stressBand (driverTemp c hx hy))
  let den := 65536 * 4096 * 2 ^ c.power.params.ageRate
  if num = 0 then c
  else if den ≤ num then stressAdd c p i hy
  else
    let d := drawBit c
    if d.1 then stressAdd d.2 p i hy else d.2

/-- The stress sampler takes the values of a row as its code decodes (R289). -/
def sampleRow (c : Chip) (p : Nat) (pd : Panel) (x0 x1 hy b0 q : Nat) (code : List Byte) : Chip :=
  let size := 8 + 8 * q
  (List.range ((x1 + 1 - x0) * pd.dirs * 3)).foldl (fun c k =>
    let v := decodeValue (slice code (k / 64 * size) size) (b0 + k / 64) (k % 64) q
    sampleValue c p (valueIndex pd x0 hy 0 0 + k) (x0 + k / (3 * pd.dirs)) hy v) c

/-! ## Completion (R177) -/

/-- Reads of unwritten words of the correction map count (R335); a poisoned one gives a code of 0 (R381). -/
def countMap (c : Chip) (first n : Nat) : Chip :=
  match findArea c 2 0 with
  | some a => countReads c ((wordStarts first n).map (areaPlace a)) false
  | none => c
/-- The words that a tile reads of the decoded arrays: the tile rows that its band needs (R174); poisoned ones count (R329). -/
def countHistory (c : Chip) (p : Port) (b : Nat) : Chip :=
  match p.feed, bandNeeds c p b with
  | some (i, item, some f), some rows =>
    let ch := chan c i item
    countReads c (rows.flatMap (fun r => match ch.hist.find? (fun a => a.frame = f && a.array = r.1) with
      | some a => historyWords c (stream c i) ch a r.2
      | none => [])) true
  | _, _ => c

/-- A row of a completing tile: its code, its tap pixels, its counts and its stress samples. -/
def completeRow (p : Nat) (tt : Timetable) (pd : Panel) (i : SynthIn) (entries : List Entry) (t : Tile) (sample : Bool)
    (x0 x1 hy : Nat) (c : Chip) : Chip :=
  let x := port c p
  let q := ratioQ (effRatio2 x tt)
  let b0 := firstBlock pd t.col
  let rays := tileRow c i entries x0 x1 hy
  let c := countMap c (valueIndex pd x0 hy 0 0) (3 * rays.length)
  let code := encodeValues (rowDrives c pd t.mapSeen x0 hy rays) b0 q
  let row := hy - tt.firstRow
  let slot := blockSlot t.region t.block
  let c := writeRow c (bufferUnit x p tt pd) (rowOffset tt pd (1 - x.front) row + b0 * blockBytes (effRatio2 x tt)) code
  let c := if row % 2 ≠ 0 then c
    else writeTapRow c p x.tapSlot pd x0 x1 (row / 2) (fun px =>
      tapPixel ((rays.getD ((2 * px - x0) * pd.dirs + tapDir pd) ([], 0, false)).1))
  let c := count c slot 0x0104 (total (rays.map (fun r => r.2.1 + 6)))
  let c := count c slot 0x0108 (rays.countP (·.2.2))
  if sample then sampleRow c p pd x0 x1 hy b0 q code else c

/-- R205: entries that stand after the first covering layer. -/
def skippedEntries (t : Tables) (pd : Panel) (entries : List Entry) (x0 x1 y0 y1 : Nat) : Nat :=
  (entries.dropWhile (fun e => match e with
    | .layer u => !(declaredOpaque t u.defn && boxWithin (hitBox t pd u.defn x0 x1 y0 y1) u.defn)
    | .plane _ => true)).length - 1

/-- The layer of a depth-list entry. -/
def entryLayer? : Entry → Option LayerUse
  | .layer u => some u
  | .plane _ => none
/-- The words of a layer's surface that the rays of a hogel row read: those of rays that reach the layer. -/
def rowWords (c : Chip) (i : SynthIn) (entries : List Entry) (u : LayerUse) (x0 hy : Nat) (rays : List (List F32 × Nat × Bool)) : List Place :=
  let s := (surface? c u.surf).getD {}
  ((List.range rays.length).flatMap (fun k =>
    let hx := x0 + k / i.panel.dirs
    let d := k % i.panel.dirs
    if ((entries.take (rays.getD k ([], 0, false)).2.1).filterMap entryLayer?).contains u then
      layerElems i.panel u.defn hx hy (rayTx i hx hy d) (rayTy i hx hy d)
    else [])).eraseDups.flatMap (fun e => (wordStarts (elemOffset s e.1 e.2) (elemBytes s.format)).map (fun o =>
      let p := surfPlace c s o
      { p with loc := p.loc / 64 * 64 }))
/-- The words of a layer that a tile reads, each once (log 21). -/
def tileWords (c : Chip) (i : SynthIn) (entries : List Entry) (h : Nat × Nat × Nat × Nat) (u : LayerUse) : List Place :=
  ((List.range (h.2.2.2 + 1 - h.2.2.1)).flatMap (fun k =>
    rowWords c i entries u h.1 (h.2.2.1 + k) (tileRow c i entries h.1 h.2.1 (h.2.2.1 + k)))).eraseDups
/-- R206: LYR_READ_POISONED for the poisoned words that a tile read of a layer; R335: its unwritten words count. -/
def reportReads (i : SynthIn) (entries : List Entry) (h : Nat × Nat × Nat × Nat) (c : Chip) (u : LayerUse) : Chip :=
  let words := tileWords c i entries h u
  let n := (words.map (wordAt c)).count .poisoned
  let c := countReads c words false
  if n = 0 then c else raiseLimitedOwn c (layer c u.layer).owner 0x4006 u.layer ms10 n 2 [w u.layer, w u.surf, 0]

/-- A tile's rows are written and acknowledged in both tracks. -/
def completeTile (c : Chip) (p : Nat) (t : Tile) : Chip :=
  let x := port c p
  match x.tt, (tablesFor c x).panel with
  | some tt, some pd =>
    let i := synthIn c x pd t
    let entries := depthList i
    let h := tileHogels pd tt t
    let sample := !t.sampled && dueFrame x % 64 = 0 && c.store.writing.isNone
    let slot := blockSlot t.region t.block
    let c := (List.range (h.2.2.2 + 1 - h.2.2.1)).foldl (fun c k =>
      completeRow p tt pd i entries t sample h.1 h.2.1 (h.2.2.1 + k) c) c
    let c := count c slot 0x0103 (skippedEntries i.tables pd entries h.1 h.2.1 h.2.2.1 h.2.2.2)
    let c := count c slot 0x0101 1
    let c := countHistory (i.layers.foldl (reportReads i entries h) c) x t.band
    let c := updTile c p t.band t.col (fun t => { t with st := .complete, sampled := true })
    updPort c p (fun x => { x with doneNs := nowNs c, usedFeed := true })
  | _, _ => c

/-! ## Repeats (R189) -/

/-- Copy a row of a tile from the front buffer, or write black code. -/
def copyRow (p : Nat) (tt : Timetable) (pd : Panel) (t : Tile) (x0 x1 row : Nat) (c : Chip) : Chip :=
  let x := port c p
  let at_ := firstBlock pd t.col * blockBytes (effRatio2 x tt)
  let n := cdiv (3 * (x1 + 1 - x0) * pd.dirs) 64 * blockBytes (effRatio2 x tt)
  let code := match findArea c 1 p with
    | some a => (List.range n).map (fun k =>
        if x.swapped then byteAt c (areaPlace a (rowOffset tt ((rowPanel c x).getD pd) x.front row + at_ + k)) else 0#8)
    | none => []
  let c := match findArea c 1 p with
    | some a =>
      if x.swapped then
        let off := rowOffset tt ((rowPanel c x).getD pd) x.front row + at_
        countReads c ((wordStarts off n).map (areaPlace a)) true
      else c
    | none => c
  let c := writeRow c (bufferUnit x p tt pd) (rowOffset tt pd (1 - x.front) row + at_) code
  if row % 2 ≠ 0 then c
  else
    let from_ := tapBase p x.tapFront + 0x1000 + row / 2 * tapStride ((rowPanel c x).getD pd)
    let c := if x.swapped then
        countReads c ((wordStarts (from_ + 4 * (x0 / 2)) (4 * (x1 / 2 + 1 - x0 / 2))).map (linearPlace c)) true
      else c
    writeTapRow c p x.tapSlot pd x0 x1 (row / 2) (fun px => if x.swapped then readLinear c (from_ + 4 * px) 4 else leBytes 0 4)

/-- The DMA of a region in service repeats a tile. -/
def copyTile (c : Chip) (p : Nat) (t : Tile) (u : Nat) : Chip :=
  let x := port c p
  match x.tt, (tablesFor c x).panel with
  | some tt, some pd =>
    let h := tileHogels pd tt t
    let rows := h.2.2.2 + 1 - h.2.2.1
    let c := (List.range rows).foldl (fun c k => copyRow p tt pd t h.1 h.2.1 (h.2.2.1 - tt.firstRow + k) c) c
    let c := count (count c (64 + u) 0x0204 1) (64 + u) 0x0205 (copyBytes c x t)
    updPort (updTile c p t.band t.col (fun t => { t with st := .repeated })) p (fun x => { x with doneNs := nowNs c })
  | _, _ => c

/-! ## Commands -/

/-- The tile of an index. -/
def tileOf? (c : Chip) (n : U32) : Option (Nat × Tile) :=
  let p := n.toNat / 2 ^ 24
  let x := port c p
  if x.tt.isNone then none
  else (x.tiles.find? (fun t => t.band = fld n.toNat 23 8 && t.col = fld n.toNat 7 0)).map (fun t => (p, t))

/-- The cause of a tile that falls before it starts: its inputs, or no cell. -/
def fallCause (c : Chip) (p : Nat) (t : Tile) : Nat := if bandReady c (port c p) t.band then 1 else 0

/-- A running tile is complete. -/
def tileDone (n : U32) (c : Chip) : Chip :=
  match tileOf? c n with
  | some (p, t) => if t.st = .running && cellServes c t then schedule (completeTile c p t) else c
  | none => c
/-- A stopped run has ended: the tile returns to the head of its queue, to start no sooner than 10 µs later (R179, R181). -/
def tileStopped (n : U32) (c : Chip) : Chip :=
  match tileOf? c n with
  | some (p, t) =>
    if t.st = .stopping && cellServes c t then
      schedule (updTile c p t.band t.col (fun t => { t with st := .queued, notBefore := nowNs c + 10000 }))
    else c
  | none => c
/-- The wait of R179 is over. -/
def tileAgain (n : U32) (c : Chip) : Chip :=
  match tileOf? c n with
  | some (_, t) => if notStarted t && t.notBefore ≠ 0 then schedule (advanceTo c t.notBefore) else c
  | none => c
/-- S_t has passed before the tile started (R189). -/
def startPassed (n : U32) (c : Chip) : Chip :=
  match tileOf? c n with
  | some (p, t) =>
    if notStarted t then
      let c := advanceTo c (tileStartBy c (port c p) t)
      schedule (fallTile c p t.band t.col (fallCause c p t))
    else c
  | none => c
def isRepeat (t : Tile) : Bool := t.st = .repeated || t.st = .toRepeat
/-- TILES_REPEATED, once per frame (R192), of the tiles repeated or about to be by the DMA of a region in service. -/
def reportRepeats (c : Chip) (p : Nat) : Chip :=
  let x := port c p
  let l := x.tiles.filter (fun t => isRepeat t && (t.st = .repeated || (List.range 16).any (regionServes c)))
  if l = [] || x.repeatReported then c
  else
    raiseOwn (updPort c p (fun x => { x with repeatReported := true })) (portOwner c p) 0x3002
      [w (p + x.repeatCauses * 256), w (dueFrame x), w l.length, w (minOf (l.map (tileIndex p)))]

/-- The copy of a tile is done; after D_f it may be the frame's first repeat (R192). -/
def copyDone (n : U32) (c : Chip) : Chip :=
  match tileOf? c n, (List.range 16).find? (regionServes c) with
  | some (p, t), some u =>
    if t.st = .toRepeat then
      let c := copyTile c p t u
      if tileDeadline c p ≤ nowNs c then reportRepeats c p else c
    else c
  | _, _ => c

/-- D_f: every tile not complete falls to L3 (R189). -/
def deadline (p : Nat) (c : Chip) : Chip :=
  let x := port c p
  match x.tt with
  | none => c
  | some tt =>
    if !x.running then c
    else
      let c := advanceTo c (deadlineNs x tt)
      let c := x.tiles.foldl (fun c t =>
        if onCell t then fallTile c p t.band t.col 3
        else if notStarted t then fallTile c p t.band t.col (fallCause c p t) else c) c
      schedule (reportRepeats c p)

/-- TILE_COMPLETE (R177). -/
def execTileComplete (tile : U32) (s : State) : Host.Outcome State Fault Refusal := .next (s.runLive (tileDone tile))
/-- TILE_RUN_STOPPED (R181). -/
def execTileRunStopped (tile : U32) (s : State) : Host.Outcome State Fault Refusal := .next (s.runLive (tileStopped tile))
/-- TILE_REDISPATCH (R179). -/
def execTileRedispatch (tile : U32) (s : State) : Host.Outcome State Fault Refusal := .next (s.runLive (tileAgain tile))
/-- R383: the scheduler has restarted: tiles whose S_t has passed fall to L3. -/
def restartScheduler (c : Chip) : Chip :=
  match c.faults.schedStopped with
  | none => c
  | some since =>
    let late := (portTiles c).filter (fun x => notStarted x.2 && tileStartBy c (port c x.1) x.2 < nowNs c)
    let c := late.foldl (fun c x => fallTile c x.1 x.2.band x.2.col (fallCause c x.1 x.2)) c
    raiseFault { c with faults := { c.faults with schedStopped := none } } 0xC009 13 2 0 ((nowNs c - since) / 1000) [w late.length]

/-- PROJECTION (R34, R35, R187, R383), with the Work-class bytes per second of the last 1 ms. -/
def execProjection (workBytesPerSecond : Nat) (s : State) : Host.Outcome State Fault Refusal :=
  .next (s.runLive (fun c => schedule (project false (restartScheduler { c with workRate := workBytesPerSecond }))))
/-- LATEST_START_PASSED (R189). -/
def execLatestStartPassed (tile : U32) (s : State) : Host.Outcome State Fault Refusal := .next (s.runLive (startPassed tile))
/-- FRAME_DEADLINE (R189, R192). -/
def execFrameDeadline (port : Fin 4) (s : State) : Host.Outcome State Fault Refusal := .next (s.runLive (deadline port.val))
/-- L3_COPY_DONE (R189, R217). -/
def execL3CopyDone (tile : U32) (s : State) : Host.Outcome State Fault Refusal := .next (s.runLive (copyDone tile))

/-! ## Layer commands and mover lines, which may renew tiles -/

/-- A body after which tiles are dealt again (R180, R181). -/
def andDeal (body : Body) : Body := fun e c =>
  let x := body e c
  (schedule x.1, x.2)

/-- LAYER_DEFINE (R196). -/
def execLayerDefine (via : Via) (s : State) : Host.Outcome State Fault Refusal :=
  .next (cciCommand 0x13 neverBusy (andDeal layerDefineBody) via s)
/-- LAYER_COMMIT (R211). -/
def execLayerCommit (via : Via) (s : State) : Host.Outcome State Fault Refusal :=
  .next (cciCommand 0x14 neverBusy (andDeal layerCommitBody) via s)
/-- MOVER_LINE_COMPLETE (R352). -/
def execMoverLineComplete (m : Fin 2) (s : State) : Host.Outcome State Fault Refusal :=
  .next (s.runLive (fun c => schedule (moverLine m.val c)))

end Sys2Proof.Machine
end

