-- ==== Sys2Proof/Machine/Ingest.lean ====
section
/-!
DEFINITION. Scene ingest: DST packets, the dual-path merge and its holes (R98 to R111), the paths, anchor requests,
authentication time-outs, the discard counters (R115), `stream_bind`, and the decoders' commands (R150 to R155).
-/

namespace Sys2Proof.Machine

/-- What follows a packet or a tile row: frames become ready, losses are reported, decoders take work, tiles are dealt. -/
def afterIngest (c : Chip) (i : Nat) : Chip := schedule (dispatchDecoders (reportLoss (finishFrames 64 c i false) i))

/-! ## Packets (R100 to R103) -/

/-- A DST packet as received, with its STREAM_ID: none where it fails a check of R103. -/
def parsePacket (ep : Nat) (b : List Byte) : Option (Nat × Packet) :=
  let w0 := be32 b 0
  let typ := fld w0 27 24
  if b.length < 32 || fld w0 31 28 ≠ 1 || crc32c (b.take 28) ≠ be32 b 28 || typ = 4 || 6 ≤ typ ||
     fld w0 15 0 + 32 ≠ b.length || 8960 < fld w0 15 0 then none
  else
    let w5 := be32 b 20
    some (be32 b 4,
      { typ := typ, station := w0.testBit 23, auth := w0.testBit 22, seq := be32 b 8, frame := be32 b 12,
        fragIdx := fld (be32 b 16) 31 16, fragCount := fld (be32 b 16) 15 0, plane := fld w5 31 24, cont := w5.testBit 23,
        row := fld w5 15 0, stationRef := be32 b 24, ep := ep, hdr := b.take 28, payload := b.drop 32 })

/-! ## Frames (R98) -/

/-- An IPv4-mapped address (R6). -/
def isV4 (a : BitVec 128) : Bool := fld a.toNat 127 32 = 0xFFFF
/-- Bytes of the Ethernet frame of a datagram, FCS included. -/
def frameBytes (d : Datagram) : Nat :=
  18 + (if d.vlan = 0 then 0 else 4) + (if isV4 d.dstAddr then 20 else 40) + 8 + d.payload.length
/-- The 16-bit words of bytes, a last odd byte padded with zeros, added up. -/
def wordSum : List Byte → Nat
  | a :: b :: l => a.toNat * 256 + b.toNat + wordSum l
  | [a] => a.toNat * 256
  | [] => 0
/-- The UDP checksum: required on IPv6, and right where it is not 0; its sum is the Internet checksum over the pseudo-header,
the UDP header and the data (log 92). -/
def udpGood (d : Datagram) : Bool :=
  if d.checksum = 0 then isV4 d.dstAddr
  else
    let n := 8 + d.payload.length
    (wordSum (beBytes d.src.addr.toNat 16) + wordSum (beBytes d.dstAddr.toNat 16) + 17 + n +
     d.src.port.toNat + d.dstPort.toNat + n + d.checksum.toNat + wordSum d.payload) % 65535 = 0
/-- A frame uses a feature that Table 4-1 does not support, or fails a check of it. -/
def frameFault (d : Datagram) : Bool :=
  !d.fcsGood || 9216 < frameBytes d || d.stacked || d.vlan = 4095 || d.fragment || d.options || !udpGood d

/-- A multicast address: ff00::/8, or an IPv4-mapped address of 224.0.0.0/4. -/
def isGroup (a : BitVec 128) : Bool := fld a.toNat 127 120 = 0xFF || fld a.toNat 127 28 = 0x0000000000000000000000FFFF * 16 + 0xE
/-- A datagram matches a bound network stream by address, port and VLAN on a path that the stream names. -/
def matchesStream (c : Chip) (ep : Nat) (d : Datagram) (s : Stream) : Bool :=
  s.st ≠ .unbound && !s.fromStore && s.paths.getLsbD ep && s.udpPort = d.dstPort.toNat && s.vlan = d.vlan.toNat &&
  (d.dstAddr = s.group || (!isGroup s.group && d.dstAddr = c.cfg.dataAddr.getD ep 0))

/-! ## The merge (R104 to R106) -/

def releaseFuel : Nat := 65600
/-- The open holes become lost where a test says so, and the ring hands over what they held. -/
def loseHoles (c : Chip) (i : Nat) (lost : Nat × Nat × List Nat → Bool) : Chip :=
  let c := updStream c i (fun s =>
    { s with holes := s.holes.filter (fun h => !lost h)
             lostHoles := ((s.holes.filter lost).map (·.1) ++ s.lostHoles).take 65536 })
  release releaseFuel c i
/-- The instant at which MERGE_WINDOW has elapsed for a hole that opened at t. -/
def windowEnd (s : Stream) (t : Nat) : Nat := t + s.mergeWindow * 20000
/-- R105: every path in service has delivered a packet above a hole, or MERGE_WINDOW has elapsed. -/
def holeLost (c : Chip) (s : Stream) (h : Nat × Nat × List Nat) : Bool :=
  let paths := pathsInService c s
  windowEnd s h.2.1 ≤ nowNs c || (paths ≠ [] && paths.all (fun ep => h.2.2.contains ep))
/-- The holes of a stream for which a condition of R105 holds are declared lost. -/
def settleHoles (c : Chip) (i : Nat) : Chip := loseHoles c i (holeLost c (stream c i))

/-- A path delivers number n: the holes below it are passed on that path. -/
def passOver (c : Chip) (i ep n : Nat) : Chip :=
  updStream c i (fun s => { s with holes := s.holes.map (fun h =>
    if 0 < seqDiff n h.1 && !h.2.2.contains ep then (h.1, h.2.1, ep :: h.2.2) else h) })

/-- The stream leaves fallback at its first accepted packet (R108). -/
def leaveFallback (c : Chip) (i : Nat) : Chip :=
  requestAnchor (updStream (dropChain c i false) i (fun s => { s with st := .unanchored })) i

/-- The MAC keeps the time-stamp of the last counted packet (R363). -/
def stampPacket (c : Chip) (ep : Nat) : Chip :=
  let t := stampNow c ep
  updEth t.2 ep (fun x => { x with dstStamp := some t.1 })
/-- A packet is accepted: its source, the ring, the scene frame it begins. -/
def acceptPacket (c : Chip) (i : Nat) (src : Peer) (p : Packet) : Chip :=
  let first := (stream c i).srcPeer.isNone
  let now := nowNs c
  let c := updStream c i (fun s =>
    { s with srcPeer := some src, lastFrame := p.frame, lastSeq := p.seq, heardNs := now, ring := p :: s.ring })
  let c := if p.typ ≤ 3 then stampPacket (markBegun c i false p.frame) p.ep else c
  match (stream c i).st with
  | .fallback => leaveFallback c i
  | .unanchored => if first then requestAnchor c i else c
  | _ => c

/-- The run of stale packets on one path (R104): 64 in a row restart the sequence. -/
def stalePacket (c : Chip) (i ep seq : Nat) : Chip :=
  let q := pathOf (stream c i) ep
  let run := if q.staleRun ≠ 0 && seq = w32 (q.staleLast + 1) then q.staleRun + 1 else 1
  let c := countDrop (updPath c i ep (fun q => { q with staleRun := run, staleLast := seq })) ep 5
  if run < 64 then c
  else
    let c := loseHoles c i (fun _ => true)
    let c := updStream c i (fun s =>
      { s with high := some seq, nextOut := some (w32 (seq + 1)), lostHoles := [], ring := [], path0 := { s.path0 with staleRun := 0 },
               path1 := { s.path1 with staleRun := 0 } })
    unanchor (raiseOwn c (stOwner c i) 0x1016 [w i, w seq]) i false 1

/-- R104: merge an arriving packet. -/
def mergePacket (c : Chip) (i ep : Nat) (src : Peer) (p : Packet) : Chip :=
  let c := updPath (settleHoles c i) i ep (fun q => { q with heard := true, lastNs := nowNs c, silent := false })
  let fresh := fun (c : Chip) => updPath c i ep (fun q => { q with staleRun := 0 })
  match (stream c i).high with
  | none =>
    let c := updStream (fresh c) i (fun s => { s with high := some p.seq, nextOut := some p.seq })
    release releaseFuel (acceptPacket c i src p) i
  | some h =>
    let d := seqDiff p.seq h
    if d ≤ -65536 || 65536 < d then stalePacket c i ep p.seq
    else
      let c := passOver (fresh c) i ep p.seq
      if 0 < d then
        let gap := (List.range (d.toNat - 1)).map (fun k => (w32 (h + 1 + k), nowNs c, [ep]))
        let c := updStream c i (fun s => { s with high := some p.seq, holes := s.holes ++ gap })
        settleHoles (acceptPacket c i src p) i
      else if (stream c i).holes.any (fun x => x.1 = p.seq) then
        let c := updStream c i (fun s => { s with holes := s.holes.filter (fun x => x.1 ≠ p.seq) })
        settleHoles (acceptPacket c i src p) i
      else settleHoles (countDrop c ep (if (stream c i).lostHoles.contains p.seq then 4 else 3)) i

/-- A datagram arrives. -/
def receive (ep : Nat) (d : Datagram) (c : Chip) : Chip :=
  if !running c || (eth c ep).isolated then c
  else
    let c := updEth c ep (fun e => { e with link := true })
    if frameFault d then countDrop c ep 7
    else
    let hits := (List.range 16).filter (fun i => matchesStream c ep d (stream c i))
    if hits = [] then countDrop c ep 0
    else match parsePacket ep d.payload with
      | none => countDrop c ep 1
      | some (id, p) => match hits.find? (fun i => (stream c i).streamId = id) with
        | none => countDrop c ep 2
        | some i => afterIngest (mergePacket c i ep d.src p) i

/-! ## Paths and time-outs -/

/-- MERGE_WINDOW elapses for an open hole. -/
def windowElapsed (i seq : Nat) (c : Chip) : Chip :=
  match (stream c i).holes.find? (fun h => h.1 = seq) with
  | some h => afterIngest (settleHoles (advanceTo c (windowEnd (stream c i) h.2.1)) i) i
  | none => c

/-- A path delivers nothing for 10 ms, while the other path delivers (R105). -/
def pathSilent (i ep : Nat) (c : Chip) : Chip :=
  let s := stream c i
  if s.st = .unbound || s.fromStore || !s.paths.getLsbD ep || !(eth c ep).link || (pathOf s ep).silent then c
  else
    let c := advanceTo c ((pathOf s ep).lastNs + ms10)
    if !pathServes c s (1 - ep) then c
    else
    let c := raiseOwn (updPath c i ep (fun q => { q with silent := true })) s.owner 0x1003 [w i, w ep]
    afterIngest (settleHoles c i) i

/-- Holes of every stream after a change of paths. -/
def pathsChanged (c : Chip) : Chip := (List.range 16).foldl (fun c i => afterIngest (settleHoles c i) i) c

/-- A port loses its link (R99). -/
def pathDown (ep : Nat) (c : Chip) : Chip :=
  let wasUp := (eth c ep).up
  let c := updEth c ep (fun e => { e with up := false, link := false })
  pathsChanged (if wasUp then raise (actionDone c 9 ep) 0x1001 [w ep] else c)

/-- A port's link has been up for 100 ms (R99). -/
def pathUp (ep rate : Nat) (c : Chip) : Chip :=
  if !running c || (eth c ep).up || (eth c ep).isolated then c
  else raise (updEth c ep (fun e => { e with up := true, link := true, rateGbs := rate })) 0x1002 [w ep, w rate]

/-- No packet for 16 ms (R108). The anchor request that follows carries REASON 0, of which Table 4-4 says nothing (DESIGN CHOICE,
log 109). -/
def streamLost (i : Nat) (c : Chip) : Chip :=
  let s := stream c i
  if s.fromStore || !(s.st = .unanchored || s.st = .anchored) then c
  else
    let c := advanceTo c (s.heardNs + 16000000)
    raiseOwn (updStream c i (fun s => { s with st := .fallback, reason := 0 })) s.owner 0x1010 [w i, w s.lastSeq]

/-- The 100 ms of R108 pass while packets keep arriving. -/
def anchorAgain (i : Nat) (c : Chip) : Chip := if (stream c i).st = .unanchored then requestAnchor c i else c

/-- A trailer did not arrive in time (R114). -/
def trailerLate (i frame : Nat) (c : Chip) : Chip :=
  let waits := fun item => (sceneFrame? (chan c i item) frame).filter (fun x => x.closed && !x.verified)
  let late := fun (x : SceneFrame) => advanceTo c (x.closedNs + trailerWindow (stream c i))
  if !(stream c i).authRequired then c
  else match waits false, waits true with
    | some x, _ => afterIngest (authFail (late x) i false frame 2) i
    | none, some x => afterIngest (finishFrames 64 (authFail (late x) i true frame 2) i true) i
    | none, none => c

/-- DST_COUNTERS: once a second while any counter has changed (R115). -/
def dropCounters (ep : Nat) (c : Chip) : Chip :=
  let l := (eth c ep).drops
  if !running c || l.all (· = 0) then c
  else raise (updEth c ep (fun e => { e with drops := List.replicate 8 0 })) 0x1020 (w ep :: l.map w)

/-- An address of a port itself: its data address or its CCI address (R93, R98). -/
def ownAddress (c : Chip) (ep : Nat) (a : BitVec 128) : Bool := a = c.cfg.dataAddr.getD ep 0 || a = c.cfg.mgmtAddr.getD ep 0
/-- The multicast groups joined on a port. -/
def groupsOn (c : Chip) (ep : Nat) (v4 : Bool) : List (BitVec 128) :=
  ((c.streams.filter (fun s => s.st ≠ .unbound && !s.fromStore && isGroup s.group && isV4 s.group = v4 && s.paths.getLsbD ep)).map
    (·.group)).foldr (fun g l => if l.contains g then l else g :: l) []
def answer (c : Chip) (ep : Nat) (a : Answer) : Chip := { c with out := { c.out with answers := (ep, a) :: c.out.answers } }

/-- The frames of Table 4-1 that are neither DST, CCI nor PTP. -/
def controlFrame (ep : Nat) (f : ControlFrame) (c : Chip) : Chip :=
  let mac := c.cfg.macs.getD ep 0
  let report := fun (v4 : Bool) => if groupsOn c ep v4 = [] then c else answer c ep (.groupReport (groupsOn c ep v4))
  if !running c || (eth c ep).isolated then c
  else match f with
    | .arpRequest from_ sender target =>
      if ownAddress c ep (0xFFFF#96 ++ target) then answer c ep (.arpReply mac target from_ sender) else c
    | .neighborSolicitation from_ sender target =>
      if ownAddress c ep target then answer c ep (.neighborAdvertisement mac target from_ sender) else c
    | .igmpQuery => report true
    | .mldQuery => report false
    | .icmpEcho sender target body =>
      let now := c.time.sec.toNat
      let e := eth c ep
      let n := if e.echoSecond = now then e.echoCount else 0
      if !ownAddress c ep target || 100 ≤ n then c
      else updEth (answer c ep (.echoReply target sender body)) ep (fun e => { e with echoSecond := now, echoCount := n + 1 })
    | .pause => c
    | .unsupported => countDrop c ep 7

/-! ## The content store's items -/

/-- Drives in service, CS0 first. -/
def drivesUp (c : Chip) : List Drive := [c.store.drive0, c.store.drive1].filter (·.up)
/-- A content store is present. -/
def storePresent (c : Chip) : Bool := c.store.drive0.up || c.store.drive1.up
/-- The items of the store: those of the drives in service, the lower drive's first (R116). -/
def storeItems (c : Chip) : List Item :=
  (drivesUp c).foldl (fun l d => l ++ d.dir.items.filter (fun x => !l.any (fun y => y.id = x.id))) []
def storeItem? (c : Chip) (id : Nat) : Option Item := (storeItems c).find? (fun x => x.id = id)
/-- A drive holds a good copy of an item. -/
def holdsItem (d : Drive) (x : Item) : Bool := d.dir.items.contains x && !d.bad.contains x.id
/-- Some drive in service reads an item (R116). -/
def itemReadable (c : Chip) (id : Nat) : Bool :=
  match storeItem? c id with
  | some x => (drivesUp c).any (fun d => holdsItem d x)
  | none => false

/-- R119: bytes of a packet of an item, padded. -/
def packetBytes (p : Packet) : Nat := roundUp (32 + p.payload.length) 32
/-- Packets that fit in a ring that holds some already. -/
def fitRing : Nat → List Packet → List Packet
  | _, [] => []
  | room, p :: l => if room < packetBytes p then [] else p :: fitRing (room - packetBytes p) l
/-- The packets of an item that a read takes from its n-th on, into the room of a ring; none where no drive reads it. -/
def readItem (c : Chip) (id n room : Nat) : List Packet :=
  if itemReadable c id then fitRing room (((storeItem? c id).getD {}).packets.drop n) else []

/-! ## `stream_bind` (R108 to R111, R233) -/

/-- Another network stream uses a group on a port. -/
def groupUsed (c : Chip) (i ep : Nat) (g : BitVec 128) : Bool :=
  (List.range 16).any (fun k => k ≠ i && (stream c k).st ≠ .unbound && !(stream c k).fromStore && (stream c k).group = g && (stream c k).paths.getLsbD ep)
/-- Join or leave the group of a stream on its ports. -/
def groupChange (c : Chip) (i : Nat) (join : Bool) : Chip :=
  let s := stream c i
  if s.st = .unbound || s.fromStore || !isGroup s.group then c
  else
    let ports := (List.range 2).filter (fun ep => s.paths.getLsbD ep && !groupUsed c i ep s.group)
    { c with out := { c.out with groups := ports.map (fun ep => (ep, join, s.group)) ++ c.out.groups } }

/-- The items of a stream whose binding goes end (log 22). -/
def endItems (c : Chip) (i : Nat) (all : Bool) : Chip :=
  let s := stream c i
  let jobs := (match s.playing with | some x => [x.job] | none => []) ++ (if all then s.sched.map (·.job) else [])
  jobs.foldl (fun c j => if j = 0 then c else endJob c j .failed stINTERRUPTED 0 []) c

/-- No frame of a stream's new binding, or of the item that starts on it, has fed a port yet (R232, R233). -/
def forgetUsed (c : Chip) (i : Nat) (live : Bool) : Chip :=
  { c with ports := c.ports.map (fun p => { p with
      sceneUsed := p.sceneUsed.filter (fun u => u.1 ≠ i || (!live && !u.2.1))
      usedFeed := match p.feed with
        | some (j, item, _) => p.usedFeed && !(j = i && (live || item))
        | none => p.usedFeed }) }

/-- The ports that follow a stream in a frame whose window is open choose again (R233). -/
def followersRenew (c : Chip) (i : Nat) : Chip :=
  (List.range 4).foldl (fun c p =>
    let x := port c p
    let id := (frameIdOf x).toNat
    if x.tt.isSome && x.windowOpen && fld id 31 28 = 0 && fld id 27 24 = i then renewFrame c p else c) c

/-- The stream becomes unbound; the frame of a closed window still reads what is decoded. -/
def unbindStream (c : Chip) (i : Nat) : Chip :=
  let c := forgetUsed (endItems (groupChange c i false) i true) i true
  let c := releaseArea (leaveWork (leaveWork c i false) i true) 4 i
  let kept := (stream c i).live
  let c := updStream c i (fun _ => { live := { hist := kept.hist, ctx := { frameHdr := newestHdr kept } } })
  schedule (dispatchDecoders (followersRenew c i))

/-- The binding that a message carries. -/
def bindingOf (e : Env) : Stream :=
  { st := .unanchored, owner := sid e, fromStore := bit e 0x10 9, streamId := mw e 0x14
    group := BitVec.ofNat 128 (ofBe (bytesOf ((e.msg.drop 6).take 4)))
    udpPort := mf e 0x28 15 0, vlan := mf e 0x28 27 16, paths := BitVec.ofNat 2 (mf e 0x2C 1 0)
    mergeWindow := mf e 0x2C 15 8, keySlot := mf e 0x2C 18 16, activeKey := mf e 0x2C 18 16, authRequired := bit e 0x2C 19
    fallback := mf e 0x30 1 0, fallbackItem := mw e 0x34 }

/-- `stream_bind`. The empty PATHS of Table 3-13 are wrong for a binding, as are a store or an item that is not there; a message
with UNBIND binds nothing (DEDUCED, log 95). A new binding keeps the stream's schedule (DEDUCED, log 22). -/
def streamBindBody : Body := fun e c =>
  let i := mf e 0x10 3 0
  let s := stream c i
  let n := bindingOf e
  if n.mergeWindow > 200 || n.fallback = 3 || n.vlan = 4095 then reject c stINVALID_FIELD
  else if bit e 0x10 8 then
    if s.st = .unbound then (c, ok [])
    else if !mayAct c (sid e) s.owner then reject c stNOT_OWNER
    else (unbindStream c i, ok [])
  else if !n.fromStore && n.paths = 0 then reject c stINVALID_FIELD
  else if (n.fallback = 1 && (!storePresent c || (storeItem? c n.fallbackItem).isNone)) || (n.fromStore && !storePresent c) then
    reject c stUNKNOWN_RESOURCE
  else if !mayAct c (sid e) s.owner then reject c stNOT_OWNER
  else
    match (if s.st = .unbound then reserveArea c 4 i (128 * 2 ^ 20) false false false else some c) with
    | none => reject c stNO_SPACE
    | some c =>
      let c := forgetUsed (endItems (groupChange c i false) i false) i true
      let c := leaveWork (leaveWork c i false) i true
      let sched := s.sched.map (fun x => { x with left := [], readCount := 0 })
      let path : PathState := { lastNs := nowNs c }
      let ahead := if n.fallback = 1 then readItem c n.fallbackItem 0 (64 * 2 ^ 20) else []
      let c := updStream c i (fun _ => { n with sched := sched, loopAhead := ahead, path0 := path, path1 := path, heardNs := nowNs c })
      let c := groupChange c i true
      (schedule (dispatchDecoders (followersRenew c i)), ok [])

/-! ## Commands -/

/-- DST_PACKET_RECEIVED (R98 to R109, R112 to R114, R142 to R149). -/
def execDstPacketReceived (ep : Fin 2) (d : Datagram) (s : State) : Host.Outcome State Fault Refusal :=
  .next (s.runLive (receive ep.val d))
/-- HOLE_DECLARED_LOST (R105 to R107). -/
def execHoleDeclaredLost (st : Fin 16) (seq : U32) (s : State) : Host.Outcome State Fault Refusal :=
  .next (s.runLive (windowElapsed st.val seq.toNat))
/-- DST_PATH_SILENT (R105). -/
def execDstPathSilent (st : Fin 16) (ep : Fin 2) (s : State) : Host.Outcome State Fault Refusal :=
  .next (s.runLive (pathSilent st.val ep.val))
/-- DST_PATH_DOWN (R99, R105). -/
def execDstPathDown (ep : Fin 2) (s : State) : Host.Outcome State Fault Refusal := .next (s.runLive (pathDown ep.val))
/-- DST_PATH_UP (R99). -/
def execDstPathUp (ep : Fin 2) (rateGbs : Nat) (s : State) : Host.Outcome State Fault Refusal :=
  .next (s.runLive (pathUp ep.val rateGbs))
/-- DST_STREAM_LOST (R108, R110). -/
def execDstStreamLost (st : Fin 16) (s : State) : Host.Outcome State Fault Refusal := .next (s.runLive (streamLost st.val))
/-- DST_ANCHOR_REQUESTED (R108, R109). -/
def execDstAnchorRequested (st : Fin 16) (s : State) : Host.Outcome State Fault Refusal := .next (s.runLive (anchorAgain st.val))
/-- AUTH_TRAILER_TIMEOUT (R114). -/
def execAuthTrailerTimeout (st : Fin 16) (frame : U32) (s : State) : Host.Outcome State Fault Refusal :=
  .next (s.runLive (trailerLate st.val frame.toNat))
/-- DST_COUNTERS (R115). -/
def execDstCounters (ep : Fin 2) (s : State) : Host.Outcome State Fault Refusal := .next (s.runLive (dropCounters ep.val))
/-- NETWORK_CONTROL_FRAME (R98). -/
def execNetworkControlFrame (ep : Fin 2) (f : ControlFrame) (s : State) : Host.Outcome State Fault Refusal :=
  .next (s.runLive (controlFrame ep.val f))
/-- TILE_ROW_DECODED (R125 to R156). -/
def execTileRowDecoded (r : DecoderReport) (s : State) : Host.Outcome State Fault Refusal :=
  .next (s.runLive (fun c =>
    let i := match (nth c.decs r.dd.val).work with
      | some p => p.1
      | none => 0
    afterIngest (rowDone c r.dd.val r.outputFull) i))
/-- DECODE_RESUME (R152, R154). -/
def execDecodeResume (dd : Fin 8) (s : State) : Host.Outcome State Fault Refusal :=
  .next (s.runLive (fun c => takeWork c true dd.val))
/-- STREAM_BIND (R108, R111). -/
def execStreamBind (via : Via) (s : State) : Host.Outcome State Fault Refusal :=
  .next (cciCommand 0x10 neverBusy streamBindBody via s)

end Sys2Proof.Machine
end

