-- ==== Sys2Proof/Machine/Persist.lean ====
section
/-!
DEFINITION. Persistence copies (R118, R300, R305, R306): their bytes on a drive, reading them back, and which copy is used.
-/

namespace Sys2Proof.Machine

/-! ## Drive parameters (Table 10-10) -/

/-- The 192 bytes of drive parameters. -/
def paramBytes (d : DriveParams) : List Byte :=
  let b := leBytes 0x4450524D 4 ++ leBytes 1 2 ++ leBytes d.ageRate 2 ++ (List.range 4).flatMap (fun k => leBytes (nth d.iref k) 2) ++
    leBytes (d.hot % 65536).toNat 2 ++ List.replicate 14 0#8 ++ (List.range 64).flatMap (fun k => leBytes (nth d.t k) 2) ++
    (List.range 16).flatMap (fun k => leBytes (nth d.w k) 2)
  patch b 0x1C (leBytes (crc32c b) 4)
/-- The drive parameters that bytes hold. -/
def paramsOf (b : List Byte) : DriveParams :=
  { ageRate := byteOf b 6, iref := (List.range 4).map (fun k => le16 b (8 + 2 * k)), hot := signed 16 (le16 b 0x10)
    t := (List.range 64).map (fun k => le16 b (0x20 + 2 * k)), w := (List.range 16).map (fun k => le16 b (0xA0 + 2 * k)) }

/-! ## Copies (Table 10-11) -/

/-- One bit per row of 288 bytes, row 0 in bit 0 of byte 0. -/
def seededBytes (l : List Nat) : List Byte :=
  (List.range 288).map (fun k => BitVec.ofNat 8 (total ((List.range 8).map (fun b => if l.contains (8 * k + b) then 2 ^ b else 0))))
/-- Values of a geometry, the offset of their counters, and the length of the copy. -/
def copyValues (x : Persist) : Nat := x.w * x.h * x.dirs * 3
def counterStart (v : Nat) : Nat := 0x1000 + roundUp v 4096
def copyLength (v : Nat) : Nat := counterStart v + 2 * v
/-- The bytes of a copy. -/
def persistBytes (x : Persist) : List Byte :=
  let v := copyValues x
  let b := leBytes 0x50455253 4 ++ leBytes x.seq 4 ++ leBytes x.deviceId.toNat 8 ++ leBytes x.w 2 ++ leBytes x.h 2 ++
    leBytes x.dirs 4 ++ leBytes x.timeS 8 ++ paramBytes x.params ++ seededBytes x.seeded ++ List.replicate 0xE00 0#8 ++
    (List.range v).map (fun k => BitVec.ofNat 8 (nth x.map k)) ++ List.replicate (counterStart v - 0x1000 - v) 0#8 ++
    (List.range v).flatMap (fun k => leBytes (nth x.counters k) 2)
  patch b 0xFFC (leBytes (crc32c b) 4)
/-- Read a copy; none where it is not complete: its MAGIC or its CRC is wrong. -/
def readPersist (b : List Byte) : Option Persist :=
  let x : Persist :=
    { seq := le32 b 4, deviceId := BitVec.ofNat 64 (ofLe (slice b 8 8)), w := le16 b 0x10, h := le16 b 0x12, dirs := byteOf b 0x14
      timeS := ofLe (slice b 0x18 8), params := paramsOf (slice b 0x20 192)
      seeded := (List.range 2304).filter (fun y => (byteOf b (0xE0 + y / 8)).testBit (y % 8)) }
  let v := copyValues x
  if le32 b 0 ≠ 0x50455253 || b.length < copyLength v || crcZeroed (b.take (copyLength v)) 0xFFC ≠ le32 b 0xFFC then none
  else
    let at_ := counterStart v
    some { x with map := (List.range v).map (fun k => byteOf b (0x1000 + k))
                  counters := (List.range v).map (fun k => le16 b (at_ + 2 * k)) }

/-! ## Which copy (R118, R304, R306) -/

def driveCopy (d : Drive) (b : Bool) : List Byte := if b then d.copyB else d.copyA
/-- The complete copies that the drives in service hold, B true. -/
def completeCopies (c : Chip) : List (Bool × Persist) :=
  (drivesUp c).flatMap (fun d => [false, true].filterMap (fun b => (readPersist (driveCopy d b)).map (fun x => (b, x))))
/-- The newest of several copies. -/
def newestOf (l : List (Bool × Persist)) : Option (Bool × Persist) :=
  l.foldl (fun best x => match best with
    | none => some x
    | some y => if 0 < seqDiff x.2.seq y.2.seq then some x else some y) none
/-- The newest complete copy. -/
def newestCopy (c : Chip) : Option (Bool × Persist) := newestOf (completeCopies c)
/-- The newest complete copy that matches the device and the geometry in force (R306); none while the last write failed on
every drive or found none (R118). -/
def matchingCopy (c : Chip) : Option Persist :=
  match c.tables.panel with
  | none => none
  | some pd =>
    if c.store.noSource then none
    else (newestOf ((completeCopies c).filter (fun x =>
      x.2.deviceId = c.shadow.deviceId && x.2.w = pd.w && x.2.h = pd.h && x.2.dirs = pd.dirs))).map (·.2)
/-- The byte that a copy holds for an offset of the map (code 2) or of the counters. -/
def copyByte (x : Persist) (code off : Nat) : Byte :=
  if code = 2 then BitVec.ofNat 8 (nth x.map off) else BitVec.ofNat 8 (nth x.counters (off / 2) / (if off % 2 = 0 then 1 else 256))

/-! ## Writing -/

/-- The drives in service change. -/
def updDrivesUp (c : Chip) (f : Drive → Drive) : Chip :=
  let g := fun (d : Drive) => if d.up then f d else d
  { c with store := { c.store with drive0 := g c.store.drive0, drive1 := g c.store.drive1 } }
/-- The bytes of copy A or B of a drive. -/
def setCopy (b : Bool) (l : List Byte) (d : Drive) : Drive := if b then { d with copyB := l } else { d with copyA := l }

end Sys2Proof.Machine
end

