-- ==== Sys2Proof/Machine/Store.lean ====
section
/-!
DEFINITION. The content store: drives, items, schedules, playback and aborts (R116 to R123, R89), persistence copies of the
correction map and stress counters (R118, R304, R305).
-/

namespace Sys2Proof.Machine

/-! ## Items (R119) -/

def driveOf? (c : Chip) (k : Nat) : Drive := if k = 0 then c.store.drive0 else c.store.drive1
def updStore (c : Chip) (f : Store → Store) : Chip := { c with store := f c.store }
/-- The system area of a drive (Table 4-7), offsets and sizes: the directory with its two copies, persistence copies A and B, a
reserved part. -/
def systemArea : List (Nat × Nat) :=
  [(0, 2 ^ 30), (2 ^ 30, 12 * 2 ^ 30), (13 * 2 ^ 30, 12 * 2 ^ 30), (25 * 2 ^ 30, 7 * 2 ^ 30)]
/-- Where the item area begins. -/
def itemStart : Nat := maxOf (systemArea.map (fun a => a.1 + a.2))
/-- Bytes of the item area: of the first 16 TB of the smaller drive (R116, R117). -/
def itemArea (c : Chip) : Nat := minOf ((drivesUp c).map (fun d => min d.capacity 16000000000000)) - itemStart
/-- Bytes that neither items nor items being written take. -/
def freeBytes (c : Chip) : Nat :=
  itemArea c - total ((storeItems c).map (·.bytes)) - total (c.store.puts.map (·.bytes))
/-- Items of the store, those being written for the first time included. -/
def itemsTaken (c : Chip) : Nat := (storeItems c).length + c.store.puts.countP (fun x => (storeItem? c x.item).isNone)

/-- The free ranges of a space up to its end, from an offset on, between taken ranges in order. -/
def gaps : List (Nat × Nat) → Nat → Nat → List (Nat × Nat)
  | [], at_, top => if at_ < top then [(at_, top - at_)] else []
  | u :: l, at_, top => (if at_ < u.1 then [(at_, u.1 - at_)] else []) ++ gaps l (u.1 + u.2) top
/-- The first n bytes of free ranges. -/
def takeExtents : List (Nat × Nat) → Nat → List (Nat × Nat)
  | [], _ => []
  | g :: l, n => if n = 0 then [] else (g.1, min g.2 n) :: takeExtents l (n - min g.2 n)
/-- The free extents of a drive that an item of n bytes is written into: the lowest ones (DESIGN CHOICE, log 96). -/
def extentsFor (d : Drive) (n : Nat) : List (Nat × Nat) :=
  takeExtents (gaps (sortBy (fun a b => decide (a.1 < b.1)) (d.dir.extents.flatMap (·.2))) itemStart (min d.capacity 16000000000000)) n
/-- Both copies of a drive's directory switch in one step (R117, R119). -/
def setDir (d : Drive) (f : Directory → Directory) : Drive := { d with dir := f d.dir, dirCopy := f d.dir }
/-- An item leaves a drive. -/
def dropItem (id : Nat) (d : Drive) : Drive :=
  { setDir d (fun x => { x with items := x.items.filter (fun y => y.id ≠ id), extents := x.extents.filter (fun y => y.1 ≠ id) }) with
    bad := d.bad.filter (· ≠ id) }
/-- An item is written into free extents of a drive, and the directory switches to it. -/
def addItem (it : Item) (d : Drive) : Drive :=
  let e := extentsFor d it.bytes
  setDir (dropItem it.id d) (fun x => { x with items := x.items ++ [it], extents := x.extents ++ [(it.id, e)] })

/-- The packets of a buffer, each padded to 32 bytes, with their STREAM_IDs: none where a header fails. -/
def packetsOf : Nat → List Byte → Option (List (Nat × Packet))
  | 0, b => if b = [] then some [] else none
  | k + 1, b =>
    if b = [] then some []
    else if b.length < 32 then none
    else
      let n := 32 + fld (be32 b 0) 15 0
      if b.length < n then none
      else match parsePacket 0 (b.take n) with
        | none => none
        | some p => (packetsOf k (b.drop (roundUp n 32))).map (p :: ·)
/-- R119: the packets of an item with its STREAM_ID. -/
def itemPackets (b : List Byte) : Option (Nat × List Packet) :=
  match packetsOf (b.length / 32 + 1) b with
  | some ((i, m) :: (j, d) :: rest) =>
    let l := (i, m) :: (j, d) :: rest
    if m.typ = 3 && d.typ ≤ 2 && d.station && d.frame = m.frame && l.all (fun x => x.1 = i) then some (i, l.map (·.2)) else none
  | _ => none
def frameCount (l : List Packet) : Nat := ((l.map (·.frame)).foldr insertSorted []).length

/-- R119: an item that plays, or that a bound stream falls back to. -/
def itemBusy (c : Chip) (id : Nat) : Bool :=
  c.streams.any (fun s => s.st ≠ .unbound &&
    ((s.fallback = 1 && s.fallbackItem = id) || (s.playing.map (·.item)) = some id))

/-- Check 6 (R79): the store item that a command names is busy with an unfinished `store_put`. -/
def storeBusy : Env → Chip → Bool := fun e c => c.store.puts.any (fun x => x.item = mw e 0x10)
/-- R80: a scheduled or playing item belongs to the session that scheduled it, and only that session may change it. -/
def itemFree (c : Chip) (sess id : Nat) : Bool :=
  c.streams.all (fun s => (s.playing.toList ++ s.sched).all (fun x => x.item ≠ id || x.job = 0 || mayAct c sess x.owner))

/-- `store_put`: its buffer is read as the job runs. -/
def storePutBody : Body := fun e c =>
  let id := mw e 0x10
  let b := bufAt e 0x14
  if b.kind > 1 || !bufKindOk e b then reject c stINVALID_FIELD
  else if !storePresent c then reject c stUNKNOWN_RESOURCE
  else
    match bufFault c (sid e) false b with
    | some st => reject c st
    | none =>
      if !itemFree c (sid e) id then reject c stNOT_OWNER
      else if jobsFull c || ((storeItem? c id).isNone && 4096 ≤ itemsTaken c) || freeBytes c < b.len then
        reject c stNO_SPACE
      else if itemBusy c id then reject c stIN_USE
      else
        let n := newJob c 0x30 (tagOf e) (sid e) (bufHolds b)
        let put : StorePut := { job := n.1, item := id, bytes := b.len, buf := [b.lo, b.hi, b.len, b.kind] }
        (updStore n.2 (fun s => { s with puts := put :: s.puts }),
         { status := stACCEPTED, result := [w n.1] })

/-- A held abort names a job (R89). -/
def abortWaits (c : Chip) (job : Nat) : Bool := (c.cci.held.map (·.job)) = some job
def finishedAs (c : Chip) (job : Nat) : Terminal := if abortWaits c job then .completedBeforeAbort else .completed
def dropPut (c : Chip) (job : Nat) : Chip := updStore c (fun s => { s with puts := s.puts.filter (fun x => x.job ≠ job) })

/-- What a `store_put` reads of its buffer; a transfer of KIND 0 is judged as it is made (R425). -/
def putData (c : Chip) (x : StorePut) : Chip × Option (List Byte) :=
  bufRead c [] { lo := nth x.buf 0, hi := nth x.buf 1, len := nth x.buf 2, kind := nth x.buf 3 } 0 (nth x.buf 2)
/-- STORE_PUT_DONE: the buffer has been read, and the directory switches to the item in one step. -/
def putDone (job : Nat) (c : Chip) : Chip :=
  match c.store.puts.find? (fun x => x.job = job) with
  | none => c
  | some x =>
    let r := putData (dropPut c job) x
    let c := r.1
    match r.2 with
    | none => endJob c job .failed stTRANSFER_FAULT 0 []
    | some d =>
      if x.failure ≠ 0 then endJob c job .failed x.failure 0 []
      else match itemPackets d with
        | none => endJob c job .failed stINVALID_FIELD 0 []
        | some y =>
          if !storePresent c then endJob c job .failed stTRANSFER_FAULT 0 []
          else
            let it : Item := { id := x.item, frames := frameCount y.2, bytes := x.bytes, streamId := y.1,
                               created := w32 c.time.sec.toNat, packets := y.2 }
            endJob (updDrivesUp c (addItem it)) job (finishedAs c job) 0 0 []
/-- An endpoint reset cuts off the transfers of KIND 0 buffers that jobs are making (R426). -/
def cutTransfers (c : Chip) : Chip :=
  let c := updStore c (fun s => { s with puts := s.puts.map (fun x => if nth x.buf 3 = 0 then { x with failure := stTRANSFER_FAULT } else x) })
  { c with start := { c.start with fwCut := c.start.fwCut || (c.start.fwJob ≠ 0 && c.start.fwBuf ≠ [] && nth c.start.fwBuf 3 = 0) } }

/-- `store_delete`. -/
def storeDeleteBody : Body := fun e c =>
  let id := mw e 0x10
  if !storePresent c || (storeItem? c id).isNone then reject c stUNKNOWN_RESOURCE
  else if !itemFree c (sid e) id then reject c stNOT_OWNER
  else if itemBusy c id then reject c stIN_USE
  else (updDrivesUp c (dropItem id), ok [])

/-- Only one drive holds a good copy of an item. -/
def degraded (c : Chip) (x : Item) : Bool := (drivesUp c).countP (fun d => holdsItem d x) ≤ 1
/-- The list of Table 4-8. -/
def storeListBytes (c : Chip) : List Byte :=
  leBytes (storeItems c).length 4 ++ leBytes (freeBytes c) 8 ++ leBytes (b01 ((drivesUp c).length = 2)) 4 ++
  (storeItems c).flatMap (fun x => leBytes x.id 4 ++ leBytes x.frames 4 ++ leBytes x.bytes 8 ++ leBytes x.streamId 4 ++
    leBytes x.created 4 ++ leBytes (b01 (degraded c x)) 8)
/-- `store_list`. -/
def storeListBody : Body := fun e c =>
  let b := bufAt e 0x10
  if !bufKindOk e b then reject c stINVALID_FIELD
  else if !storePresent c then reject c stUNKNOWN_RESOURCE
  else
    match bufFault c (sid e) true b with
    | some st => reject c st
    | none =>
      let d := storeListBytes c
      if b.len < d.length then (c, { status := stBUFFER_SHORT, result := [w d.length] })
      else giveData c b d [w d.length]

/-! ## Schedules (R121, R123) -/

/-- Frame period of the port that a stream feeds; 0 where none does. -/
def periodOf (c : Chip) (i : Nat) : Nat := match (portOf c i).bind (fun p => (port c p).tt) with
  | some t => t.period
  | none => 0
/-- The end of a schedule; a LOOP item has none. -/
def scheduleEnd (c : Chip) (i : Nat) (x : Schedule) : Nat :=
  if x.loop then 2 ^ 100 else x.startNs + ((storeItem? c x.item).getD {}).frames * periodOf c i
/-- Two schedules overlap in time. -/
def overlaps (c : Chip) (i : Nat) (a b : Schedule) : Bool :=
  a.startNs < max (scheduleEnd c i b) (b.startNs + 1) && b.startNs < max (scheduleEnd c i a) (a.startNs + 1)

/-- `store_schedule`. -/
def storeScheduleBody : Body := fun e c =>
  let id := mw e 0x10
  let i := mf e 0x14 3 0
  let s := stream c i
  let start := fullSeconds c (mw e 0x1C) * 1000000000 + mw e 0x18
  let x : Schedule := { item := id, startNs := start.toNat, loop := bit e 0x20 0, owner := sid e,
                        late := decide (start < (nowNs c : Int) + 100000000) }
  let others := (match s.playing with | some y => if y.job = 0 then [] else [y] | none => []) ++ s.sched
  if 1000000000 ≤ mw e 0x18 then reject c stINVALID_FIELD
  else if !storePresent c || (storeItem? c id).isNone || s.st = .unbound then reject c stUNKNOWN_RESOURCE
  else if !mayAct c (sid e) s.owner then reject c stNOT_OWNER
  else if jobsFull c then reject c stNO_SPACE
  else if others.any (overlaps c i x) then reject c stIN_USE
  else
    let n := newJob c 0x32 (tagOf e) (sid e) []
    (updStream n.2 i (fun s => { s with sched := insertBy (fun a b => a.startNs < b.startNs) { x with job := n.1 } s.sched }),
     { status := stACCEPTED, result := [w n.1] })

/-! ## Reading and playing (R110, R121, R122) -/

/-- Bytes of an item that wait in the stream's ring. -/
def waitingBytes (x : Schedule) : Nat := total (x.left.map packetBytes)
/-- Read ahead into the room of the stream's ring. -/
def readAhead (c : Chip) (room : Nat) (x : Schedule) : Schedule :=
  let more := readItem c x.item x.readCount room
  { x with left := x.left ++ more, readCount := x.readCount + more.length }
/-- R106: bytes of a stream's ring. -/
def ringBytes : Nat := 128 * 2 ^ 20
/-- STORE_READ_AHEAD: from 100 ms before START, and while an item plays. -/
def readAheadOn (i : Nat) (c : Chip) : Chip :=
  updStream c i (fun s =>
    let playing := s.playing.map (fun x => readAhead c (ringBytes - waitingBytes x) x)
    let used := total (playing.toList.map waitingBytes)
    { s with
      playing := playing
      sched := match s.sched with
        | x :: rest => (if x.startNs ≤ nowNs c + 100000000 then readAhead c (ringBytes - used - waitingBytes x) x else x) :: rest
        | [] => [] })

/-- The whole next frame of an item has been read. -/
def nextFrameRead (c : Chip) (x : Schedule) : Bool :=
  match x.left with
  | [] => false
  | p :: _ => x.left.any (fun q => q.frame ≠ p.frame) || x.readCount = ((storeItem? c x.item).getD {}).packets.length

/-- Hand the next frame of the playing item to the decoders; where the item has restarted, with a fresh context (R121,
R122). -/
def playFrame (c : Chip) (i : Nat) : Chip :=
  match (stream c i).playing with
  | none => c
  | some x =>
    match x.left with
    | [] => c
    | p :: _ =>
      let now := x.left.filter (fun q => q.frame = p.frame)
      let c := if x.again then forgetUsed (updStream (leaveWork c i true) i (fun s => { s with item := {} })) i false else c
      let c := updStream c i (fun s => { s with playing := some { x with left := x.left.filter (fun q => q.frame ≠ p.frame), again := false } })
      markBegun (finishFrames 64 (now.foldl (fun c q => handPacket c i true q) c) i true) i true p.frame

/-- An item starts on a stream with a fresh context; the live context is kept, and live frames already begun go on (R122,
R158). -/
def startItem (c : Chip) (i : Nat) (x : Schedule) (rest : List Schedule) : Chip :=
  playFrame (updStream c i (fun s => { s with playing := some { x with again := true }, sched := rest })) i

/-- The loop of FALLBACK 1 starts or ends (R110): it begins with the packets read at `stream_bind`. -/
def loopBoundary (c : Chip) (i : Nat) : Chip :=
  let s := stream c i
  match s.playing with
  | some x =>
    if x.job = 0 && s.st = .anchored then updStream (leaveWork c i true) i (fun s => { s with playing := none, item := {} })
    else c
  | none =>
    if s.fallback = 1 && (s.st = .unanchored || s.st = .fallback) && !s.afterItem && s.loopAhead ≠ [] then
      let x : Schedule := { item := s.fallbackItem, loop := true, left := s.loopAhead, readCount := s.loopAhead.length }
      startItem c i (readAhead c (ringBytes - waitingBytes x) x) s.sched
    else c

/-- STO_UNDERRUN: frame n of an item is not ready. -/
def underrun (c : Chip) (i : Nat) (x : Schedule) (n : Nat) : Chip := raiseJob c x.job x.owner 0xD011 [w i, w x.item, w n]
/-- The next frame of a playing item, or STO_UNDERRUN. -/
def advanceItem (c : Chip) (i : Nat) : Chip :=
  match (stream c i).playing with
  | none => c
  | some x =>
    if nextFrameRead c x then playFrame c i
    else
      let it := (storeItem? c x.item).getD {}
      if x.left = [] && x.readCount = it.packets.length then c
      else underrun c i x (w32 (((stream c i).item.begun).getD 0 + 1))

/-- What a stream's items do at a boundary, before the frame of boundary `next` is synthesised. An item whose START has
come starts where its first frame is read, also while no Stationmaster pair serves: R17 speaks only of the item that plays
(log 91). At half rate an item moves on at each boundary used, and its end in the schedule counts the full period (DESIGN CHOICE,
log 111). A start that is not late and has nothing to show is an underrun. -/
def streamBoundary (next : Nat) (c : Chip) (i : Nat) : Chip :=
  let s := stream c i
  let goOn := fun (c : Chip) => if s.playing.isSome then loopBoundary (advanceItem c i) i else loopBoundary c i
  if s.st = .unbound then c
  else if itemPlays s then advanceItem c i
  else
    match s.sched with
    | x :: rest =>
      if x.startNs ≤ next && nextFrameRead c x then startItem c i x rest
      else if x.startNs ≤ next && !x.late then
        goOn (underrun c i x ((((storeItem? c x.item).getD {}).packets.headD {}).frame))
      else goOn c
    | [] => goOn c
/-- R121: the streams that a port's FRAME_ID in force names. -/
def storeBoundary (c : Chip) (p next : Nat) : Chip :=
  (List.range 16).foldl (fun c i => if portOf c i = some p then streamBoundary next c i else c) c

/-- STO_ITEM_STARTED, when the first frame of an item becomes front on a port (R121); the frame that it names is the port's
(DEDUCED, log 110). -/
def itemShown (c : Chip) (p f : Nat) : Chip :=
  match (port c p).feed with
  | some (i, true, _) =>
    match (stream c i).playing with
    | some x =>
      if x.job = 0 || x.shown then c
      else
        let c := updStream c i (fun s => { s with playing := some { x with shown := true } })
        let c := raiseJob c x.job x.owner 0xD010 [w i, w x.item, w f]
        if x.late then raiseJob c x.job x.owner 0xD012 [w i, w x.item, w ((nowNs c - x.startNs) / 1000)] else c
    | none => c
  | _ => c

/-- R122, R158: switch back from stored content; `good` where the CRC of the restored context is right. One whose CRC is
wrong is discarded, and the stream starts from an empty context. -/
def switchBack (c : Chip) (i : Nat) (good : Bool) : Chip :=
  let network := !(stream c i).fromStore
  let c := leaveWork (updStream c i (fun s => { s with playing := none, afterItem := network && (s.item.lastReady).isSome })) i true
  if !network then c
  else if !good then unanchor (updStream (leaveWork c i false) i (fun s => { s with live := {} })) i false 4
  else
    let x := (stream c i).live.ctx
    let bits := fun (f : DynSlot → Bool) => maskOf ((List.range 4).filter (fun k => f (nth x.slots k)))
    let c := updChannel c i false (fun ch => { ch with hist := ch.hist.map (fun a => { a with restored := true }) })
    let c := raiseOwn c (stOwner c i) 0x2011 [w i, w x.lastGen, w (bits (·.valid)), w (bits (·.doubt))]
    unanchor c i false 4

/-- Drives that fail to read an item (R116). -/
def markBad (c : Chip) (id : Nat) (cs0 cs1 : Bool) : Chip :=
  let note := fun (failed : Bool) (d : Drive) => if failed && d.up then { d with bad := id :: d.bad.filter (· ≠ id) } else d
  updStore c (fun s => { s with drive0 := note cs0 s.drive0, drive1 := note cs1 s.drive1 })
/-- The item that a stream reads: the one that plays under a schedule, the next whose reading has begun, or its loop. -/
def itemRead (c : Chip) (s : Stream) : Option Schedule :=
  if itemPlays s then s.playing
  else match s.sched with
    | x :: _ => if x.startNs ≤ nowNs c + 100000000 then some x else s.playing
    | [] => s.playing
/-- The data of the item that a stream reads cannot be read from any drive (R123). -/
def itemFails (c : Chip) (i : Nat) (x : Schedule) (good : Bool) : Chip :=
  if (stream c i).playing = some x then
    if x.job = 0 then updStream (leaveWork c i true) i (fun s => { s with playing := none })
    else switchBack (endJob c x.job .failed stTRANSFER_FAULT 0 []) i good
  else endJob (updStream c i (fun s => { s with sched := s.sched.filter (fun y => y.job ≠ x.job) })) x.job .failed stTRANSFER_FAULT 0 []

/-- ITEM_END. -/
def itemEnds (i : Nat) (cause : ItemEndCause) (good : Bool) (c : Chip) : Chip :=
  let c := match cause, (stream c i).playing with
    | .lastFrame, some x =>
      if x.loop then
        let first := if x.job = 0 then (stream c i).loopAhead else []
        let y := { x with left := first, readCount := first.length, again := true }
        updStream c i (fun s => { s with playing := some (readAhead c (ringBytes - waitingBytes y) y) })
      else switchBack (endJob c x.job (finishedAs c x.job) 0 0 []) i good
    | .readFailed cs0 cs1, _ =>
      match itemRead c (stream c i) with
      | none => c
      | some x =>
        let c := markBad c x.item cs0 cs1
        if itemReadable c x.item then c else itemFails c i x good
    | .lastFrame, none => c
  schedule (dispatchDecoders c)

/-! ## Aborts (R89) -/

/-- `store_abort`: the response is held until the abort settles. -/
def storeAbortBody : Body := fun e c =>
  if !storePresent c then reject c stUNKNOWN_RESOURCE
  else
  match abortCheck c e [0x30, 0x32] with
  | .inl r => (c, r)
  | .inr j => (c, { status := stOK, held := some j.id })

/-- The stream on which a schedule's job stands. -/
def streamOfJob (c : Chip) (job : Nat) : Option Nat :=
  (List.range 16).find? (fun i => (stream c i).sched.any (fun x => x.job = job) || ((stream c i).playing.map (·.job)) = some job)

/-- ABORT_SETTLED: the boundary of R89 is reached. -/
def settleAbort (job : Nat) (good : Bool) (c : Chip) : Chip :=
  if !abortWaits c job then c
  else
    match c.movers.find? (fun j => j.id = job) with
    | some j => schedule (settleMoverAbort c j)
    | none =>
      if c.store.puts.any (fun x => x.job = job) then endJob (dropPut c job) job .aborted 0 0 []
      else
        match streamOfJob c job with
        | none => c
        | some i =>
          if ((stream c i).playing.map (·.job)) = some job then
            schedule (dispatchDecoders (switchBack (endJob c job .aborted 0 0 []) i good))
          else
            endJob (updStream c i (fun s => { s with sched := s.sched.filter (fun x => x.job ≠ job) })) job .aborted 0 0xFFFFFFFF []

/-! ## Drives and persistence (R116, R118, R304, R305) -/

/-- The items of another drive's directory. -/
def contentItems (x : DriveContent) : List Item :=
  x.items.filterMap (fun it => (itemPackets it.2.2).map (fun p =>
    { id := it.1.toNat, frames := frameCount p.2, bytes := it.2.2.length, streamId := p.1, created := it.2.1.toNat, packets := p.2 }))
/-- A drive comes up (R116): with what it holds, where it is another than the one that stood there. -/
def driveUp (k : Nat) (r : DriveReport) (c : Chip) : Chip :=
  if !running c || (driveOf? c k).up || (k = 1 && !c.cfg.csTwoPorts) then c
  else
    match r.missing with
    | some f => raise c 0xD003 [w k, f]
    | none =>
      let d : Drive := match r.content with
        | none => { driveOf? c k with up := true, capacity := r.capacity }
        | some x => (contentItems x).foldl (fun d it => addItem it d) (setDir
            { up := true, capacity := r.capacity, copyA := x.copyA, copyB := x.copyB } (fun y => { y with identity := x.identity }))
      let c := updStore c (fun s => if k = 0 then { s with drive0 := d } else { s with drive1 := d })
      raise c 0xD001 [w k, w r.capacity, w (r.capacity / 2 ^ 32)]
/-- A drive goes down (R116). -/
def driveDown (k : Nat) (c : Chip) : Chip :=
  if !(driveOf? c k).up then c
  else
    let off := fun (d : Drive) => { d with up := false }
    raise (updStore (actionDone c 10 k) (fun s => if k = 0 then { s with drive0 := off s.drive0 } else { s with drive1 := off s.drive1 })) 0xD002 [w k]

/-- Start a persistence write into the copy that does not hold the newest complete set, on every drive in service. -/
def startPersist (c : Chip) : Chip :=
  if !storePresent c then raise (updStore c (fun s => { s with noSource := true })) 0xD021 [0]
  else
    let target := match newestCopy c with
      | some x => !x.1
      | none => false
    updStore (updDrivesUp c (setCopy target [])) (fun s => { s with writing := some (target, c.time.sec.toNat) })
/-- PERSISTENCE_TIMER (R118). -/
def persistTimer (c : Chip) : Chip :=
  if c.start.st ≠ .released || !smServes c || c.store.writing.isSome then c else startPersist c

/-- Values of the section. -/
def valueCount (pd : Panel) : Nat := pd.w * pd.h * pd.dirs * 3
def countAt (c : Chip) (i : Nat) : Nat := match findArea c 3 0 with
  | some a => (byteAt c (areaPlace a (2 * i))).toNat + 256 * (byteAt c (areaPlace a (2 * i + 1))).toNat
  | none => 0
/-- What a copy takes now, of a write that began at PTP second `start`. -/
def persistOf (c : Chip) (seq start : Nat) : Persist :=
  let pd := c.tables.panel.getD {}
  let d := c.power.params
  { seq := seq, deviceId := c.shadow.deviceId, w := pd.w, h := pd.h, dirs := pd.dirs,
    timeS := start, params := d, seeded := c.power.seeded,
    map := (List.range (valueCount pd)).map (mapCode c), counters := (List.range (valueCount pd)).map (countAt c) }
/-- The write ends: STO_PERSISTED, or STO_PERSIST_FAILED where no drive took it whole. -/
def persisted (written : BitVec 2) (c : Chip) : Chip :=
  match c.store.writing with
  | none => c
  | some (b, start) =>
    let took := fun (k : Nat) => written.getLsbD k && (driveOf? c k).up
    let fails := !took 0 && !took 1
    let c := updStore c (fun s => { s with writing := none, noSource := fails })
    if fails then raise c 0xD021 [1]
    else
      let seq := match newestCopy c with
        | some x => w32 (x.2.seq + 1)
        | none => 1
      let bytes := persistBytes (persistOf c seq start)
      let put := fun (k : Nat) (d : Drive) => if took k then setCopy b bytes d else d
      let c := { c with start := { c.start with shutPersistFailed := false } }
      raise (updStore c (fun s => { s with drive0 := put 0 s.drive0, drive1 := put 1 s.drive1 })) 0xD020 [w (b01 b), w seq]

/-! ## Commands -/

/-- STORE_PUT (R119). -/
def execStorePut (via : Via) (s : State) : Host.Outcome State Fault Refusal := .next (cciCommand 0x30 storeBusy storePutBody via s)
/-- STORE_DELETE (R119). -/
def execStoreDelete (via : Via) (s : State) : Host.Outcome State Fault Refusal :=
  .next (cciCommand 0x31 storeBusy storeDeleteBody via s)
/-- STORE_SCHEDULE (R121, R123, R372). -/
def execStoreSchedule (via : Via) (s : State) : Host.Outcome State Fault Refusal :=
  .next (cciCommand 0x32 storeBusy storeScheduleBody via s)
/-- STORE_LIST (R120). -/
def execStoreList (via : Via) (s : State) : Host.Outcome State Fault Refusal := .next (cciCommand 0x33 neverBusy storeListBody via s)
/-- STORE_ABORT (R71, R89). -/
def execStoreAbort (via : Via) (s : State) : Host.Outcome State Fault Refusal :=
  .next (cciCommand 0x34 neverBusy storeAbortBody via s)
/-- ABORT_SETTLED (R89). -/
def execAbortSettled (r : AbortReport) (s : State) : Host.Outcome State Fault Refusal :=
  .next (s.runLive (settleAbort r.job.toNat r.contextGood))
/-- STORE_PUT_DONE (R119). -/
def execStorePutDone (job : U32) (s : State) : Host.Outcome State Fault Refusal := .next (s.runLive (putDone job.toNat))
/-- STORE_READ_AHEAD (R121). -/
def execStoreReadAhead (st : Fin 16) (s : State) : Host.Outcome State Fault Refusal := .next (s.runLive (readAheadOn st.val))
/-- ITEM_END (R121 to R123, R158). -/
def execItemEnd (st : Fin 16) (r : ItemEndReport) (s : State) : Host.Outcome State Fault Refusal :=
  .next (s.runLive (itemEnds st.val r.cause r.contextGood))
/-- STO_DRIVE_UP (R116). -/
def execStoDriveUp (cs : Fin 2) (r : DriveReport) (s : State) : Host.Outcome State Fault Refusal :=
  .next (s.runLive (driveUp cs.val r))
/-- STO_DRIVE_DOWN (R116). -/
def execStoDriveDown (cs : Fin 2) (s : State) : Host.Outcome State Fault Refusal := .next (s.runLive (driveDown cs.val))
/-- PERSISTENCE_TIMER (R118, R305). -/
def execPersistenceTimer (s : State) : Host.Outcome State Fault Refusal := .next (s.runLive persistTimer)
/-- STO_PERSISTED (R118, R305). -/
def execStoPersisted (written : BitVec 2) (s : State) : Host.Outcome State Fault Refusal := .next (s.runLive (persisted written))

end Sys2Proof.Machine
end

