-- ==== Sys2Proof/Machine/Links.lean ====
section
/-!
DEFINITION. The Renok link as the ports use it: lane groups, siding lanes and stripes (R219, R261), the time of a row (R222,
R280), training (R257, R258), lost lanes (R264), and driver commands (R284, R285).
-/

namespace Sys2Proof.Machine

/-! ## Groups -/

/-- The lanes of a mask. -/
def lanesOf (mask : Nat) : List Nat := bitsOf mask 48
def groupMask (c : Chip) (p : Nat) : Nat := match (port c p).tt with
  | some t => t.laneMask
  | none => 0
def groupLanes (c : Chip) (p : Nat) : List Nat := lanesOf (groupMask c p)
/-- The port whose group holds a lane. -/
def portOfLane (c : Chip) (l : Nat) : Option Nat := (List.range 4).find? (fun p => (groupMask c p).testBit l)
/-- Lanes that may take part (R57). -/
def usableLanes (c : Chip) (mask : Nat) : List Nat := (lanesOf mask).filter (fun l => !(lane c l).unusable)
/-- Lanes in service or siding. -/
def inUse (c : Chip) (p : Nat) : List Nat := (groupLanes c p).filter (fun l => (lane c l).st = .active || (lane c l).st = .siding)
def activeLanes (c : Chip) (p : Nat) : List Nat := (groupLanes c p).filter (fun l => (lane c l).st = .active)
def sidingLanes (c : Chip) (p : Nat) : List Nat := (groupLanes c p).filter (fun l => (lane c l).st = .siding)
/-- Active lanes of n usable ones (R222). -/
def activeOf (n : Nat) : Nat := n - cdiv n 12

/-- R261: place k of n lanes in order is that of a siding lane: the last of its set of 12. -/
def sidingPlace (n k : Nat) : Bool := k % 12 = 11 || k + 1 = n
/-- The stripe of place k of n, 0xFE for a siding lane. -/
def stripeOf (n k : Nat) : Nat := if sidingPlace n k then 0xFE else k - k / 12
/-- R261: cut the lanes into sets of 12; the last of each set is siding. -/
def assignGroup (c : Chip) (p : Nat) : Chip :=
  let l := inUse c p
  let n := l.length
  (List.range n).foldl (fun c k =>
    updLane c (nth l k) (fun x =>
      { x with st := if sidingPlace n k then .siding else .active, stripe := stripeOf n k
               sidingOf := nth l (min (k / 12 * 12 + 11) (n - 1)) })) c
/-- SWITCH on every active lane whose stripe changes. -/
def sendSwitches (before c : Chip) (p : Nat) : Chip :=
  let l := activeLanes c p
  let moved := l.filter (fun k => (lane before k).stripe ≠ (lane c k).stripe)
  { c with out := { c.out with switches := (moved.map (fun k => (k, (lane c k).stripe, l.length))).reverse ++ c.out.switches } }
/-- The lanes of a group that has changed are assigned anew. -/
def reassignGroup (c : Chip) (p : Nat) : Chip := sendSwitches c (assignGroup c p) p
/-- The stripe that TS gives a lane in training, and the number of stripes of its group: those of R261 over the group's usable
lanes, and a siding lane's for a retry (R269). -/
def trainingStripe (c : Chip) (p l : Nat) : Nat × Nat :=
  let u := usableLanes c (groupMask c p)
  if (lane c l).retrying then (0xFE, (activeLanes c p).length) else (stripeOf u.length (u.idxOf l), activeOf u.length)

/-! ## The time of a row (R222, R280) -/

/-- ROW_BITS on a active lanes. -/
def rowBits (pd : Panel) (ratio2 : Bool) (a : Nat) : Nat :=
  let bytes := rowCodeBytes pd ratio2
  max (cdiv (103 * 8 * bytes) 100) (128 * (bytes / 16 + cdiv bytes 1024 + 3 * a))
/-- T_row fits in a time in ps: ROW_BITS ÷ (a × 56.25 Gb/s × 65,792 / 70,720). -/
def rowFits (pd : Panel) (ratio2 : Bool) (a ps : Nat) : Bool :=
  a ≠ 0 && rowBits pd ratio2 a * 70720 * 4000 ≤ ps * a * 225 * 65792
/-- T_row in ps, rounded up. -/
def rowTime (pd : Panel) (ratio2 : Bool) (a : Nat) : Nat := cdiv (rowBits pd ratio2 a * 70720 * 4000) (a * 225 * 65792)

/-! ## Driver commands (R284, R285) -/

/-- Announced drivers in the quads of a group. -/
def groupDrivers (c : Chip) (p : Nat) : List Nat :=
  (c.drivers.filter (fun d => d.announced && (groupLanes c p).any (fun l => l / 4 = d.quad))).map (·.id)

/-- The drivers of a group have taken a command. -/
def commandTaken (c : Chip) (p ptype : Nat) : Chip :=
  updPort c p (fun x => if ptype = 0x10 then { x with configured := true } else if ptype = 0x11 then { x with cleared := true } else x)

/-! ### The time that a row leaves (R266, R281) -/

/-- Data blocks of a row: code and packet headers (R278, R279). -/
def rowBlocks (pd : Panel) (ratio2 : Bool) : Nat := rowCodeBytes pd ratio2 / 16 + cdiv (rowCodeBytes pd ratio2) 1024
/-- Slots of the lanes fit in a time in ps: a slot is 282,880 UI ÷ 4,112. -/
def slotsFit (slots ps : Nat) : Bool := slots * 282880000000 ≤ ps * 115650000
def slotsTime (slots : Nat) : Nat := cdiv (slots * 282880000000) 115650000
/-- Where slot i of a superframe begins, in UI from the superframe's first symbol: codeword c holds bits 5,140 × c on. -/
def slotUi (i : Nat) : Nat := 130 * i / 5140 * 2720 + 130 * i % 5140 / 2
/-- The count of the first slot, 4,112 to a superframe, that begins at or after a place in eighths of a UI. -/
def firstSlot (u : Nat) : Nat :=
  let sf := u / superframeUi
  match (List.range 4112).find? (fun i => u % superframeUi ≤ 8 * slotUi i) with
  | some i => 4112 * sf + i
  | none => 4112 * (sf + 1)
/-- The k-th data slot at or after a slot: slot 0 of each superframe is the comma's. -/
def dataSlot (n k : Nat) : Nat :=
  let o := n / 4112 * 4111 + (n % 4112 - 1) + k
  o / 4111 * 4112 + o % 4111 + 1
/-- The slot before a data slot that no comma fills. -/
def slotBefore (n : Nat) : Nat := if n % 4112 = 1 then n - 2 else n - 1
/-- Where an instant stands in the lanes' count. -/
def placeNs (c : Chip) (ns : Nat) : Nat :=
  let turn := 65536 * superframeUi
  (c.laneUi + 225 * ns + (turn - 225 * nowNs c % turn)) % turn
/-- How long after an instant block k of a stripe begins, in eighths of a UI. -/
def blockDelay (c : Chip) (ns k : Nat) : Nat :=
  let n := dataSlot (firstSlot (placeNs c ns)) k
  n / 4112 * superframeUi + 8 * slotUi (n % 4112) - placeNs c ns

/-! ## Packets (R278 to R284) -/

/-- The 16-byte blocks of some bytes. -/
def blocks16 (b : List Byte) : List (List Byte) := (List.range (cdiv b.length 16)).map (fun k => slice b (16 * k) 16)
/-- A packet: its header of Table 10-1 and its payload. `flags` holds RATIO in bit 0 and LAST in bit 1. -/
def packet (ptype flags w4 w8 : Nat) (payload : List Byte) : List Byte :=
  let h := beBytes (ptype * 2 ^ 24 + flags * 65536 + payload.length / 16) 4 ++ beBytes w4 4 ++ beBytes w8 4
  h ++ beBytes (crc16 h) 2 ++ beBytes (crc16 payload) 2 ++ payload
/-- Packet k of a row (R279). -/
def rowPacket (ratio2 : Bool) (row frame : Nat) (code : List Byte) (k : Nat) : List Byte :=
  let d := slice code (1024 * k) (min 1024 (code.length - 1024 * k))
  packet 0x01 (b01 ratio2 + 2 * b01 (k + 1 = cdiv code.length 1024)) (row * 65536 + k * (if ratio2 then 16 else 32)) frame d
/-- The ROW_DATA packets of a row, in order. -/
def rowPackets (ratio2 : Bool) (row frame : Nat) (code : List Byte) : List Byte :=
  (List.range (cdiv code.length 1024)).flatMap (rowPacket ratio2 row frame code)
/-- The line's data blocks of a row that was sent, from its entry of the outputs. -/
def sentRow (pd : Panel) (r : Nat × Nat × Nat × List Byte) : List (List Byte) :=
  blocks16 (rowPackets (decide (r.2.2.2.length = rowCodeBytes pd true)) r.2.2.1 r.2.1 r.2.2.2)
/-- R262: the blocks that stripe s of a lanes carries. -/
def stripeBlocks (a s : Nat) (blocks : List (List Byte)) : List (List Byte) :=
  if a = 0 then [] else (List.range (cdiv (blocks.length - s) a)).map (fun k => nth blocks (s + k * a))
/-- The RESEND of a lost stripe's segment: every COUNT-th block from J0 on (R283). -/
def resendPacket (pd : Panel) (rows : List (Nat × Nat × Nat × List Byte)) (x : Nat × Nat × Nat × Nat × Nat × Nat) : List Byte :=
  match rows.find? (fun r => r.1 = x.1 && r.2.1 = x.2.1 && r.2.2.1 = x.2.2.1) with
  | some r =>
    packet 0x02 0 (x.2.2.1 * 65536 + x.2.2.2.1 * 256 + x.2.2.2.2.1) x.2.2.2.2.2
      (stripeBlocks x.2.2.2.2.1 x.2.2.2.2.2 (sentRow pd r)).flatten
  | none => []
/-- A driver command with its payload of Table 10-3, from its entry of the outputs (R284, R285). -/
def commandPacket (x : Nat × Nat × Nat × Nat × List U32) : List Byte :=
  packet x.2.1 0 (x.2.2.1 * 2 ^ 24 + x.2.2.2.1) 0 (x.2.2.2.2.flatMap (fun v => beBytes v.toNat 4))
/-- A control block: its words at 0x0 and 0x4. -/
def controlBlock (w0 w4 : Nat) : List Byte := beBytes w0 4 ++ beBytes w4 4 ++ List.replicate 8 0#8
/-- SWITCH (Table 9-3). -/
def switchBlock (stripe n : Nat) : List Byte := controlBlock (0x04 * 2 ^ 24 + stripe * 65536 + n * 256) 0

/-- What is left of a line: time in ps, and the number of its next block. -/
structure LineRoom where
  ps : Nat := 0
  block : Nat := 0
deriving DecidableEq, Repr, Inhabited
/-- What resends and commands have taken of line i of the frame of boundary k. -/
def lineUse (x : Port) (k i : Nat) : LineUse := (x.lineUses.find? (fun u => u.boundary = k && u.line = i)).getD { boundary := k, line := i }
/-- What line i of the frame of boundary k has left after its own row, after T_row, and what has been taken of it: block numbers
begin after the row's, and at 0 in blanking. -/
def roomIn (x : Port) (t : Timetable) (pd : Panel) (a k i : Nat) : LineRoom :=
  let u := lineUse x k i
  if i < t.active then
    { ps := lineTime x t - rowTime pd x.frontRatio2 a - u.ps, block := rowBlocks pd x.frontRatio2 + u.blocks }
  else { ps := lineTime x t - u.ps, block := u.blocks }
/-- Blocks are sent in a line over some slots. -/
def useLine (k i slots n : Nat) (x : Port) : Port :=
  let u := lineUse x k i
  { x with lineUses := ({ u with ps := u.ps + slotsTime slots, blocks := u.blocks + n } ::
      x.lineUses.filter (fun v => !(v.boundary = k && v.line = i))).take 4 }

/-- A command, two blocks, fits in what is left of the line that a port is in: after the row, or in blanking (R281). Before line 0,
and while the port is stopped (R383), no command is sent. -/
def commandFits (c : Chip) (p : Nat) : Bool :=
  let x := port c p
  let a := (activeLanes c p).length
  match x.tt, rowPanel c x with
  | some t, some pd =>
    if !x.running || x.rephase || x.line = 0 || x.stopped then false
    else
      let i := x.line - 1
      let rest := (lineNs x t i + lineTime x t / 1000 - nowNs c) * 1000
      a ≠ 0 && (activeLanes c p).all (fun l => !(lane c l).asleep) && slotsFit (cdiv 2 a) (min rest (roomIn x t pd a x.cur i).ps)
  | _, _ => false
/-- The first waiting command of a port leaves, where it fits. -/
def sendWaiting (c : Chip) (p : Nat) : Chip :=
  let x := port c p
  match x.cmdWaits with
  | [] => c
  | q :: rest =>
    if !commandFits c p then c
    else
      let a := (activeLanes c p).length
      let i := x.line - 1
      let first := match x.tt, rowPanel c x with
        | some t, some pd => (roomIn x t pd a x.cur i).block
        | _, _ => 0
      let sent := (p, q.1, 0xFF, q.2.1, q.2.2)
      let c := updPort c p (fun x => { useLine x.cur i (cdiv 2 a) 2 x with cmdWaits := rest })
      { c with out := { c.out with
          drv := sent :: c.out.drv
          items := { port := p, boundary := x.cur, line := i, first := first, data := commandPacket sent } :: c.out.items } }
/-- Every waiting command that fits leaves, in order (R281). -/
def flushCommands (c : Chip) (p : Nat) : Chip := (List.range (port c p).cmdWaits.length).foldl (fun c _ => sendWaiting c p) c
/-- A command, or its repeat, waits for its place after the rows. -/
def queueCommand (c : Chip) (p ptype seq : Nat) (payload : List U32) : Chip :=
  flushCommands (updPort c p (fun x => { x with cmdWaits := x.cmdWaits ++ [(ptype, seq, payload)] })) p

/-- Send a command to every driver of a group (log 23). -/
def sendCommand (c : Chip) (p ptype : Nat) (payload : List U32) : Chip :=
  let n := c.power.cmdSeq
  let missing := groupDrivers c p
  let cmd : DrvCmd := { seq := n, ptype := ptype, port := p, missing := missing, payload := payload }
  let c := { c with power := { c.power with cmdSeq := (n + 1) % 65536
                                            cmds := if missing = [] then c.power.cmds else c.power.cmds ++ [cmd] } }
  let c := queueCommand c p ptype n payload
  if missing = [] then commandTaken c p ptype else c

/-- The line time in force for APPLY_DELAY: doubled at half rate. -/
def modeLineTime (x : Port) (t : Timetable) : Nat := if x.mode = .halfRate then 2 * t.lineTime else t.lineTime
/-- DRV_CONFIG, to a trained group (R284). -/
def sendConfig (c : Chip) (p : Nat) : Chip :=
  let x := port c p
  match x.tt, c.tables.panel with
  | some t, some pd =>
    if !x.trained || !c.power.driverUp then c
    else sendCommand c p 0x10 [w (pd.w * 65536 + pd.dirs * 256 + b01 (effRatio2 x t)), w (t.firstRow * 65536 + t.rowCount),
      w (3 * modeLineTime x t), 0]
  | _, _ => c
/-- DRV_CLEAR. -/
def sendClear (c : Chip) (p : Nat) : Chip := sendCommand c p 0x11 [0, 0, 0, 0]

/-! ## Training (R257, R258) -/

/-- A lane enters a phase of Table 9-4. -/
def enterPhase (c : Chip) (l : Nat) (st : LaneState) : Chip :=
  updLane c l (fun x => { x with st := st, phaseSf := sfCount c, checkRun := 0, locked := false })
/-- What an output takes of a trim in force: while the domain is stale, the value it has, unless the run has calibrated the item's
unit (R400). -/
def passTrim (c : Chip) (d item : Nat) (old : Int) : Int :=
  if (calDomain c d).stale && !c.cal.fresh.contains item then old else look c.cal.trim item 0
/-- A lane takes the trim of its quad that is in force (R399). -/
def takeTrim (c : Chip) (l : Nat) : Chip :=
  updLane c l (fun x => { x with txTrim := (passTrim c 2 (0x40 + l / 4) x.txTrim.1, passTrim c 2 (0x80 + l / 4) x.txTrim.2), skipTrim := false })
/-- A lane sleeps no longer; the superframes that it slept count (R414). -/
def endSleep (c : Chip) (l : Nat) : Chip :=
  if !(lane c l).asleep then c
  else updLane (count c (96 + l / 4) 0x0406 (225 * (nowNs c - (lane c l).sleptNs) / superframeUi)) l (fun x => { x with asleep := false })
/-- A lane begins training from WAKE, where it takes a trim that it was skipped by (R401). -/
def trainLane (c : Chip) (l : Nat) : Chip :=
  enterPhase (updLane (takeTrim (endSleep c l) l) l (fun x =>
    { x with full := !x.everTrained || x.lostSince, attempts := 0, stripe := 0xFF, retrying := false, oldTaps := (x.pre, x.post)
             asleep := false, deep := false, wakeUi := none })) l .wake
/-- A lane goes to electrical idle. -/
def idleLane (c : Chip) (l : Nat) : Chip :=
  updLane (endSleep c l) l (fun x => { x with st := .idle, stripe := 0xFF, asleep := false, deep := false, wakeUi := none })
/-- Lanes of a mask join a group while the driver supply is up. A training is an automatic run of LANE_EQ (Table 15-1), so
none starts while no Stationmaster pair serves (R18). -/
def trainLanes (c : Chip) (p : Nat) (l : List Nat) : Chip :=
  if !c.power.driverUp || l = [] then c
  else
    let c := updPort c p (fun x =>
      { x with trained := false, trainFailed := false, configured := false, cleared := false, anyFull := false, trainFromNs := nowNs c })
    if !smServes c then c else l.foldl trainLane (updCal c 3 (fun x => { x with stale := true }))
def trainGroup (c : Chip) (p : Nat) : Chip := trainLanes c p (usableLanes c (groupMask c p))
def inTraining (x : Lane) : Bool := x.st = .wake || x.st = .align || x.st = .eq || x.st = .check
/-- R18: no pair serves: the trainings are abandoned, and the taps keep the values they had before. -/
def abandonTraining (c : Chip) : Chip :=
  (List.range 48).foldl (fun c l =>
    if inTraining (lane c l) then
      updLane c l (fun x => { x with st := if x.retrying then .lost else .idle, pre := x.oldTaps.1, post := x.oldTaps.2 })
    else c) c
/-- A pair serves again: lanes of groups that wait for their training begin it. -/
def resumeTraining (c : Chip) : Chip :=
  (List.range 4).foldl (fun c p =>
    let waits := (usableLanes c (groupMask c p)).filter (fun l => (lane c l).st = .idle)
    trainLanes c p waits) c

/-- Every lane of a group has ended training. -/
def groupEnded (c : Chip) (p : Nat) : Bool :=
  (usableLanes c (groupMask c p)).all (fun l => [LaneState.active, .siding, .lost].contains (lane c l).st)
/-- A completed training of a group is a run of LANE_EQ (R403): its units are the lanes, and a lost lane failed. -/
def trainingCounts (c : Chip) (p : Nat) : Chip :=
  let failed := (usableLanes c (groupMask c p)).filter (fun l => (lane c l).st = .lost)
  let c := if inUse c p = [] then c else countRun c 3
  let c := updCal c 3 (fun x =>
    { x with stale := x.stale && (failed ≠ [] || x.running || groupTraining c), lastFailed := decide (failed ≠ []) })
  calReport c 3 0 (inUse c p).length failed
/-- The group is trained: stripes are assigned, and DRV_CONFIG goes out, with DRV_CLEAR where the drivers have not taken
it, unless step 5 of a power sequence will send them (log 23). -/
def groupTrained (c : Chip) (p : Nat) : Chip :=
  let x := port c p
  if x.tt.isNone || x.trained || !groupEnded c p then c
  else if (inUse c p).length < 2 then
    (if x.trainFailed || usableLanes c (groupMask c p) = [] then c else trainingCounts (updPort c p (fun x => { x with trainFailed := true })) p)
  else
    let c := reassignGroup (updPort c p (fun x => { x with trained := true })) p
    let mask := maskOf (inUse c p)
    let c := raiseOwn c (portOwner c p) 0x6002
      [w (p + b01 x.anyFull * 256), w mask, w (mask / 2 ^ 32), w ((nowNs c - x.trainFromNs) / 1000)]
    let c := trainingCounts c p
    if c.power.run = .up && c.power.step ≤ 5 then c
    else
      let c := sendConfig c p
      if !x.cleared && (c.power.run = .up || (c.power.run = .idle && c.power.railsUp)) then sendClear c p else c

/-! ## Lost lanes (R264, R265) -/

/-- A lane in service or siding is treated as lost: it waits for its line instant. `since` is when its last good codeword
ended. -/
def loseLane (c : Chip) (l cause since : Nat) : Chip :=
  match portOfLane c l with
  | none => c
  | some p =>
    let st := (lane c l).st
    if !(st = .active || st = .siding) || (port c p).switching.any (fun x => x.1 = l) then c
    else updPort c p (fun x => { x with switching := x.switching ++ [(l, cause, nowNs c, since)] })

end Sys2Proof.Machine
end

