-- ==== Sys2Proof/Machine/Ports.lean ====
section
/-!
DEFINITION. Timetables, commits and presentation: `timetable_set`, `frame_commit`, `crc_window_set`, the frame boundary, the
line instant and the close of the departure window (R219 to R243).
-/

namespace Sys2Proof.Machine

/-! ## CRC windows (R240 to R243) -/

/-- Code blocks of a row that hold values of a window, ascending (R241). -/
def windowBlocks (pd : Panel) (v : CrcWin) : List Nat :=
  ((List.range v.w).flatMap (fun k =>
    let v0 := ((v.x0 + k) * pd.dirs + v.dirFirst) * 3
    let v1 := ((v.x0 + k) * pd.dirs + v.dirFirst + v.dirCount) * 3 - 1
    (List.range (v1 / 64 + 1 - v0 / 64)).map (fun b => v0 / 64 + b))).foldr insertSorted []

def updWindow (c : Chip) (p n : Nat) (f : CrcWin → CrcWin) : Chip := updPort c p (fun x => { x with windows := upd x.windows n f })
/-- Word 0x18 of a CRC event. -/
def crcWord (x : Port) (p n result : Nat) : U32 :=
  w (p + n * 256 + result * 65536 + b01 x.heldNow * 2 ^ 24 + b01 x.frontRepeated * 2 ^ 25 + x.frontLevel * 2 ^ 28)
/-- SCN_CRC_RESULT for one frame. -/
def crcEvent (c : Chip) (p n result f : Nat) (v : CrcWin) (crc : U32) : Chip :=
  raiseOwn c v.owner 0x5008 [crcWord (port c p) p n result, w f, crc, v.expected]
/-- The result for one frame, after which the window disables itself. -/
def crcResult (c : Chip) (p n result f : Nat) (v : CrcWin) (crc : U32) : Chip :=
  crcEvent (updWindow c p n (fun v => { v with enabled := false })) p n result f v crc

/-- A window's result is final (R242). -/
def windowFinal (c : Chip) (p n : Nat) (v : CrcWin) : Chip :=
  let x := port c p
  let f := w32 x.cur
  let crc := v.crc ^^^ 0xFFFFFFFF#32
  let result := if v.incomplete then 2 else b01 (crc ≠ v.expected)
  if v.expectFrame = 0 then
    if result = 0 then c
    else raiseLimitedOwn c v.owner 0x5009 (16 * p + n) ms10 1 4 [crcWord x p n result, w f, crc, v.expected, 0]
  else if v.expectFrame = f then crcResult c p n result f v crc
  else c

/-- A row of the frame takes part in a window: its code as sent, or none where it was not sent. -/
def windowRow (pd : Panel) (y : Nat) (code : Option (List Byte)) (size : Nat) (p : Nat) (c : Chip) (n : Nat) : Chip :=
  let v := nth (port c p).windows n
  if !v.enabled || y < v.y0 || v.y0 + v.h ≤ y then c
  else
    let v := if y = v.y0 then { v with crc := 0xFFFFFFFF#32, incomplete := false } else v
    let v := match code with
      | some b => { v with crc := w ((windowBlocks pd v).foldl (fun s k => crc32cUpdate s (slice b (k * size) size)) v.crc.toNat) }
      | none => { v with incomplete := true }
    let c := updWindow c p n (fun _ => v)
    if y + 1 = v.y0 + v.h then windowFinal c p n v else c
def windowRows (c : Chip) (p : Nat) (pd : Panel) (y : Nat) (code : Option (List Byte)) : Chip :=
  (List.range 16).foldl (windowRow pd y code (blockBytes (port c p).frontRatio2) p) c

/-- Settings not in force yet whose one frame has passed by frame f are MISSED: they report it, and come in force disabled. -/
def missWindow (p f : Nat) (st : Chip × List (Nat × CrcWin)) (x : Nat × CrcWin) : Chip × List (Nat × CrcWin) :=
  if x.2.enabled && x.2.expectFrame ≠ 0 && seqDiff x.2.expectFrame f < 0 then
    (crcEvent st.1 p x.1 3 x.2.expectFrame x.2 0, st.2 ++ [(x.1, { x.2 with enabled := false })])
  else (st.1, st.2 ++ [x])
def missWindows (c : Chip) (p f : Nat) (l : List (Nat × CrcWin)) : Chip × List (Nat × CrcWin) := l.foldl (missWindow p f) (c, [])
/-- At the close of a window the settings pending come in force from frame f (R243). -/
def windowsInForce (c : Chip) (p f : Nat) : Chip :=
  let x := missWindows c p f (port c p).windowsPending
  updPort x.1 p (fun q => { q with windowsPending := [], windowsDue := x.2.foldl (fun l v => put l v.1 v.2) q.windowsDue })
/-- `crc_window_set`. -/
def crcWindowSetBody : Body := fun e c =>
  let p := mf e 0x10 1 0
  let n := mf e 0x10 11 8
  let x := port c p
  let on := bit e 0x10 12
  let v : CrcWin := { enabled := on, x0 := mf e 0x14 15 0, y0 := mf e 0x14 31 16, w := mf e 0x18 15 0, h := mf e 0x18 31 16,
                      dirFirst := mf e 0x1C 7 0, dirCount := mf e 0x1C 15 8, expected := w (mw e 0x20), expectFrame := mw e 0x24,
                      owner := sid e }
  let old := look x.windowsPending n (look x.windowsDue n (nth x.windows n))
  let beyond := match c.tables.panel with
    | some pd => pd.w < v.x0 + v.w || pd.dirs < v.dirFirst + v.dirCount
    | none => false
  if on && (v.w = 0 || v.h = 0 || v.dirCount = 0 || beyond) then reject c stINVALID_FIELD
  else if !mayAct c (sid e) old.owner then reject c stNOT_OWNER
  else match x.tt with
  | none => reject c stUNAVAILABLE
  | some t =>
    if on && (v.y0 < t.firstRow || t.firstRow + t.rowCount < v.y0 + v.h) then reject c stINVALID_FIELD
    else (updPort c p (fun q => { q with windowsPending := put q.windowsPending n v }), ok [])

/-! ## `frame_commit` (R231, R235 to R237) -/

/-- The first frame of port q whose window closes at or after an instant (R237). -/
def frameClosingAt (x : Port) (t : Timetable) (ns : Nat) : Nat :=
  let k := nextOpen x
  if ns ≤ closeOf x t k then k
  else match x.pendingTt with
    | some (some n, _, _) => k + 1 + cdiv (ns - closeOf x t (k + 1)) n.period
    | _ => k + frameStep x * cdiv (ns - closeOf x t k) (frameStep x * t.period)

/-- A commit becomes pending on a port, replacing another (R236). -/
def commitPort (p : Nat) (new : Commit) (c : Chip) : Chip :=
  let x := port c p
  let before := frameIdOf x
  let c := match x.pendingCommit with
    | some old => raiseOwn c old.owner 0x5004 [w p, old.id, old.tag]
    | none => c
  let c := updPort c p (fun x => { x with pendingCommit := some new })
  if x.windowOpen && frameIdOf (port c p) ≠ before then renewFrame c p else c

/-- FRAME_ID keeps Table 8-3; its reserved bits are ignored and read 0 (R9). -/
def frameIdOk (id : Nat) : Bool := fld id 31 28 = 0 || (fld id 31 28 = 1 && fld id 27 24 = 0)

/-- R237: the frame in which a port takes a commit that enters frame k of its mask reference. -/
def entersOn (c : Chip) (r k q : Nat) : Nat :=
  if q = r then k else match (port c r).tt, (port c q).tt with
    | some rt, some t => frameClosingAt (port c q) t (closeOf (port c r) rt k)
    | _, _ => 0
/-- The commit on the mask reference and on every other port of the mask. -/
def commitAll (new : Commit) (ports : List Nat) (c : Chip) : Chip :=
  ports.foldl (fun c q => commitPort q { new with enters := entersOn c new.ref new.refEnters q } c) c

/-- The owner of the committed frame of a port, the pending one where there is one (R80). -/
def commitOwner (x : Port) : Nat := match x.pendingCommit with
  | some y => y.owner
  | none => x.frameOwner

/-- `frame_commit`. -/
def frameCommitBody : Body := fun e c =>
  let ports := bitsOf (mf e 0x10 3 0) 4
  let id := fld (mw e 0x14) 31 24 * 2 ^ 24
  let target := mw e 0x18
  match ports with
  | [] => reject c stINVALID_FIELD
  | r :: _ =>
    let x := port c r
    if !frameIdOk id then reject c stINVALID_FIELD
    else if fld id 31 28 = 0 && (stream c (fld id 27 24)).st = .unbound then reject c stUNKNOWN_RESOURCE
    else if ports.any (fun q => !(mayAct c (sid e) (portOwner c q) && mayAct c (sid e) (commitOwner (port c q)))) then reject c stNOT_OWNER
    else if target ≠ 0 && x.tt.isSome && 2 ^ 24 < seqDiff target (dueFrame x) then reject c stINVALID_FIELD
    else if ports.any (fun q => (port c q).tt.isNone) then reject c stUNAVAILABLE
    else
      match x.tt with
      | none => reject c stUNAVAILABLE
      | some _ =>
        let k := enterFrame x target
        let new : Commit := { id := w id, tag := tagOf e, owner := sid e, ref := r, refEnters := k.1, target := target }
        let c := commitAll new ports c
        let c := if !k.2 then c
          else raiseOwn (updPort c r (fun x => { x with commitLate := x.commitLate + 1 })) (sid e) 0x5003
            [w r, w target, w k.1, tagOf e]
        (schedule c, ok [w k.1, w (b01 k.2)])

/-! ## `timetable_set` (R219 to R222, R225, R238) -/

/-- The timetable that a message carries. -/
def timetableOf (e : Env) : Timetable :=
  { period := mw e 0x14, active := mf e 0x18 15 0, blank := mf e 0x18 31 16, lineTime := mw e 0x1C, phase := mw e 0x20
    laneMask := mw e 0x24 + mf e 0x28 15 0 * 2 ^ 32, firstRow := mf e 0x2C 15 0, rowCount := mf e 0x2C 31 16
    ratio2 := bit e 0x30 0, owner := sid e }

/-- Table 8-1. -/
def timetableOk (t : Timetable) (rows : Nat) : Bool :=
  4000000 ≤ t.period && t.period ≤ 50000000 && 2 ≤ t.active && t.active ≤ maxRows && t.active = t.rowCount &&
  1 ≤ t.blank && 100000 ≤ t.lineTime && t.lineTime ≤ 4000000000 && (t.active + t.blank) * t.lineTime ≤ 1000 * t.period &&
  1000 * t.period < (t.active + t.blank + 1) * t.lineTime && t.phase < t.period && t.firstRow < rows &&
  t.firstRow + t.rowCount ≤ rows

/-- The timetable of a port as it stands or will stand. -/
def newestTt (x : Port) : Option Timetable := match x.pendingTt with
  | some (t, _, _) => t
  | none => x.tt
/-- Lanes or rows overlap. -/
def overlapTt (a b : Timetable) : Bool :=
  (a.laneMask &&& b.laneMask) ≠ 0 || (a.firstRow < b.firstRow + b.rowCount && b.firstRow < a.firstRow + a.rowCount)
def overlapsOthers (c : Chip) (p : Nat) (t : Timetable) : Bool :=
  (List.range 4).any (fun q => q ≠ p && ([(port c q).tt, newestTt (port c q)].any (fun o => match o with
    | some u => overlapTt t u
    | none => false)))

/-- R221, R222, R207: what makes a timetable infeasible. -/
def feasible (c : Chip) (p : Nat) (t : Timetable) : Bool :=
  match c.tables.panel with
  | none => false
  | some pd =>
    let n := (usableLanes c t.laneMask).length
    let periods := (List.range 4).filterMap (fun q => if q = p then some t.period else (newestTt (port c q)).map (·.period))
    2 ≤ n && rowFits pd t.ratio2 (activeOf n) t.lineTime && 200000000 ≤ (t.blank + 2) * t.lineTime &&
    layersFit c.layers (minOf periods)

def sameGeometry (a b : Timetable) : Bool :=
  a.firstRow = b.firstRow && a.rowCount = b.rowCount && a.ratio2 = b.ratio2 && a.laneMask = b.laneMask

/-- Bytes of one track of the frame buffers (R225). -/
def bufferBytes (pd : Panel) (t : Timetable) : Nat := 2 * t.rowCount * rowStride pd t.ratio2
/-- ROW_STRIDE under the newest panel description. -/
def strideOf (c : Chip) (t : Timetable) : Nat := rowStride (c.tables.panel.getD {}) t.ratio2
/-- Reserve the buffers of a timetable under a unit of area 1. -/
def reserveBuffers (c : Chip) (unit : Nat) (t : Timetable) : Option Chip :=
  reserveArea c 1 unit (bufferBytes (c.tables.panel.getD {}) t) true false true

/-- The boundary, as a count, at which a port's running timetable would end (R238): one that the port uses (R268). -/
def endCount (x : Port) : Nat := upcoming { x with pendingTt := none } (if x.windowOpen then 1 else 2)
def endInstant (x : Port) (t : Timetable) : Nat := boundaryNs t (endCount x)

/-- A port without a timetable takes one at once. -/
def firstTimetable (c : Chip) (p : Nat) (t : Timetable) (tag : U32) : Chip :=
  let k := boundaryAt t (nowNs c)
  let old := port c p
  let x : Port := { tt := some t, cur := k - 1, frameId := blackId, frameOwner := t.owner, bufs := true, gen := old.gen, bufStride := strideOf c t,
                    windows := List.replicate 16 {}, tables := old.tables, lateRows := old.lateRows, commitLate := old.commitLate,
                    ttEvent := some (nowNs c, tag, true) }
  let c := updPort c p (fun _ => { x with windowOpen := nowNs c < windowOf x t k })
  let c := { c with time := { c.time with ppsOutOn := true } }
  trainGroup c p

/-- `timetable_set`. -/
def timetableSetBody : Body := fun e c =>
  let p := mf e 0x10 1 0
  let t := timetableOf e
  let x := port c p
  let rows := match c.tables.panel with
    | some pd => pd.h
    | none => maxRows
  let owned := mayAct c (sid e) (portOwner c p)
  if t.laneMask = 0 then
    match x.tt with
    | none => reject c stUNAVAILABLE
    | some old =>
      if !owned then reject c stNOT_OWNER
      else
        let at_ := endInstant x old
        let c := releaseArea c 1 (p + 4)
        (updPort c p (fun x => { x with pendingTt := some (none, at_, tagOf e) }),
         ok [w (endCount x)])
  else if !timetableOk t rows then reject c stINVALID_FIELD
  else if (lanesOf t.laneMask).any (fun l => laneCount c ≤ l) then reject c stUNKNOWN_RESOURCE
  else if !owned then reject c stNOT_OWNER
  else
    match x.tt with
    | none =>
      match reserveBuffers c p t with
      | none => reject c stNO_SPACE
      | some c' =>
        if !feasible c p t then reject c stINFEASIBLE
        else if overlapsOthers c p t then reject c stIN_USE
        else
          let c := firstTimetable c' p t (tagOf e)
          (schedule c, ok [w ((port c p).cur + 1)])
    | some old =>
      let at_ := endInstant x old
      let same := sameGeometry old t
      let c0 := releaseArea c 1 (p + 4)
      match (if same then some c0 else reserveBuffers c0 (p + 4) t) with
      | none => reject c stNO_SPACE
      | some c' =>
        if !feasible c p t then reject c stINFEASIBLE
        else if overlapsOthers c p t then reject c stIN_USE
        else
          let c := updPort c' p (fun x => { x with pendingTt := some (some t, at_, tagOf e) })
          let c := if x.windowOpen && !same then renewTiles c p (fun _ => true) else c
          (schedule c, ok [w (boundaryAt t at_)])

/-- PWR_AGE_HEADROOM of the frame in synthesis, once it ends or is dropped (R303). -/
def reportHeadroom (c : Chip) (p k : Nat) : Chip :=
  let x := port c p
  if x.headroom = 0 then c
  else raise (updPort c p (fun x => { x with headroom := 0 })) 0xB013 [w k, w x.headroom]

/-! ## The end of a timetable (R238) -/

/-- Layer commits follow a new reference port, or are dropped when no port remains. -/
def retargetLayers (c : Chip) (old : Port) (t : Timetable) : Chip :=
  (List.range 8).foldl (fun c i =>
    match (layer c i).pending with
    | none => c
    | some x =>
      match referencePort c with
      | none => updLayer (supersede c i x) i (fun l => { l with pending := none })
      | some r => match (port c r).tt with
        | none => c
        | some rt =>
          let k := frameClosingAt (port c r) rt (closeOf old t (countNear (nextOpen old) x.target))
          updLayer c i (fun l => { l with pending := some { x with target := k }, effective := k })) c

/-- A timetable is deleted at E. -/
def deleteTimetable (c : Chip) (p : Nat) (t : Timetable) (e : Nat) (tag : U32) : Chip :=
  let x := port c p
  let wasReference := referencePort c = some p
  let k := boundaryAt t e
  let c := match x.pendingCommit with
    | some y => raiseOwn c y.owner 0x5004 [w (p + 256), y.id, y.tag]
    | none => c
  let c := reportHeadroom c p (dueFrame x)
  let c := (lanesOf t.laneMask).foldl idleLane c
  let c := releaseArea (releaseArea (releaseArea c 1 p) 1 (p + 4)) 1 (p + 8)
  let c := updPort c p (fun x => { gen := x.gen, tables := x.tables, lateRows := x.lateRows, commitLate := x.commitLate })
  let c := { c with power := { c.power with cmds := c.power.cmds.filter (fun d => d.port ≠ p) } }
  let c := raiseOwn c t.owner 0x5001 [w (p + 256), w k, 0, tag]
  let c := if wasReference then retargetLayers c x t else c
  if (referencePort c).isSome then retireUnused c p k
  else
    let c := { c with time := { c.time with ppsOut := false, ppsOutOn := false }
                      power := { c.power with iref := c.power.irefPending.getD c.power.iref, irefPending := none } }
    (c.surfs.filter (·.inDisplay)).foldl (fun c s => retireSurface c p k s) c

/-- The buffers of another unit take the place of a port's. -/
def moveBuffers (c : Chip) (p unit : Nat) : Chip :=
  let c := releaseArea c 1 p
  { c with areas := c.areas.map (fun a => if a.code = 1 && a.unit = unit then { a with unit := p } else a) }
/-- The tables in force for the newest frame have another ROW_STRIDE than the buffers of the port. -/
def otherStride (x : Port) (t : Timetable) : Bool := match x.tables.panel with
  | some pd => rowStride pd t.ratio2 ≠ x.bufStride
  | none => false
/-- Buffers of another ROW_STRIDE come in use with their first front frame. -/
def adoptBuffers (c : Chip) (p : Nat) (t : Timetable) : Chip :=
  let x := port c p
  if !otherStride x t then c
  else updPort (moveBuffers c p (p + 8)) p (fun x => { x with bufStride := match x.tables.panel with
    | some pd => rowStride pd t.ratio2
    | none => x.bufStride })

/-- A timetable follows another at E. -/
def replaceTimetable (c : Chip) (p : Nat) (old t : Timetable) (e : Nat) (tag : U32) : Chip :=
  let same := sameGeometry old t
  let k := boundaryAt t e
  let gone := (lanesOf old.laneMask).filter (fun l => !t.laneMask.testBit l)
  let fresh := (usableLanes c t.laneMask).filter (fun l => !old.laneMask.testBit l)
  let c := gone.foldl idleLane (if same then c else reportHeadroom c p (dueFrame (port c p)))
  let c := if same then c
    else
      updPort (moveBuffers (releaseArea c 1 (p + 8)) p (p + 4)) p (fun x => { x with bufStride := strideOf c t })
  let c := updPort c p (fun x =>
    let x := { x with tt := some t, pendingTt := none, cur := k - 1, running := false, line := t.active + t.blank, windowOpen := false,
                      mode := .normal, half := false, modeWaits := false, ttEvent := some (e, tag, !same), sends := x.sends && fresh = [] }
    if same then x else { x with tiles := [], feed := none, swapped := false, front := 0, heldNow := false, frontUses := [], sceneUsed := usedScene x })
  if fresh = [] then reassignGroup c p else trainLanes c p fresh

/-! ## The frame boundary (R226, R238, R239, R190) -/

/-- The tiles of the frame in synthesis are all complete or repeated (R177). -/
def frameWhole (x : Port) : Bool := x.tiles ≠ [] && x.tiles.all (fun t => t.st = .complete || t.st = .repeated)

/-- The frame becomes front. -/
def swapFront (c : Chip) (p k : Nat) (t : Timetable) : Chip :=
  let x := port c p
  let again := x.tiles.any isRepeat
  let good := !again && x.doneNs + t.period / 4 ≤ deadlineNs x t
  let c := match x.tables.panel with
    | some pd => tapEnd c p x.tapSlot (w32 k) again pd t
    | none => c
  let c := reportHeadroom (adoptBuffers c p t) p k
  let c := updPort c p (fun x =>
    { x with front := 1 - x.front, swapped := true, frontPanel := x.tables.panel, tapFront := x.tapSlot, frontLevel := x.level
             shownLevel := if again then 3 else x.level, frontRepeated := again, goodLevels := if good then (x.level :: x.goodLevels).take 8 else []
             frontUses := x.layers.map (·.surf), frontRatio2 := effRatio2 x t, heldNow := false
             modeWaits := x.modeWaits && x.mode = .halfRate && !x.half })
  itemShown c p (w32 k)

/-- FRAME_HELD. -/
def holdFront (c : Chip) (p k : Nat) : Chip :=
  let missing := (port c p).tiles.countP (fun t => !(t.st = .complete || t.st = .repeated))
  raiseOwn (updPort c p (fun x => { x with heldNow := true, goodLevels := [] })) (portOwner c p) 0x3003 [w p, w k, w missing]

/-- The commit that waits on a port, settled by its mask reference while it waits there too, else by the port itself (R237). -/
def waitingCommit (c : Chip) (p : Nat) : Option Commit := (port c p).pendingCommit.map (fun y =>
  if (port c y.ref).pendingCommit.map (fun z => { z with enters := y.enters }) = some y then y else { y with ref := p, refEnters := y.enters })
/-- A time step passed over the frame that a commit enters on its mask reference (R229). -/
def commitPassed (c : Chip) (y : Commit) : Bool := seqDiff y.refEnters (nextOpen (port c y.ref)) < 0
/-- COMMIT_LATE names the mask reference and the TARGET_FRAME asked for. -/
def lateCommit (c : Chip) (y : Commit) : Chip :=
  raiseOwn (updPort c y.ref (fun x => { x with commitLate := x.commitLate + 1 })) y.owner 0x5003
    [w y.ref, w y.target, w (nextOpen (port c y.ref)), y.tag]
/-- Settle the pending commits under the new numbering after a step, once for each mask. -/
def passedCommits (c : Chip) : Chip :=
  let waiting := (List.range 4).filterMap (fun p => (waitingCommit c p).map (fun y => (p, y)))
  let masks := (waiting.map (fun v => { v.2 with enters := 0 })).eraseDups
  waiting.foldl (fun c v =>
    let k := countNear (nextOpen (port c v.2.ref)) v.2.refEnters
    updPort c v.1 (fun x => { x with pendingCommit := some { v.2 with refEnters := k, enters := entersOn c v.2.ref k v.1 } }))
    ((masks.filter (commitPassed c)).foldl lateCommit c)
/-- CRC windows whose one frame a time step passed over report MISSED. -/
def passedWindows (c : Chip) (p k : Nat) : Chip :=
  let x := port c p
  let c := (List.range 16).foldl (fun c n =>
    let v := nth x.windows n
    if v.enabled && v.expectFrame ≠ 0 && seqDiff v.expectFrame k < 0 then crcResult c p n 3 v.expectFrame v 0 else c) c
  let due := missWindows c p k x.windowsDue
  let pending := missWindows due.1 p k x.windowsPending
  updPort pending.1 p (fun x => { x with windowsDue := due.2, windowsPending := pending.2 })

/-- R383: a failed port resumes. -/
def resumePort (c : Chip) (p k : Nat) : Chip :=
  let x := port c p
  if !x.stopped then c
  else raiseFault (updPort c p (fun x => { x with stopped := false })) 0xC008 6 2 p 0 [w k, w (x.lateRows - x.lateAtStop)]

/-- R238: a port that may begin to send rows. -/
def maySend (x : Port) : Bool := x.trained && x.configured && x.cleared

/-- New IREF codes, and new trim of the outputs, take effect at a boundary of the lowest port (R297, R399). -/
def applyIref (c : Chip) (p : Nat) : Chip :=
  let c := if referencePort c = some p then
    { c with cal := { c.cal with irefTrim := (c.cal.trim.filter (fun x => x.1 < 0x20)).map (fun x =>
        (x.1, passTrim c 1 x.1 (look c.cal.irefTrim x.1 x.2))) } } else c
  match c.power.irefPending with
  | some l => if referencePort c = some p then { c with power := { c.power with iref := l, irefPending := none } } else c
  | none => c

/-- PPS_OUT by the boundaries of the reference port (R371, mode 2). -/
def ppsBoundary (c : Chip) (p : Nat) : Chip :=
  if c.time.ppsOutOn && c.cfg.time.ppsOutMode = 2 && referencePort c = some p then { c with time := { c.time with ppsOut := true } } else c

/-- S lies before line 0 (R273): every lane of the group is awake at the boundary, and its sleep is over. -/
def wakeGroup (c : Chip) (p : Nat) : Chip :=
  (groupLanes c p).foldl (fun c l => updLane (endSleep c l) l (fun x => { x with wakeUi := none })) c
/-- Boundary k of a port's timetable. -/
def runBoundary (c : Chip) (p k : Nat) (t : Timetable) : Chip :=
  let x := port c p
  let c := signal (keepDeadlines c p) (17 + p)
  let c := match x.ttEvent with
    | some (e, tag, geo) =>
      raiseOwn (updPort c p (fun x => { x with ttEvent := none })) t.owner 0x5001 [w (p + b01 geo * 512), w k, w (boundaryNs t k - e), tag]
    | none => c
  let c := if x.ttEvent.isSome then sendConfig c p else c
  let c := resumePort (wakeGroup c p) p k
  let whole := frameWhole x
  let c := if whole then swapFront c p k t else if x.tiles = [] then c else holdFront c p k
  let c := updPort c p (fun x =>
    let windows := x.windowsDue.foldl (fun l v => upd l v.1 (fun _ => v.2)) x.windows
    { x with cur := k, line := 0, running := true, windowOpen := true, rephase := false, windows := windows, windowsDue := []
             half := x.half || (x.mode = .halfRate && k % 2 = 0), sends := x.sends || maySend x })
  let c := ppsBoundary (applyIref c p) p
  let c := storeBoundary c p (boundaryNs t (k + frameStep (port c p)))
  let c := if whole || x.tiles = [] then startSynthesis c p else holdSynthesis c p
  schedule (dispatchDecoders (retireUnused c p (w32 k)))

/-- FRAME_BOUNDARY: the next boundary of a port's timetable is reached, and a timetable that ends there ends. -/
def frameBoundary (p : Nat) (c : Chip) : Chip :=
  let x := port c p
  match x.tt with
  | none => c
  | some t =>
    let k := x.cur + frameStep x
    let c := advanceTo c (boundaryNs t k)
    match x.pendingTt with
    | none => runBoundary c p k t
    | some (new, e, tag) =>
      if boundaryNs t k < e then runBoundary c p k t
      else match new with
        | none => schedule (deleteTimetable c p t e tag)
        | some n =>
          let c := replaceTimetable c p t n e tag
          let k := (port c p).cur + 1
          if boundaryNs n k ≤ nowNs c then runBoundary c p k n else schedule c

/-- R229: after the time unit steps, each port restarts at a boundary at least one LINE_TIME on. -/
def rephasePort (step : Int) (c : Chip) (p : Nat) : Chip :=
  let x := port c p
  match x.tt with
  | none => c
  | some t =>
    let k0 := boundaryAt t (nowNs c + cdiv t.lineTime 1000)
    let k := if x.half && k0 % 2 = 1 then k0 + 1 else k0
    let told := x.running
    let before := frameIdOf x
    let c := updPort c p (fun x =>
      { x with cur := k - frameStep x, line := t.active + t.blank, windowOpen := nowNs c < windowOf x t k, rephase := true
               pendingTt := x.pendingTt.map (fun y => (y.1, boundaryNs t k, y.2.2)) })
    let c := if frameIdOf (port c p) = before then c else renewFrame c p
    let c := if told then raiseOwn c t.owner 0x5007 [w p, w x.cur, w k, wi step] else c
    passedWindows c p (dueFrame (port c p))
/-- Every port restarts, and the pending commits are settled under the new numbering. -/
def rephasePorts (c : Chip) (step : Int) : Chip := schedule (passedCommits ((List.range 4).foldl (rephasePort step) c))

/-! ## The line instant (R224, R227, R271, R272) -/

/-- A row of the front buffer: none where a word can be read from neither track. -/
def frontRow (c : Chip) (p : Nat) (t : Timetable) (pd : Panel) (i : Nat) : Option (List Byte) :=
  let x := port c p
  let n := rowCodeBytes pd x.frontRatio2
  match findArea c 1 p with
  | none => none
  | some a =>
    let off := rowOffset t pd x.front i
    if (wordStarts off n).any (fun o => wordAt c (areaPlace a o) = .poisoned) then none
    else some ((List.range n).map (fun k => byteAt c (areaPlace a (off + k))))

/-- Blocks counted on the quads of the stripes (R262). -/
def countBlocks (c : Chip) (p event n : Nat) : Chip :=
  let a := (activeLanes c p).length
  if a = 0 then c
  else (activeLanes c p).foldl (fun c l =>
    let s := (lane c l).stripe
    count c (96 + l / 4) event (n / a + b01 (s < n % a))) c

/-- A late row (R227): not in the line buffers (bit 8), or unreadable on both tracks (bit 9). -/
def lateRow (c : Chip) (p row why : Nat) : Chip :=
  let x := port c p
  raiseLimitedOwn (updPort c p (fun x => { x with lateRows := x.lateRows + 1 })) (portOwner c p) 0x5006 p ms10 1 3
    [w (p + 2 ^ why), w x.cur, w row, 0]

/-- An active line. -/
def activeLine (c : Chip) (p i : Nat) (t : Timetable) : Chip :=
  let x := port c p
  match rowPanel c x with
  | none => c
  | some pd =>
    let row := t.firstRow + i
    if !x.swapped || !x.sends || x.mode = .portDown then windowRows c p pd row none
    else
      let fits := !x.modeWaits || rowFits pd x.frontRatio2 (activeLanes c p).length (lineTime x t)
      if x.stopped || !fits then lateRow (windowRows c p pd row none) p row 8
      else match frontRow c p t pd i with
        | none => lateRow (windowRows c p pd row none) p row 9
        | some b =>
          let c := { c with out := { c.out with rows := (p, w32 x.cur, row, b) :: c.out.rows } }
          windowRows (countBlocks c p 0x0401 (rowBlocks pd x.frontRatio2)) p pd row (some b)

/-- R273: where S stands, in eighths of a UI: the latest superframe start at least 100 ns before an instant. -/
def wakeStart (c : Chip) (firstBlockNs : Nat) : Nat :=
  (c.laneUi + 225 * (firstBlockNs - nowNs c - 100)) / superframeUi * superframeUi % (65536 * superframeUi)
/-- Eighths of a UI from now to a place in the count. -/
def untilUi (c : Chip) (u : Nat) : Nat := (u + 65536 * superframeUi - c.laneUi) % (65536 * superframeUi)
/-- The lanes of a group sleep through blanking where there is time up to the end of their wake (R272): each sends LP_ENTER. -/
def sleepGroup (c : Chip) (p : Nat) (t : Timetable) : Chip :=
  let x := port c p
  let grouped := total ((List.range 4).map (fun q => (groupLanes c q).length))
  let s := wakeStart c (boundaryNs t (x.cur + frameStep x))
  let ns := untilUi c s / 225 - (lineUse x x.cur t.active).ps / 1000
  let deep : Bool := decide (24 < grouped)
  if !x.sends || x.switching ≠ [] || x.cmdWaits ≠ [] || (if deep then ns < 50000 else ns < 1000) then c
  else
    let lanes := inUse c p
    let c := lanes.foldl (fun c l => updLane c l (fun y => { y with asleep := true, deep := deep, wakeUi := some s, sleptNs := nowNs c })) c
    { c with out := { c.out with sleeps := (lanes.map (fun l => (l, deep, s / superframeUi))).reverse ++ c.out.sleeps } }

/-- Lanes that drive take the new trim of their quad at a superframe boundary in a blanking line (R399). -/
def takeTrims (c : Chip) (p : Nat) : Chip :=
  ((inUse c p).filter (fun l => !(lane c l).asleep && !(lane c l).skipTrim && !((port c p).switching.any (fun x => x.1 = l)))).foldl
    takeTrim c

/-! ## Retraining pauses (R324, R325) -/

/-- A port is in its quiet interval: it reads no frame buffer. -/
def quietPort (c : Chip) (p : Nat) : Bool :=
  let x := port c p
  match x.tt with
  | none => true
  | some t => !x.running ||
    decide (lineNs x t (t.active - 1) ≤ nowNs c ∧ nowNs c + 10000 ≤ boundaryNs t (x.cur + frameStep x))
/-- Ports whose frame buffers lie on a controller. -/
def buffersOn (c : Chip) (mc : Nat) : List Nat :=
  (List.range 4).filter (fun p => (port c p).tt.isSome &&
    c.areas.any (fun a => a.code = 1 && a.unit % 4 = p && (withMirrors a.mcs a.twin).contains mc))
/-- A pause that fell due at an instant may start now. -/
def mayPause (c : Chip) (mc ch since : Nat) : Bool :=
  let ports := buffersOn c mc
  let longest := (ports.map (fun p => match (port c p).tt with | some t => t.period | none => 0)).foldl max 0
  let partner := if mc % 2 = 0 then mc + 1 else mc - 1
  mcOk c mc && (nth c.mcs mc).paused.isNone && (nth c.mcs partner).paused ≠ some ch &&
  (ports.all (quietPort c) ||
    (since + 2 * longest ≤ nowNs c && match ports.head? with | some p => quietPort c p | none => true))
/-- A channel pauses: a run of MEMORY starts (R400). -/
def startPause (c : Chip) (mc : Nat) : Chip :=
  match (nth c.mcs mc).pausesDue.find? (fun d => mayPause c mc d.1 d.2.1) with
  | none => c
  | some d =>
    let c := updCal c 4 (fun x => { x with stale := true })
    updMc c mc (fun m => { m with paused := some d.1, pauseOfRun := d.2.2, pausesDue := m.pausesDue.filter (· ≠ d) })
/-- Every pause that may start does. -/
def startPauses (c : Chip) : Chip := (List.range 16).foldl startPause c

/-- LINE_INSTANT: the next line of a port begins. -/
def nextLine (p : Nat) (c : Chip) : Chip :=
  let x := port c p
  match x.tt with
  | none => c
  | some t =>
    if !x.running || x.rephase || t.active + t.blank ≤ x.line then c
    else
      let c := advanceTo c (lineNs x t x.line)
      let c := if x.line < t.active then activeLine c p x.line t else c
      let c := flushCommands (updPort c p (fun x => { x with line := x.line + 1 })) p
      let c := if x.line = t.active then sleepGroup (takeTrims c p) p t else c
      if x.line + 1 = t.active then startPauses c else c

/-! ## The close of the departure window (R234, R235, R210, R166, R243) -/

/-- A pending `frame_commit` comes in force from frame k. -/
def commitInForce (c : Chip) (p k : Nat) : Chip :=
  match (port c p).pendingCommit with
  | some y =>
    if !reached k y.enters then c
    else
      raiseOwn (updPort c p (fun x => { x with pendingCommit := none, frameId := y.id, frameTag := y.tag, frameOwner := y.owner })) y.owner
        0x5002 [w p, w k, y.id, y.tag]
  | none => c

/-- TABLES_IN_FORCE for each table, of KIND 0, 1 or 2 or a set of KIND 3, whose newest load the port has not used yet. -/
def tablesInForce (c : Chip) (p k : Nat) : Chip :=
  let old := (port c p).tables.gens
  let c := (List.range 19).foldl (fun c kind =>
    if nth c.tables.gens kind = nth old kind then c
    else raise c 0x3004 [w (p + min kind 3 * 256), w (nth c.tables.gens kind), w k]) c
  let c := updPort c p (fun x => { x with tables := c.tables })
  match (port c p).tt with
  | some t => if (port c p).swapped then c else adoptBuffers c p t
  | none => c

/-- DEPARTURE_WINDOW_CLOSE: W_f of the frame in synthesis. -/
def windowClose (p : Nat) (c : Chip) : Chip :=
  let x := port c p
  match x.tt with
  | none => c
  | some t =>
    if !x.windowOpen then c
    else
      let k := dueCount x
      let c := advanceTo c (windowOf x t (x.cur + frameStep x))
      let c := commitInForce c p k
      let c := if referencePort c = some p then settleLayers c k else c
      let uses := layersFor c (port c p)
      let c := (uses.map (·.surf)).foldl showSurface c
      let c := windowsInForce (tablesInForce c p k) p (w32 k)
      schedule (updPort c p (fun x => { x with windowOpen := false, layers := uses }))

/-! ## Commands -/

/-- TIMETABLE_SET (R37, R220 to R222, R238). -/
def execTimetableSet (via : Via) (s : State) : Host.Outcome State Fault Refusal :=
  .next (cciCommand 0x11 neverBusy timetableSetBody via s)
/-- FRAME_COMMIT (R235 to R237). -/
def execFrameCommit (via : Via) (s : State) : Host.Outcome State Fault Refusal :=
  .next (cciCommand 0x12 neverBusy frameCommitBody via s)
/-- CRC_WINDOW_SET (R240, R243). -/
def execCrcWindowSet (via : Via) (s : State) : Host.Outcome State Fault Refusal :=
  .next (cciCommand 0x15 neverBusy crcWindowSetBody via s)
/-- FRAME_BOUNDARY (R14, R15, R190, R226, R232, R238, R239). -/
def execFrameBoundary (port : Fin 4) (s : State) : Host.Outcome State Fault Refusal := .next (s.runLive (frameBoundary port.val))
/-- LINE_INSTANT (R224, R227, R241, R242, R272). -/
def execLineInstant (port : Fin 4) (s : State) : Host.Outcome State Fault Refusal := .next (s.runLive (nextLine port.val))
/-- DEPARTURE_WINDOW_CLOSE (R166, R210, R234, R235, R243). -/
def execDepartureWindowClose (port : Fin 4) (s : State) : Host.Outcome State Fault Refusal :=
  .next (s.runLive (windowClose port.val))

end Sys2Proof.Machine
end

