-- ==== Sys2Proof/Machine/Points.lean ====
section
/-!
DEFINITION. Lanes in training and in service: the phases of Table 9-4, return messages, the points on a lost lane, resends
and the modes of a port (R256 to R274).
-/

namespace Sys2Proof.Machine

/-! ## Training (R257, R258, R269) -/

/-- The best tap point: highest FoM, then lower POST, then lower PRE. -/
def bestPoint (l : List (Nat × Nat × Nat)) : Option (Nat × Nat × Nat) :=
  l.foldl (fun best x => match best with
    | none => some x
    | some b =>
      if b.2.2 < x.2.2 || (b.2.2 = x.2.2 && (x.2.1 < b.2.1 || (x.2.1 = b.2.1 && x.1 < b.1))) then some x else some b) none

/-- A tap point and its figure of merit, as an EQ phase measured it. -/
def measured (l : List (Nat × Nat × Nat)) (points : List (Nat × Nat)) : List (Nat × Nat × Nat) :=
  points.filterMap (fun q => l.find? (fun x => x.1 = q.1 && x.2.1 = q.2))
/-- The grid of EQ (Table 9-4), and the neighbours of a point within the ranges of PRE and POST (log 98). -/
def tapGrid : List (Nat × Nat) := (List.range 7).flatMap (fun i => (List.range 7).map (fun j => (2 * i, 4 * j)))
def tapNeighbours (pre post : Nat) : List (Nat × Nat) :=
  ((List.range 3).flatMap (fun i => (List.range 3).map (fun j => (pre + i, post + j)))).filterMap (fun q =>
    if q = (pre + 1, post + 1) || q.1 = 0 || q.2 = 0 || 13 < q.1 || 25 < q.2 then none else some (q.1 - 1, q.2 - 1))
/-- The tap point that EQ settles on, once all its points are measured. -/
def settledPoint (l : List (Nat × Nat × Nat)) : Option (Nat × Nat × Nat) :=
  let grid := measured l tapGrid
  if grid.length < tapGrid.length then none
  else (bestPoint grid).bind (fun b =>
    let near := measured l (tapNeighbours b.1 b.2.1)
    if near.length < (tapNeighbours b.1 b.2.1).length then none else bestPoint (grid ++ near))
/-- c(−1), c(0) and c(+1) of a lane's transmit equaliser, in 64ths of the full swing (R256). -/
def tapWeights (x : Lane) : Int × Int × Int := (-(x.pre : Int), 64 - ((x.pre : Int) + x.post), -(x.post : Int))
/-- Block, comma and FEC lock by the lane's last LANE_REPORT. -/
def laneLock (x : Lane) : Bool := (x.flags / 2) % 8 = 7

/-- A lane passes CHECK: it takes the stripe of its last TS, and a retried lane becomes siding (R269). -/
def lanePasses (c : Chip) (l : Nat) : Chip :=
  match portOfLane c l with
  | none => idleLane c l
  | some p =>
    let y := lane c l
    let stripe := (trainingStripe c p l).1
    let c := updLane c l (fun x =>
      { x with st := if stripe = 0xFE then .siding else .active, stripe := stripe, everTrained := true, retrying := false
               lostSince := x.lostSince && !x.full, attempts := 0, lowRun := 0, marginRun := 0, window := [], trial := none })
    let c := if y.retrying then raiseOwn c (portOwner c p) 0x6004 [w (l + p * 256), w (y.fom % 256)]
      else updPort c p (fun x => { x with anyFull := x.anyFull || y.full })
    groupTrained c p

/-- TRAINING_PHASE_END: the phase of a lane ends once what Table 9-4 asks has come about. -/
def phaseEnd (l : Nat) (r : PhaseReport) (c : Chip) : Chip :=
  let y := lane c l
  match y.st with
  | .wake => enterPhase c l .align
  | .align => if y.locked then enterPhase c l (if y.full then .eq else .check) else c
  | .eq => match settledPoint r.points with
      | some b => enterPhase (updLane c l (fun x => { x with pre := b.1, post := b.2.1 })) l .check
      | none => c
  | .check => if (if y.full then 16 else 4) ≤ y.checkRun then lanePasses c l else c
  | .idle | .active | .siding | .lost => c

/-- The number of a phase in LNK_TRAIN_FAILED (log 13). -/
def phaseNumber : LaneState → Nat
  | .align => 1
  | .eq => 2
  | .check => 3
  | .wake | .idle | .active | .siding | .lost => 0
/-- The owner of the port whose group holds a lane. -/
def laneOwner (c : Chip) (l : Nat) : Nat := match portOfLane c l with
  | some p => portOwner c p
  | none => 0

/-- TRAINING_TIMEOUT: the time of a phase, by its number in LNK_TRAIN_FAILED, has passed; nothing for a phase that the lane
has left. -/
def phaseTimeout (l phase : Nat) (c : Chip) : Chip :=
  let y := lane c l
  if !inTraining y || phaseNumber y.st ≠ phase then c
  else if y.attempts + 1 < 3 then enterPhase (updLane c l (fun x => { x with full := true, attempts := x.attempts + 1 })) l .wake
  else
    let c := updLane c l (fun x => { x with st := .lost, stripe := 0xFF, lostSince := true, attempts := 0 })
    let c := raiseOwn c (laneOwner c l) 0x6003 [w (l + (y.attempts + 1) * 256), w (y.fom % 256 + phaseNumber y.st * 256)]
    match portOfLane c l with
    | some p => groupTrained c p
    | none => c

/-- LANE_RETRY: a lost lane trains alone, in full; like every training it starts only while a pair serves (R18). -/
def retryLane (l : Nat) (c : Chip) : Chip :=
  let y := lane c l
  if y.st ≠ .lost || y.unusable || !c.power.driverUp || !smServes c || (portOfLane c l).isNone then c
  else updLane (trainLane c l) l (fun x => { x with full := true, retrying := true, retries := x.retries + 1 })

/-- How long before S a wake burst begins, in eighths of a UI (R273). -/
def burstUi (deep : Bool) : Nat := if deep then 8 * 840000 + superframeUi else 8 * 2880
/-- LANE_WAKE: a sleeping lane begins its wake burst, at the latest instant that R273 allows. -/
def wakeLane (l : Nat) (c : Chip) : Chip :=
  let y := lane c l
  if !y.asleep then c
  else
    let left := (y.wakeUi.map (untilUi c)).getD 0
    let c := if burstUi y.deep ≤ left && left < 32768 * superframeUi then advanceTo c (nowNs c + (left - burstUi y.deep) / 225) else c
    endSleep c l

/-! ## Return messages (R246, R260) -/

/-- A quad has a lane in a group. -/
def quadInUse (c : Chip) (q : Nat) : Bool := (List.range 4).any (fun k => (portOfLane c (4 * q + k)).isSome)
/-- Types that R260 and Table 10-4 define. -/
def messageTypes : List Nat := [0x02, 0x10, 0x11, 0x20, 0x21, 0x22]
/-- A return lane is lost, or recovers (R259, R264). -/
def returnLost (q cause : Nat) (c : Chip) : Chip :=
  if !quadInUse c q || !(quad c q).returnUp then c
  else raise (actionDone (updQuad c q (fun x => { x with returnUp := false, recent := [] })) 8 q) 0x6006 [w (q + cause * 256)]
def returnUp (q : Nat) (c : Chip) : Chip :=
  if !quadInUse c q || (quad c q).returnUp then c
  else raise (updQuad c q (fun x => { x with returnUp := true, recent := [] })) 0x6007 [w q]

/-- A message has arrived, its CHECK wrong or right; 4 wrong ones of 16 lose the return lane (R264). -/
def noteCheck (c : Chip) (q : Nat) (wrong : Bool) : Chip :=
  let c := updQuad c q (fun x => { x with recent := (wrong :: x.recent).take 16, checkFails := x.checkFails + b01 wrong })
  if 4 ≤ (quad c q).recent.count true then returnLost q 3 c else c
/-- A return message is discarded and counted. -/
def discardReturn (c : Chip) (q : Nat) : Chip :=
  count (updQuad c q (fun x => { x with discarded := x.discarded + 1 })) (96 + q) 0x0407 1
/-- A return message of a type arrives on a quad's return lane; none does on one that is lost (R264). -/
def takeReturn (q typ : Nat) (b : List Byte) (f : Chip → Chip) (c : Chip) : Chip :=
  if !quadInUse c q || !(quad c q).returnUp then c
  else if crc16 (slice b 0 14) ≠ ofBe (slice b 14 2) then discardReturn (noteCheck c q true) q
  else
    let c := noteCheck c q false
    if !messageTypes.contains (nth b 0).toNat then discardReturn c q
    else if (nth b 0).toNat = typ then f c else c

/-- A window's figure of merit (R255, R264, R270). -/
def takeFom (c : Chip) (l fom : Nat) : Chip :=
  let c := updLane c l (fun x => { x with
    lowRun := if fom < 16 then x.lowRun + 1 else 0
    marginRun := if fom < 40 then x.marginRun + 1 else 0
    window := (fom :: x.window).take 4
    after := if x.trial.isSome && x.after.length < 4 then x.after ++ [fom] else x.after })
  let y := lane c l
  let c := if 4 ≤ y.marginRun && (y.st = .active || y.st = .siding) then
      raiseEvery c (laneOwner c l) 0x6005 l sec10 [w l, w (fom + y.pre * 256 + y.post * 65536)]
    else c
  if 4 ≤ y.lowRun then loseLane c l 5 (nowNs c) else c
/-- a − b of two superframe counts is 0 or more, modulo 2¹⁶. -/
def sfSince (a b : Nat) : Bool := (a + 65536 - b % 65536) % 65536 < 32768
/-- A window of a lane has ended: its codewords count, it counts toward CHECK where it began in that phase (R257), and its
figure of merit is taken. -/
def takeWindow (c : Chip) (l : Nat) (b : List Byte) : Chip :=
  let uncorr := be16 b 6
  let corrected := be32 b 8
  let fom := byteOf b 3
  let c := updLane c l (fun x =>
    { x with windowSf := some (be16 b 4)
             checkRun := if x.st = .check && sfSince (be16 b 4) x.phaseSf then (if 64 ≤ fom && uncorr = 0 then x.checkRun + 1 else 0) else x.checkRun })
  let c := updQuad c (l / 4) (fun x => { x with corrected := x.corrected + corrected, uncorr := x.uncorr + uncorr })
  let c := count (count c (96 + l / 4) 0x0404 corrected) (96 + l / 4) 0x0405 uncorr
  takeFom c l fom
/-- LANE_REPORT: one that names the window already taken, as at a change of FLAGS, counts no window (log 98). -/
def laneReport (b : List Byte) (c : Chip) : Chip :=
  let l := byteOf b 1
  if (portOfLane c l).isNone then c
  else
    let y := lane c l
    let c := updLane c l (fun x => { x with flags := byteOf b 2, fom := byteOf b 3 })
    let c := updLane c l (fun x => { x with locked := x.locked || laneLock x })
    if y.windowSf = some (be16 b 4) then c else takeWindow c l b
/-- When codeword LAST_CW of superframe LAST_SF ended, in ns; now for one that has not been sent. -/
def codewordEnd (c : Chip) (sf cw : Nat) : Nat :=
  let age := (c.laneUi + 65536 * superframeUi - (sf * superframeUi + (cw + 1) * 21760) % (65536 * superframeUi)) % (65536 * superframeUi)
  if age < 32768 * superframeUi then nowNs c - age / 225 else nowNs c
/-- LANE_FAULT: the first one for a lane counts (R264). -/
def laneFault (b : List Byte) (c : Chip) : Chip := loseLane c (byteOf b 1) (byteOf b 2) (codewordEnd c (be16 b 4) (byteOf b 6))

/-! ## Adaptation in service (R270) -/

/-- One step of PRE or POST inside its range: away from a limit where the step would pass it. -/
def stepTap (post up : Bool) (x : Lane) : Lane × Bool :=
  let v := if post then x.post else x.pre
  let top := if post then 24 else 12
  let up := if v = 0 then true else if top ≤ v then false else up
  let v := if up then v + 1 else v - 1
  (if post then { x with post := v } else { x with pre := v }, up)
/-- A step of which the spec leaves the tap and the direction open (log 7). -/
def tryStep (c : Chip) (l : Nat) : Chip :=
  let a := drawBit c
  let b := drawBit a.2
  updLane b.2 l (fun x =>
    let y := stepTap a.1 b.1 x
    { y.1 with trial := some (a.1, y.2), before := total x.window, after := [] })
/-- The port of a lane is in blanking, and the lane has taken no step in its frame. -/
def mayStep (c : Chip) (l : Nat) : Bool := match portOfLane c l with
  | some p => match (port c p).tt with
    | some t => (port c p).running && t.active < (port c p).line && (lane c l).stepFrame ≠ some (port c p).cur
    | none => false
  | none => false
/-- The frame in which a lane takes a step. -/
def stepNow (c : Chip) (l : Nat) : Option Nat := (portOfLane c l).map (fun p => (port c p).cur)
/-- The step that a stage of a commanded LANE_EQ run takes: PRE up, PRE down, POST up, POST down (R399). -/
def stageStep (l : Nat) (c : Chip) : Chip :=
  updLane c l (fun x =>
    let y := stepTap (decide (2 ≤ x.eqStage)) (x.eqStage % 2 = 0) x
    { y.1 with trial := some (decide (2 ≤ x.eqStage), y.2), before := total x.window, after := [], stepFrame := stepNow c l })
/-- A commanded run of LANE_EQ is in progress on a lane (R399). -/
def eqRun (c : Chip) (l : Nat) : Bool := (calDomain c 3).running && (calDomain c 3).units.contains l
/-- The next step of a lane: in a commanded run whatever its FoM; else one below a FoM of 128, held while LANE_EQ is stale (R400). -/
def nextStep (c : Chip) (l : Nat) : Chip :=
  if eqRun c l then (if (lane c l).eqStage < 4 then stageStep l c else c)
  else if (lane c l).fom < 128 then updLane (tryStep c l) l (fun x => { x with stepFrame := stepNow c l }) else c
/-- A step has been judged: a commanded run comes to its next stage. -/
def stepDone (c : Chip) (l : Nat) : Chip := if eqRun c l then updLane c l (fun x => { x with eqStage := x.eqStage + 1 }) else c
/-- TAP_ADAPT: the four windows after a step are set against the four before it. -/
def adaptTaps (l : Nat) (c : Chip) : Chip :=
  let y := lane c l
  if !(y.st = .active || y.st = .siding) || y.window.length < 4 || !mayStep c l || ((calDomain c 3).stale && !eqRun c l) then c
  else
    match y.trial with
    | some (post, up) =>
      if y.after.length < 4 then c
      else if y.before ≤ total y.after then nextStep (stepDone (updLane c l (fun x => { x with trial := none })) l) l
      else stepDone (updLane c l (fun x => { (stepTap post (!up) x).1 with trial := none, stepFrame := stepNow c l })) l
    | none => nextStep c l

/-! ## The points (R261, R265) -/

/-- Distance in lane number. -/
def laneGap (a b : Nat) : Nat := (a - b) + (b - a)
/-- The siding lane that takes a lost lane's stripe: none that is lost itself. -/
def chooseSiding (c : Chip) (p l : Nat) (lost : List Nat) : Option Nat :=
  let s := (sidingLanes c p).filter (fun k => !lost.contains k)
  if s.contains (lane c l).sidingOf then some (lane c l).sidingOf
  else s.foldl (fun best k => match best with
    | none => some k
    | some b => if laneGap k l < laneGap b l then some k else some b) none

/-- A lane is lost: electrical idle, no stripe. -/
def dropLane (c : Chip) (l : Nat) : Chip :=
  updLane (endSleep c l) l (fun x => { x with st := .lost, stripe := 0xFF, lostSince := true, lostCount := x.lostCount + 1, retries := 0,
                                                attempts := 0, lowRun := 0, marginRun := 0, asleep := false, deep := false, wakeUi := none, trial := none, window := [] })

/-- What became of a lost lane: lane, cause, stripe or 0xFF, the lane that took it or 0xFF, and whether the port restripes. -/
structure LostLane where
  lane : Nat := 0
  cause : Nat := 0
  stripe : Nat := 0xFF
  new : Nat := 0xFF
  restripe : Bool := false
deriving DecidableEq, Repr, Inhabited

/-- One lost lane at the points. -/
def switchLane (p : Nat) (lost : List Nat) (st : Chip × List LostLane) (x : Nat × Nat × Nat × Nat) : Chip × List LostLane :=
  let y := lane st.1 x.1
  if y.st ≠ .active then (dropLane st.1 x.1, st.2 ++ [{ lane := x.1, cause := x.2.1 }])
  else
    match chooseSiding st.1 p x.1 lost with
    | some n =>
      (updLane (dropLane st.1 x.1) n (fun z => { z with st := .active, stripe := y.stripe }),
       st.2 ++ [{ lane := x.1, cause := x.2.1, stripe := y.stripe, new := n }])
    | none => (dropLane st.1 x.1, st.2 ++ [{ lane := x.1, cause := x.2.1, stripe := y.stripe, restripe := true }])

/-- Stripes are renumbered over the active lanes, in lane order (R267). -/
def renumber (c : Chip) (p : Nat) : Chip :=
  let l := activeLanes c p
  (List.range l.length).foldl (fun c k => updLane c (nth l k) (fun x => { x with stripe := k })) c
/-! ## Modes (R267) -/

/-- The first mode that fits on a lanes, with its number in LANE_LOST, and the port's mode after it. -/
def modeOn (x : Port) (t : Timetable) (pd : Panel) (a : Nat) : Nat × LaneMode :=
  if x.mode = .portDown then (4, .portDown)
  else if x.mode ≠ .halfRate && rowFits pd (effRatio2 x t) a t.lineTime then (1, if x.mode = .normal then .restriped else x.mode)
  else if x.mode ≠ .halfRate && effRatio2 x t && rowFits pd false a t.lineTime then (2, .fellTo41)
  else if rowFits pd false a (2 * t.lineTime) then (3, .halfRate)
  else (4, .portDown)
/-- A mode begins. -/
def beginMode (c : Chip) (p : Nat) (t : Timetable) (m : LaneMode) : Chip :=
  let x := port c p
  if x.mode = m then c
  else
    let c := updPort c p (fun x => { x with mode := m, modeWaits := m = .fellTo41 || m = .halfRate })
    let c := if effRatio2 x t ≠ effRatio2 (port c p) t then renewTiles c p (fun _ => true) else c
    if m = .portDown then raiseOwn c t.owner 0x6008 [w p, w (inUse c p).length] else sendConfig c p

/-! ## Resends (R266) -/

/-- A lost stripe's blocks of one line; a segment that is resent takes the blocks from `start` on of the line it is sent in. -/
structure Segment where
  lane : Nat := 0
  line : Nat := 0
  blocks : Nat := 0
  /-- J0: the line block index of its first block -/
  j0 : Nat := 0
  sent : Bool := false
  /-- it is sent in the second of the two lines -/
  second : Bool := false
  start : Nat := 0
deriving DecidableEq, Repr, Inhabited
/-- Place the segments in the two lines from the switch on, oldest first, each with a header block; what the lines have left
then. -/
def placeSegments (a s : Nat) : List Segment → LineRoom → LineRoom → List Segment × LineRoom × LineRoom
  | [], r1, r2 => ([], r1, r2)
  | g :: rest, r1, r2 =>
    let n := g.blocks + 1
    let slots := cdiv n a
    let after := fun (r : LineRoom) => { r with ps := r.ps - slotsTime slots, block := r.block + n }
    if a ≠ 0 && s ≤ g.line + 2 && slotsFit slots r1.ps then
      let r := placeSegments a s rest (after r1) r2
      ({ g with sent := true, start := r1.block } :: r.1, r.2)
    else if a ≠ 0 && s ≤ g.line + 1 && slotsFit slots r2.ps then
      let r := placeSegments a s rest r1 (after r2)
      ({ g with sent := true, second := true, start := r2.block } :: r.1, r.2)
    else
      let r := placeSegments a s rest r1 r2
      (g :: r.1, r.2)
/-- The line of a port's frame in which an instant lies; 0 for one before it. -/
def lineOf (x : Port) (t : Timetable) (ns : Nat) : Nat := (ns - boundaryNs t x.cur) * 1000 / lineTime x t
/-- The segments of the stripes lost on a lanes: of each line up to the switch whose row was sent, the stripe's blocks from the
slot after the last good codeword on. -/
def segmentsOf (c : Chip) (p a s : Nat) (t : Timetable) (pd : Panel) (lost : List (Nat × Nat × Nat × Nat)) : List Segment :=
  let x := port c p
  let n := rowBlocks pd x.frontRatio2
  let active := if x.running then lost.filter (fun l => (lane c l.1).st = .active) else []
  let first := minOf (active.map (fun l => lineOf x t l.2.2.2))
  (List.range (s - first)).flatMap (fun k =>
    let i := first + k
    if !(i < t.active && c.out.rows.any (fun r => r.1 = p && r.2.1 = w32 x.cur && r.2.2.1 = t.firstRow + i)) then []
    else active.filterMap (fun l =>
      let s := (lane c l.1).stripe
      let all := n / a + b01 (s < n % a)
      let at_ := lineNs x t i
      let left := (List.range all).countP (fun b => 225 * at_ + blockDelay c at_ b < 225 * l.2.2.2)
      if left = all then none else some { lane := l.1, line := i, blocks := all - left, j0 := s + left * a }))
/-- A line has become less by what was placed in it. -/
def takeRoom (k i : Nat) (before after : LineRoom) (x : Port) : Port :=
  let u := lineUse x k i
  { x with lineUses := ({ u with ps := u.ps + (before.ps - after.ps), blocks := u.blocks + (after.block - before.block) } ::
      x.lineUses.filter (fun v => !(v.boundary = k && v.line = i))).take 4 }
/-- Blocks from a line block index on, counted on the quads of their stripes. -/
def countFrom (c : Chip) (p event start n : Nat) : Chip :=
  let a := (activeLanes c p).length
  if a = 0 then c
  else (activeLanes c p).foldl (fun c l =>
    let s := (lane c l).stripe
    let upTo := fun (m : Nat) => (m + a - 1 - s) / a
    count c (96 + l / 4) event (upTo (start + n) - upTo start)) c

/-! ## POINTS_SWITCH -/

/-- LANE_LOST. -/
def reportLost (p frame line mode : Nat) (segs : List Segment) (c : Chip) (x : LostLane) : Chip :=
  let mine := segs.filter (fun g => g.lane = x.lane)
  raiseOwn (actionDone c 7 x.lane) (portOwner c p) 0x6001
    [w (x.lane + x.stripe * 256 + x.new * 65536 + x.cause * 2 ^ 24), w (p + (if x.restripe then mode else 0) * 256), w frame,
     w (line + mine.countP (·.sent) * 65536 + mine.countP (fun g => !g.sent) * 2 ^ 24)]

/-- The line instant of a switch: boundary count, line, and lines from the front frame's line 0. -/
def switchLine (x : Port) (t : Timetable) (ns : Nat) : Nat × Nat × Nat :=
  let lines := t.active + t.blank
  let i := if ns ≤ boundaryNs t x.cur then 0 else cdiv ((ns - boundaryNs t x.cur) * 1000) (lineTime x t)
  if i < lines then (x.cur, i, i) else (x.cur + frameStep x, 0, lines)

/-- What a line has left for resends: nothing in a row's line while the port is stopped (R383), nor in blanking once its lanes
sleep (R272). -/
def resendRoom (c : Chip) (p : Nat) (t : Timetable) (pd : Panel) (a : Nat) (at_ : Nat × Nat × Nat) : LineRoom :=
  let x := port c p
  let r := roomIn x t pd a at_.1 at_.2.1
  if (if at_.2.1 < t.active then x.stopped else (activeLanes c p).any (fun l => (lane c l).asleep)) then { r with ps := 0 } else r
/-- The lost lanes of a port switch. -/
def switchPort (p : Nat) (c : Chip) : Chip :=
  let x := port c p
  match x.tt, rowPanel c x, (x.switching.map (fun y => y.2.2.1)) with
  | some t, some pd, i :: more =>
    let at_ := switchLine x t ((more.foldl min i) + 200)
    let instant := if at_.1 = x.cur then lineNs x t at_.2.1 else boundaryNs t at_.1
    let c := advanceTo c instant
    let due := x.switching.filter (fun y => y.2.2.1 + 200 ≤ max instant (more.foldl min i + 200))
    let order := sortBy (fun (u v : Nat × Nat × Nat × Nat) => decide (u.1 < v.1)) due
    let segs := segmentsOf c p (activeLanes c p).length at_.2.2 t pd order
    let before := c
    let r := order.foldl (switchLane p (x.switching.map (·.1))) (updPort c p (fun x => { x with switching := x.switching.filter (fun y => !due.contains y) }), [])
    let restripes := r.2.any (·.restripe)
    let c := sendSwitches before (if restripes then renumber r.1 p else r.1) p
    let a := (activeLanes c p).length
    let m := modeOn x t pd a
    let down := restripes && m.2 = .portDown
    let next := if at_.2.1 + 1 < t.active + t.blank then (at_.1, at_.2.1 + 1) else (at_.1 + frameStep x, 0)
    let r1 := resendRoom c p t pd a at_
    let r2 := resendRoom c p t pd a (next.1, next.2, at_.2.2 + 1)
    let placed := if down then (segs, r1, r2) else placeSegments a at_.2.2 segs r1 r2
    let segs := placed.1
    let c := updPort c p (fun x => takeRoom next.1 next.2 r2 placed.2.2 (takeRoom at_.1 at_.2.1 r1 placed.2.1 x))
    let c := segs.foldl (fun c g => if g.sent then countFrom c p 0x0403 g.start (g.blocks + 1) else c) c
    let packetOf := fun (g : Segment) =>
      (p, w32 x.cur, t.firstRow + g.line, (lane before g.lane).stripe, (activeLanes before p).length, g.j0)
    let sent := segs.filter (fun (g : Segment) => g.sent)
    let switches := (c.out.switches.take (c.out.switches.length - before.out.switches.length)).map (fun (v : Nat × Nat × Nat) =>
      ({ port := p, boundary := at_.1, line := at_.2.1, switchLane := some v.1, data := switchBlock v.2.1 v.2.2 } : LineItem))
    let items := sent.map (fun g =>
      let into := if g.second then next else (at_.1, at_.2.1)
      ({ port := p, boundary := into.1, line := into.2, first := g.start, data := resendPacket pd c.out.rows (packetOf g) } : LineItem))
    let c := { c with out := { c.out with
      resends := (sent.map packetOf).reverse ++ c.out.resends, items := items ++ switches ++ c.out.items } }
    let c := r.2.foldl (reportLost p (w32 at_.1) at_.2.1 m.1 segs) c
    if restripes then schedule (beginMode c p t m.2) else c
  | _, _, _ => c

/-! ## `lane_status` (R274) -/

/-- The word of a lane. -/
def laneWord (x : Lane) : U32 :=
  w (x.fom + b01 (laneLock x) * 256 + b01 (x.st = .siding) * 512 + b01 (x.st = .active) * 1024 + b01 x.unusable * 2048)
/-- The quad's reports arrive only through other return lanes of its groups. -/
def relayed (c : Chip) (q : Nat) : Bool :=
  !(quad c q).returnUp && (List.range 4).any (fun k => match portOfLane c (4 * q + k) with
    | some p => (groupLanes c p).any (fun l => (quad c (l / 4)).returnUp)
    | none => false)
/-- `lane_status`. -/
def laneStatusBody : Body := fun e c =>
  let q := mf e 0x10 3 0
  if quadCount c ≤ q then reject c stUNKNOWN_RESOURCE
  else
    let x := quad c q
    (updQuad c q (fun y => { y with checkFails := 0, corrected := 0, uncorr := 0 }),
     ok ((List.range 4).map (fun k => laneWord (lane c (4 * q + k))) ++
       [w (b01 x.returnUp + b01 (relayed c q) * 2 + min x.checkFails 65535 * 65536), w x.corrected, w x.uncorr]))

/-! ## Commands -/

/-- TRAINING_PHASE_END (R256 to R258, R269). -/
def execTrainingPhaseEnd (lane : Fin 48) (r : PhaseReport) (s : State) : Host.Outcome State Fault Refusal :=
  .next (s.runLive (phaseEnd lane.val r))
/-- TRAINING_TIMEOUT (R258). -/
def execTrainingTimeout (lane : Fin 48) (phase : Fin 4) (s : State) : Host.Outcome State Fault Refusal :=
  .next (s.runLive (phaseTimeout lane.val phase.val))
/-- LANE_REPORT (R260, R264, R270). -/
def execLaneReport (quad : Fin 12) (payload : List Byte) (s : State) : Host.Outcome State Fault Refusal :=
  .next (s.runLive (takeReturn quad.val 0x10 payload (laneReport payload)))
/-- LANE_FAULT (R260, R263, R264, R273). -/
def execLaneFault (quad : Fin 12) (payload : List Byte) (s : State) : Host.Outcome State Fault Refusal :=
  .next (s.runLive (takeReturn quad.val 0x11 payload (laneFault payload)))
/-- POINTS_SWITCH (R265 to R267). -/
def execPointsSwitch (port : Fin 4) (s : State) : Host.Outcome State Fault Refusal := .next (s.runLive (switchPort port.val))
/-- LANE_RETRY (R269). -/
def execLaneRetry (lane : Fin 48) (s : State) : Host.Outcome State Fault Refusal := .next (s.runLive (retryLane lane.val))
/-- LNK_RETURN_LOST (R264). -/
def execLnkReturnLost (quad : Fin 12) (cause : Fin 4) (s : State) : Host.Outcome State Fault Refusal :=
  .next (s.runLive (returnLost quad.val cause.val))
/-- LNK_RETURN_UP (R259, R264). -/
def execLnkReturnUp (quad : Fin 12) (s : State) : Host.Outcome State Fault Refusal := .next (s.runLive (returnUp quad.val))
/-- TAP_ADAPT (R270). -/
def execTapAdapt (lane : Fin 48) (s : State) : Host.Outcome State Fault Refusal := .next (s.runLive (adaptTaps lane.val))
/-- LANE_WAKE (R273). -/
def execLaneWake (lane : Fin 48) (s : State) : Host.Outcome State Fault Refusal := .next (s.runLive (wakeLane lane.val))
/-- LANE_STATUS (R274). -/
def execLaneStatus (via : Via) (s : State) : Host.Outcome State Fault Refusal := .next (cciCommand 0x40 neverBusy laneStatusBody via s)

end Sys2Proof.Machine
end

