-- ==== Sys2Proof/Machine/Panel.lean ====
section
/-!
DEFINITION. Panel drive: driver messages and commands (R277, R284 to R286), the rail sequences (R291 to R295), current
references (R296, R297), the correction map, the drive parameters and their restore (R298 to R306).
-/

namespace Sys2Proof.Machine

def updPower (c : Chip) (f : Power → Power) : Chip := { c with power := f c.power }

/-! ## Driver messages (R277, R285, R286) -/

def driver? (c : Chip) (id : Nat) : Option Driver := c.drivers.find? (fun d => d.id = id)
def setDriver (c : Chip) (d : Driver) : Chip := { c with drivers := d :: c.drivers.filter (fun x => x.id ≠ d.id) }

/-- DRV_HELLO. -/
def drvHello (q : Nat) (b : List Byte) (c : Chip) : Chip :=
  let id := byteOf b 1
  let old := (driver? c id).getD { id := id }
  let new : Driver :=
    { old with quad := q, family := be16 b 2, colFirst := be16 b 4, colCount := be16 b 6, rowFirst := be16 b 8
               rowCount := be16 b 10, announced := true }
  let c := setDriver c new
  if old.announced then c
  else raise c 0xB003 [w (id + q * 256), w (new.colFirst + new.colCount * 65536), w (new.rowFirst + new.rowCount * 65536)]

/-- CMD_ACK: when no acknowledgement is missing, the drivers of the group have taken the command. -/
def cmdAck (b : List Byte) (c : Chip) : Chip :=
  let id := byteOf b 1
  let n := be16 b 2
  match c.power.cmds.find? (fun x => x.seq = n) with
  | none => c
  | some x =>
    let left := x.missing.filter (· ≠ id)
    if left = [] then commandTaken (updPower c (fun p => { p with cmds := p.cmds.filter (fun y => y.seq ≠ n) })) x.port x.ptype
    else updPower c (fun p => { p with cmds := p.cmds.map (fun y => if y.seq = n then { y with missing := left } else y) })

/-- DRV_STATUS, of a driver that has announced itself or not. -/
def drvStatus (q : Nat) (b : List Byte) (c : Chip) : Chip :=
  let id := byteOf b 1
  let d := (driver? c id).getD { id := id, quad := q }
  let temp := signed 16 (be16 b 2)
  let lost := be16 b 4
  let c := setDriver c { d with temp := temp, flags := byteOf b 6 }
  let c := if temp ≤ c.power.params.hot then c else raiseEvery c 0 0xB005 id sec10 [w (id + be16 b 2 * 65536)]
  if lost = 0 then c else raiseLimited c 0xB006 id sec10 lost 1 [w id, 0]

/-! ## Current references (R296, R297) -/

/-- New codes take effect at a boundary of the lowest port, or at once when no port has a timetable. -/
def setIref (c : Chip) (codes : List Nat) : Chip :=
  if (referencePort c).isSome then updPower c (fun p => { p with irefPending := some codes })
  else updPower c (fun p => { p with iref := codes, irefPending := none })
/-- The current that an output sources, in half microamperes: none while the rails are down. -/
def irefOut (c : Chip) (n : Nat) : Nat := if c.power.irefOn then nth c.power.iref n else 0

/-! ## The rails (R291 to R293) -/

def railRole (c : Chip) (n : Nat) : Nat := (nth c.cfg.rails n).role
/-- Outputs of a role, in ORDER. -/
def railsOf (c : Chip) (role : Nat) : List Nat :=
  sortBy (fun a b => (nth c.cfg.rails a).order < (nth c.cfg.rails b).order ||
    ((nth c.cfg.rails a).order = (nth c.cfg.rails b).order && a < b)) ((List.range 4).filter (fun n => railRole c n = role))
def enabled (c : Chip) (n : Nat) : Bool := c.power.en.toNat.testBit n
def railGood (c : Chip) (n : Nat) : Bool := c.power.good.toNat.testBit n
def setEn (c : Chip) (n : Nat) (on : Bool) : Chip :=
  let m : BitVec 4 := BitVec.ofNat 4 (2 ^ n)
  updPower c (fun p => { p with en := if on then p.en ||| m else p.en &&& ~~~m })
def setGood (c : Chip) (n : Nat) (on : Bool) : Chip :=
  let m : BitVec 4 := BitVec.ofNat 4 (2 ^ n)
  updPower c (fun p => { p with good := if on then p.good ||| m else p.good &&& ~~~m })
/-- Raise, or lower, an output and wait for its GOOD. -/
def raiseRail (c : Chip) (n : Nat) : Chip :=
  updPower (setEn c n true) (fun p => { p with waitOn := if railGood c n then none else some n })
def lowerRail (c : Chip) (n : Nat) : Chip :=
  updPower (setEn c n false) (fun p => { p with waitOn := if railGood c n then some n else none })
def toRaise (c : Chip) (role : Nat) : Option Nat := (railsOf c role).find? (fun n => !enabled c n)
def toLower (c : Chip) (role : Nat) : Option Nat := (railsOf c role).reverse.find? (enabled c)
def setStep (c : Chip) (k : Nat) : Chip := updPower c (fun p => { p with step := k, waitOn := none })

/-- The groups in service: ports whose lanes are trained. -/
def trainedPorts (c : Chip) : List Nat := (List.range 4).filter (fun p => (port c p).tt.isSome && (port c p).trained)
/-- Lanes in groups go to electrical idle, and the ports send nothing more (R293). -/
def idleGroups (c : Chip) : Chip :=
  (List.range 4).foldl (fun c p =>
    let c := ((groupLanes c p).filter (fun l => (lane c l).st ≠ .idle)).foldl idleLane c
    updPort c p (fun x => { x with trained := false, configured := false, cleared := false, sends := false, switching := [], cmdWaits := [] })) c
def microseconds (c : Chip) (since : Nat) : Nat := (nowNs c - since) / 1000

/-- The down sequence has lowered its last supply: drivers announce themselves anew when their supply returns. -/
def downDone (c : Chip) : Chip :=
  let p := c.power
  let c := updPower { c with drivers := c.drivers.map (fun d => { d with announced := false }) }
    (fun p => { p with run := .idle, step := 0, waitOn := none, job := 0 })
  if p.job = 0 then c
  else endJob (raiseJob c p.job 0 0xB001 [1, w (microseconds c p.startNs)]) p.job .completed 0 0 [w p.stuck.toNat]
/-- Step 5 of R293: lower the next driver supply. -/
def lowerDrivers (c : Chip) : Chip :=
  match toLower c 1 with
  | some n => lowerRail c n
  | none => downDone c
/-- Steps 3 and 4 of R293, and the first of step 5. -/
def darken (c : Chip) : Chip :=
  lowerDrivers (setStep (idleGroups (updPower c (fun p => { p with irefOn := false, driverUp := false, cmds := [] }))) 5)
/-- Rows stop from the moment the panel rails go down (R238). -/
def stopRows (c : Chip) : Chip :=
  (List.range 4).foldl (fun c p => updPort c p (fun x => { x with configured := false, cleared := false, sends := false })) c
/-- Step 2 of R293: lower the next emitter supply. -/
def lowerEmitters (c : Chip) : Chip :=
  match toLower c 2 with
  | some n => lowerRail (updPower c (fun p => { p with railsUp := false })) n
  | none => darken (updPower c (fun p => { p with railsUp := false }))
/-- The down sequence begins with DRV_CLEAR to every group in service. -/
def startDown (c : Chip) (job : Nat) : Chip :=
  let c := updPower c (fun p => { p with run := .down, step := 1, waitOn := none, job := job, downWaits := none, startNs := nowNs c, stuck := 0 })
  (trainedPorts c).foldl sendClear c
/-- The next down step. -/
def downNext (c : Chip) : Chip :=
  if c.power.step = 1 then lowerEmitters (setStep (stopRows c) 2) else if c.power.step = 2 then lowerEmitters c else lowerDrivers c

/-- A step fails, or power does: the up job ends, and what it did is reversed (R292). -/
def failUp (c : Chip) (cause : Nat) : Chip :=
  let p := c.power
  startDown (endJob c p.job .failed stINFEASIBLE 0 [w (p.step + cause * 256)]) (p.downWaits.getD 0)

/-- Step 7 of Table 10-8 has raised every emitter supply. -/
def upDone (c : Chip) : Chip :=
  let p := c.power
  let c := updPower c (fun p => { p with run := .idle, step := 0, waitOn := none, job := 0, railsUp := true })
  endJob (raiseJob c p.job 0 0xB001 [0, w (microseconds c p.startNs)]) p.job .completed 0 0 []
def raiseEmitters (c : Chip) : Chip :=
  match toRaise c 2 with
  | some n => raiseRail c n
  | none => upDone c
/-- Step 1 of Table 10-8: raise the next driver supply, and after the last enable the references. -/
def raiseDrivers (c : Chip) : Chip :=
  match toRaise c 1 with
  | some n => raiseRail c n
  | none => setStep (updPower c (fun p => { p with driverUp := true, irefOn := true })) 2
/-- R292 step 4: drivers announced and drivers named for the quads of the trained groups. -/
def trainedQuads (c : Chip) : List Nat :=
  (List.range 12).filter (fun q => (trainedPorts c).any (fun p => (groupLanes c p).any (fun l => l / 4 = q)))
def driversMissing (c : Chip) : Bool :=
  let q := trainedQuads c
  c.drivers.countP (fun d => d.announced && q.contains d.quad) < total (q.map (nth c.cfg.driversOfQuad))
/-- The next up step. -/
def upNext (c : Chip) : Chip :=
  let k := c.power.step
  if k = 1 then raiseDrivers c
  else if k = 2 then (List.range 4).foldl trainGroup (setStep c 3)
  else if k = 3 then
    (if (List.range 4).all (fun p => (port c p).tt.isNone || (port c p).trained) then setStep c 4 else failUp c 5)
  else if k = 4 then
    (if driversMissing c then failUp c 3
    else setStep ((trainedPorts c).foldl (fun c p => sendClear (sendConfig c p) p) c) 6)
  else if k = 6 then
    (if (trainedPorts c).all (fun p => (port c p).cleared) then raiseEmitters (setStep c 7) else c)
  else raiseEmitters c

/-- The step of Table 10-8 that an up job is in is whole. -/
def stepWhole (c : Chip) : Bool :=
  let k := c.power.step
  if k = 1 then (toRaise c 1).isNone
  else if k = 6 then (trainedPorts c).all (fun p => (port c p).cleared)
  else if k = 7 then (toRaise c 2).isNone
  else true
/-- A power-sequence step completes, or its wait ends; an up job that a down job waits for ends at the boundary of a step
(R295). -/
def sequenceStep (c : Chip) : Chip :=
  let p := c.power
  match p.run with
  | .idle => c
  | .up =>
    if p.waitOn.isSome then c
    else if p.downWaits.isSome && stepWhole c then startDown (endJob c p.job .aborted 0 0 []) (p.downWaits.getD 0)
    else upNext c
  | .down => if p.waitOn.isSome then c else downNext c

/-- PSEQ_GOOD_RISE and PSEQ_GOOD_FALL: DELAY begins. -/
def goodRise (n : Nat) (c : Chip) : Chip :=
  let wait := c.power.run = .up && c.power.waitOn = some n
  updPower (setGood c n true) (fun p => { p with waitOn := if wait then none else p.waitOn })
def goodFall (n : Nat) (c : Chip) : Chip :=
  let wait := c.power.run = .down && c.power.waitOn = some n
  updPower (setGood c n false) (fun p => { p with waitOn := if wait then none else p.waitOn })
/-- PSEQ_GOOD_TIMEOUT: the step fails going up, and is logged going down. -/
def goodTimeout (n : Nat) (c : Chip) : Chip :=
  if c.power.waitOn ≠ some n then c
  else
    match c.power.run with
    | .up => failUp c 1
    | .down => updPower c (fun p => { p with waitOn := none, stuck := p.stuck ||| BitVec.ofNat 4 (2 ^ n) })
    | .idle => c

/-- The hardware sequencer lowers every emitter supply at once, and then does steps 3 to 5 of R293 (R294, R455). -/
def dropRails (c : Chip) : Chip :=
  let c := (railsOf c 2).foldl (fun c n => setEn c n false) c
  darken (updPower c (fun p => { p with run := .down, railsUp := false, waitOn := none, stuck := if p.run = .down then p.stuck else 0 }))
/-- PWR_FAULT (R294). -/
def powerFault (n : Nat) (c : Chip) : Chip :=
  if !enabled c n then c
  else
    let p := c.power
    let step := if p.run = .idle then 7 else p.step
    let c := raise (setGood c n false) 0xB002 [w (n + step * 256)]
    let c := match p.run with
      | .up =>
        updPower (endJob c p.job .failed stINFEASIBLE 0 [w (p.step + 2 * 256)])
          (fun x => { x with job := p.downWaits.getD 0, downWaits := none, startNs := nowNs c })
      | .idle | .down => c
    dropRails c

/-- `power_sequence` (R292, R293, R295). -/
def powerSequenceBody : Body := fun e c =>
  let down := bit e 0x10 0
  let p := c.power
  if jobsFull c then reject c stNO_SPACE
  else if (!down && p.run ≠ .idle && !(p.tripped && p.run = .down && p.job = 0)) ||
      (down && (p.run = .down || p.downWaits.isSome)) then reject c stIN_USE
  else
    let n := newJob c 0x42 (tagOf e) (sid e) []
    let r : Reply := { status := stACCEPTED, result := [w n.1] }
    if (!down && p.railsUp) || (down && !p.railsUp && p.run = .idle) then (endJob n.2 n.1 .completed 0 0 [], r)
    else if !down && p.tripped then (endJob n.2 n.1 .failed stINFEASIBLE 0 [w (1 + 6 * 256)], r)
    else if !down then
      (raiseDrivers (updPower n.2 (fun p => { p with run := .up, step := 1, job := n.1, downWaits := none, startNs := nowNs c })), r)
    else if p.run = .up then (updPower n.2 (fun p => { p with downWaits := some n.1 }), r)
    else (startDown n.2 n.1, r)

/-- CMD_REPEAT: 100 µs have passed without an acknowledgement (R285). -/
def cmdRepeat (n : Nat) (c : Chip) : Chip :=
  match c.power.cmds.find? (fun x => x.seq = n) with
  | none => c
  | some x =>
    if x.repeats < 8 then
      let c := updPower c (fun p => { p with cmds := p.cmds.map (fun y => if y.seq = n then { y with repeats := y.repeats + 1 } else y) })
      queueCommand c x.port x.ptype n x.payload
    else
      let id := match x.missing with
        | [d] => d
        | _ => 0xFF
      let c := raise (updPower c (fun p => { p with cmds := p.cmds.filter (fun y => y.seq ≠ n) })) 0xB004
        [w (id + x.ptype * 256 + n * 65536)]
      if c.power.run = .up && c.power.step = 6 && x.ptype = 0x11 then failUp c 4 else c

/-! ## The correction map and the drive parameters (R298 to R301, R304) -/

/-- Pages of controllers become 0, and no word of them is poisoned. -/
def zeroPages (c : Chip) (mcs : List Nat) (lo hi : Nat) : Chip :=
  mcs.foldl (fun c mc =>
    { c with poison := c.poison.filter (fun k => k < wordKey mc (lo * 64) || wordKey mc (hi * 64) ≤ k)
             ram := Memory.dropRange c.ram (ramKey mc (lo * 4096)) (ramKey mc (hi * 4096)) }) c
/-- Bytes of a reserved strong area become 0, those of its relocated pages too (R381), and no word of it is poisoned. -/
def zeroArea (c : Chip) (code : Nat) : Chip :=
  match findArea c code 0 with
  | none => c
  | some a =>
    let c := zeroPages c (withMirrors a.mcs a.twin) a.base (a.base + a.pages + a.check)
    a.moved.foldl (fun c v => zeroPages c v.mcs v.base (v.base + v.pages + v.check)) c
def writeMap (c : Chip) (i code : Nat) : Chip := match findArea c 2 0 with
  | some a => writeArea c a i [BitVec.ofNat 8 code]
  | none => c
def writeCount (c : Chip) (i n : Nat) : Chip := match findArea c 3 0 with
  | some a => writeArea c a (2 * i) (leBytes n 2)
  | none => c
/-- Every row of the section is seeded. -/
def allSeeded (c : Chip) : Bool := match c.tables.panel with
  | some pd => (List.range pd.h).all (fun y => c.power.seeded.contains y)
  | none => false

/-- Drive parameters of a table, or why it is refused (Table 10-10). -/
def parseParams (b : List Byte) : Option DriveParams :=
  let d := paramsOf b
  let rising := (List.range 63).all (fun k => nth d.t k ≤ nth d.t (k + 1))
  if b.length ≠ 192 || le32 b 0 ≠ 0x4450524D || le16 b 4 ≠ 1 || le32 b 0x1C ≠ crcZeroed b 0x1C || 24 < d.ageRate || !rising ||
      d.iref.any (fun x => 0xFFF < x) then none
  else some d
/-- Drive parameters come in force. -/
def useParams (c : Chip) (d : DriveParams) : Chip := setIref (updPower c (fun p => { p with params := d })) d.iref

/-- A map or seed piece that passes the checks of R299 and R301: its rows, and the status where it does not. -/
def pieceRows (c : Chip) (b : List Byte) (magic valueBytes : Nat) : Nat ⊕ (Nat × Nat × Panel) :=
  let first := le16 b 4
  let n := le16 b 6
  if b.length < 16 || le32 b 0 ≠ magic || n = 0 || le32 b 0xC ≠ crcZeroed b 0xC then .inl stINVALID_FIELD
  else
    match c.tables.panel with
    | none => .inl stUNAVAILABLE
    | some pd =>
      if le16 b 8 ≠ pd.w || byteOf b 10 ≠ pd.dirs || pd.h < first + n || b.length ≠ 16 + valueBytes * n * pd.w * pd.dirs * 3 then
        .inl stINVALID_FIELD
      else .inr (first, n, pd)
def rowValues (pd : Panel) : Nat := pd.w * pd.dirs * 3
def agedCode (c : Chip) (u n : Nat) : Nat := u - ageSteps c.power.params n

/-- Before the codes of values lo to hi − 1 change, tiles that are running keep those they read (R299). -/
def keepCodes (c : Chip) (lo hi : Nat) : Chip :=
  let running := c.ports.any (fun x => x.tiles.any onCell)
  let load := c.power.mapLoads + 1
  let old := if running then (List.range (hi - lo)).map (fun k => (load, lo + k, mapCode c (lo + k))) else []
  updPower c (fun p => { p with mapLoads := load, mapOld := if running then p.mapOld ++ old else [] })
/-- KIND 4 INDEX 0 (R299). -/
def loadMap (c : Chip) (b : List Byte) : Chip × Nat :=
  match pieceRows c b 0x434D4150 1 with
  | .inl st => (c, st)
  | .inr (first, n, pd) =>
    let c := keepCodes c (first * rowValues pd) ((first + n) * rowValues pd)
    ((List.range (n * rowValues pd)).foldl (fun c k =>
      let i := first * rowValues pd + k
      let u := byteOf b (16 + k)
      writeMap c i (if c.power.seeded.contains (i / rowValues pd) then agedCode c u (countAt c i) else u)) c, stOK)
/-- KIND 4 INDEX 1 (R300). -/
def loadParams (c : Chip) (b : List Byte) : Chip × Nat :=
  match parseParams b with
  | some d => (useParams c d, stOK)
  | none => (c, stINVALID_FIELD)
/-- KIND 5 (R301). -/
def loadSeed (c : Chip) (b : List Byte) : Chip × Nat :=
  match pieceRows c b 0x53454544 2 with
  | .inl st => (c, st)
  | .inr (first, n, pd) =>
    let rows := (List.range n).map (first + ·)
    if rows.any (fun y => c.power.seeded.contains y) then (c, stIN_USE)
    else
      let c := (List.range (n * rowValues pd)).foldl (fun c k =>
        let i := first * rowValues pd + k
        let m := min (countAt c i + le16 b (16 + 2 * k)) 65535
        writeMap (writeCount c i m) i (agedCode c (mapCode c i) m)) c
      let c := updPower c (fun p => { p with seeded := rows.foldr insertSorted p.seeded })
      (if allSeeded c then raise c 0xB012 [w c.power.seeded.length] else c, stOK)

/-- The map, counters and seeded bits are 0 and the parameters take their defaults. -/
def clearMap (c : Chip) : Chip := updPower (zeroArea (zeroArea c 2) 3) (fun p => { p with seeded := [], restoring := none })
/-- R304: a panel description with another geometry looks for a persistence copy. -/
def lookForCopy (c : Chip) (pd : Panel) : Chip :=
  let geometry := (pd.w, pd.h, pd.dirs)
  if c.power.geometry = some geometry then c
  else
    let c := clearMap (updPower c (fun p => { p with geometry := some geometry }))
    let reset := fun (why : Nat) => raise (useParams c defaultParams) 0xB011 [w why]
    if !storePresent c then reset 0
    else
      match newestCopy c with
      | none => reset 1
      | some (b, x) =>
        if x.deviceId ≠ c.shadow.deviceId then reset 2
        else if (x.w, x.h, x.dirs) ≠ geometry then reset 3
        else updPower c (fun p => { p with restoring := some b })

/-- MAP_RESTORE_DONE. -/
def restoreDone (c : Chip) : Chip :=
  match c.power.restoring, c.tables.panel with
  | some b, some pd =>
    match newestOf ((completeCopies c).filter (fun x => x.1 = b)) with
    | none => c
    | some (_, x) =>
      let c := (List.range (valueCount pd)).foldl (fun c i => writeCount (writeMap c i (nth x.map i)) i (nth x.counters i)) c
      let c := useParams (updPower c (fun p => { p with seeded := x.seeded, restoring := none })) x.params
      raise c 0xB010 [w (b01 b + 2 * b01 (allSeeded c)), w x.seq]
  | _, _ => c

/-! ## Commands -/

/-- DRV_HELLO (R260, R277). -/
def execDrvHello (quad : Fin 12) (payload : List Byte) (s : State) : Host.Outcome State Fault Refusal :=
  .next (s.runLive (takeReturn quad.val 0x20 payload (drvHello quad.val payload)))
/-- CMD_ACK (R260, R285). -/
def execCmdAck (quad : Fin 12) (payload : List Byte) (s : State) : Host.Outcome State Fault Refusal :=
  .next (s.runLive (takeReturn quad.val 0x21 payload (cmdAck payload)))
/-- CMD_REPEAT (R285). -/
def execCmdRepeat (cmdSeq : U16) (s : State) : Host.Outcome State Fault Refusal := .next (s.runLive (cmdRepeat cmdSeq.toNat))
/-- DRV_STATUS (R260, R286). -/
def execDrvStatus (quad : Fin 12) (payload : List Byte) (s : State) : Host.Outcome State Fault Refusal :=
  .next (s.runLive (takeReturn quad.val 0x22 payload (drvStatus quad.val payload)))
/-- POWER_SEQUENCE (R292, R293, R295). -/
def execPowerSequence (via : Via) (s : State) : Host.Outcome State Fault Refusal :=
  .next (cciCommand 0x42 neverBusy powerSequenceBody via s)
/-- PSEQ_GOOD_RISE (R292). -/
def execPseqGoodRise (n : Fin 4) (s : State) : Host.Outcome State Fault Refusal := .next (s.run (goodRise n.val))
/-- PSEQ_GOOD_FALL (R293). -/
def execPseqGoodFall (n : Fin 4) (s : State) : Host.Outcome State Fault Refusal := .next (s.run (goodFall n.val))
/-- PSEQ_GOOD_TIMEOUT (R292, R293). -/
def execPseqGoodTimeout (n : Fin 4) (s : State) : Host.Outcome State Fault Refusal := .next (s.run (goodTimeout n.val))
/-- MAP_RESTORE_DONE (R304). -/
def execMapRestoreDone (s : State) : Host.Outcome State Fault Refusal := .next (s.runLive restoreDone)

end Sys2Proof.Machine
end

