-- ==== Sys2Proof/Machine/Isolation.lean ====
section
/-!
DEFINITION. Faults and isolation: the units of Table 14-1, what each fault does (R379 to R384), junctions (R28, R385, R386),
retest and re-admission (R388, R389), the pairs of the Stationmaster (R90, R393). Takeover and fault injection are in Relief.lean.
-/

namespace Sys2Proof.Machine

def updFaults (c : Chip) (f : Faults → Faults) : Chip := { c with faults := f c.faults }

/-! ## Isolation records (R385, R388) -/

/-- The key of a unit in isolation records: a region goes by its number. -/
def unitKey (cls unit : Nat) : Nat := if cls = 2 then fld unit 15 8 else unit
/-- The UNIT of Table 14-1 that a key stands for. -/
def unitCode (cls key : Nat) : Nat := if cls = 2 then key * 256 else key

/-- A part begins to be isolated. -/
def beginIsolation (c : Chip) (cls key cause : Nat) : Chip :=
  let again := c.faults.readmitted.contains (cls, key)
  setIsolation c { cls := cls, unit := key, cause := cause, junction := .drain, sinceNs := nowNs c
                   forever := again || cause = 3 || cause = 6 || cause = 7, railGood := cause ≠ 4 }
/-- A fault event of a unit by its key. -/
def raiseKey (c : Chip) (code cls cause key action : Nat) (extra : List U32) : Chip :=
  raiseFault c code cls cause (unitCode cls key) action extra

/-- FLT_OUTSIDE: FAULT_N stays low until POR_N falls (R377). -/
def outside (c : Chip) (kind cls cause unit : Nat) : Chip :=
  raiseFault (updFaults c (fun f => { f with outside := true })) 0xC040 cls cause unit 0 [w kind]
/-- The same for a fault that is of no unit of Table 14-1: class and unit are open (log 7). -/
def outsideFree (c : Chip) (kind : Nat) : Chip :=
  let a := drawFree c
  let b := drawFree a.2
  outside b.2 kind (a.1 % 256) 4 b.1

/-! ## Regions, blocks and cells (R22, R183, R184) -/

/-- REGION_FAULT: the capacity leaves the projection before the tiles return. -/
def regionFault (u cause : Nat) (c : Chip) : Chip :=
  if !running c || !regionServes c u then c else schedule (project true (beginIsolation c 2 u cause))

/-- BLOCK_FAULT: the block takes no more work, and a second one lost takes the region with it; its tiles return once its port
is CLOSED (R385). -/
def blockFault (u b cause : Nat) (c : Chip) : Chip :=
  if !running c || !regionServes c u || (blockOf c u b).removed then c
  else
    let c := beginIsolation c 1 (u * 256 + b * 32) cause
    let c := updRegion c u (fun r => { r with blocks := upd r.blocks b (fun x => { x with removed := true }) })
    if 2 ≤ (region c u).blocks.countP (·.removed) then regionFault u 7 c else schedule (project true c)

/-- CELL_FAULT: the cell takes no more work, and the siding cell takes the first failed cell's place; its tile returns once its
port is CLOSED (R385). -/
def cellFault (u b k cause : Nat) (c : Chip) : Chip :=
  let x := blockOf c u b
  if !running c || !regionServes c u || x.removed || x.failedCells.contains k then c
  else
    let c := beginIsolation c 0 (u * 256 + b * 32 + k) cause
    let c := updRegion c u (fun r => { r with blocks := upd r.blocks b (fun y => { y with failedCells := k :: y.failedCells }) })
    if blockCells (blockOf c u b) ≤ 11 then blockFault u b 7 c else schedule (project true c)

/-! ## Memory controllers (R381) -/

/-- A stream whose ring or history lies on the controller starts again with REASON 2. -/
def streamOnMc (c : Chip) (mc i : Nat) : Bool :=
  let s := stream c i
  s.st ≠ .unbound &&
  ((match findArea c 4 i with | some a => a.mcs.contains mc | none => false) ||
   (s.reserve ≠ 0 && (match findArea c 5 0 with | some a => a.mcs.contains mc | none => false)))
def restartStream (c : Chip) (i : Nat) : Chip :=
  let c := (reserveArea (releaseArea c 4 i) 4 i (128 * 2 ^ 20) false false false).getD (releaseArea c 4 i)
  let c := updStream c i (fun s => { s with
    ring := [], holes := [], lostHoles := [], nextOut := s.high.map (fun h => w32 (h + 1)), reserve := 0
    live := { s.live with hist := [] }, item := { s.item with hist := [] } })
  unanchor (dropChain c i true) i false 2

/-- Memory regions that lose pages with the controller. -/
def regionsLost (c : Chip) (mc : Nat) : List Nat :=
  (c.mems.filter (fun r =>
    if r.twin then (r.mcs.contains mc || r.mcs.contains (mc - mc % 2)) && !mcOk c (if mc % 2 = 0 then mc + 1 else mc - 1)
    else r.mcs.contains mc)).map (·.id)

/-- The controllers whose pages of an area, native or moved, lie on a controller now. -/
def originsOn (a : Area) (mc : Nat) : List Nat :=
  (a.mcs.filter (fun m => m = mc && a.moved.all (fun v => v.origin ≠ m))) ++ ((a.moved.filter (fun v => v.mcs.contains mc)).map (·.origin))
/-- New pages on the controllers in service for those of one origin. -/
def movedOrigin (c : Chip) (a : Area) (origin : Nat) : Option Area :=
  let mcs := mcsInService c
  if mcs = [] then none else
  let pages := cdiv a.pages mcs.length
  let check := if a.check = 0 then 0 else cdiv pages 8
  (lowestFit c mcs false (pages + check) 0 pagesBelow).map (fun base =>
    let new : Moved := { origin := origin, mcs := mcs, base := base, pages := pages, check := check }
    { a with moved := new :: a.moved.filter (fun v => v.origin ≠ origin) })
def setArea (c : Chip) (a : Area) : Chip :=
  { c with areas := c.areas.map (fun y => if y.code = a.code && y.unit = a.unit then a else y) }
/-- The share of area 7 on a controller is relocated empty, where space is left. -/
def relocateEmpty (mc : Nat) (c : Chip) : Chip :=
  match findArea c 7 0 with
  | none => c
  | some a => (originsOn a mc).foldl (fun c o =>
      match (findArea c 7 0).bind (fun a => movedOrigin c a o) with
      | some b => setArea c b
      | none => c) c
/-- How many records remain of area 7 is open (R381, log 7). -/
def loseLogs (c : Chip) : Chip :=
  let a := drawFree c
  let b := drawFree a.2
  let d := drawFree b.2
  { d.2 with signals := d.2.signals ++ [.logsLost a.1 b.1 d.1] }

/-- The channel of the other member of the pair is paused: a catch-up waits for it. -/
def partnerPaused (c : Chip) (mc ch : Nat) : Bool := (nth c.mcs (if mc % 2 = 0 then mc + 1 else mc - 1)).paused = some ch
/-- Pay what D holds above the doubled limit, where no pause of the partner stands in the way. -/
def catchUp (c : Chip) (mc : Nat) : Chip :=
  { c with banks := c.banks.map (fun b => if b.mc = mc && !partnerPaused c mc b.ch then { b with debt := min b.debt 8 } else b) }
/-- A controller enters self-refresh; before it, every bank repays its debt (R321). -/
def enterSelfRefresh (c : Chip) (mc : Nat) : Chip :=
  updMc { c with banks := c.banks.map (fun b => if b.mc = mc then { b with debt := 0 } else b) } mc (fun m => { m with selfRefresh := true })
/-- MC_FAULT. -/
def mcFault (mc cause : Nat) (c : Chip) : Chip :=
  if !running c || !mcOk c mc then c
  else
    let partner := if mc % 2 = 0 then mc + 1 else mc - 1
    let streams := (List.range 16).filter (streamOnMc c mc)
    let lost := regionsLost c mc
    let held := nth c.mcs mc
    let c := beginIsolation c 3 mc cause
    let c := updMc c mc (fun m => { m with isolated := true, paused := none, pausesDue := [], failedTransfers := [] })
    let c := if held.paused.isSome && (nth c.mcs partner).doubled then catchUp c partner else c
    let c := { c with mems := c.mems.map (fun r => if lost.contains r.id then { r with lostMcs := (if r.twin then [mc, partner] else [mc]) ++ r.lostMcs } else r) }
    let c := match findArea c 5 0 with
      | some a => if a.mcs.contains mc then (reserveArea (releaseArea c 5 0) 5 0 (8 * 2 ^ 30) false false true).getD (releaseArea c 5 0) else c
      | none => c
    let c := match findArea c 7 0 with
      | some a => if originsOn a mc ≠ [] then loseLogs (relocateEmpty mc c) else c
      | none => c
    let c := streams.foldl restartStream c
    let regions := maskOf lost
    let c := raiseKey c 0xC005 3 cause mc 0 [w regions, w (regions / 2 ^ 32), w (maskOf streams)]
    let c := if mcOk c partner then c else outside c 4 3 cause mc
    startPauses (schedule (dispatchDecoders (project true c)))

/-- MC_HEARTBEAT: 16 failed transfers in a row on one channel fail the controller. -/
def heartbeat (mc : Nat) (failed : List Nat) (c : Chip) : Chip :=
  if !running c || !mcOk c mc then c
  else
    let c := updMc c mc (fun m => { m with failedTransfers := (List.range 4).map (fun ch =>
      if failed.getD ch 0 = 0 then 0 else m.failedTransfers.getD ch 0 + failed.getD ch 0) })
    if (nth c.mcs mc).failedTransfers.any (16 ≤ ·) then mcFault mc 5 c else c

/-- Pages of an area whose native controller is one. -/
def pagesOf (a : Area) (origin : Nat) : List Nat :=
  let m := a.mcs.length
  (List.range (a.pages * m)).filter (fun q => nth a.mcs (q % m) = origin)

/-- Relocate the pages of one origin: surviving bytes move, the others are reloaded from the copy. -/
def relocateOrigin (code mc : Nat) (x : Persist) (c : Chip) (origin : Nat) : Option Chip :=
  match findArea c code 0 with
  | none => none
  | some a =>
    (movedOrigin c a origin).map (fun b =>
      let bytes := (pagesOf a origin).map (fun q => (q * 4096, (List.range 4096).map (fun k =>
        let off := q * 4096 + k
        if (areaPlace a off).mc = mc then copyByte x code off else byteAt c (areaPlace a off))))
      bytes.foldl (fun c v => writeArea c b v.1 v.2) (setArea c b))
/-- FLT_RELOCATED for one area. -/
def relocateArea (mc : Nat) (c : Chip) (code : Nat) : Chip :=
  match findArea c code 0 with
  | none => c
  | some a =>
    let origins := originsOn a mc
    let pages := total (origins.map (fun o => (pagesOf a o).length))
    if pages = 0 then c
    else
      let done := match matchingCopy c with
        | some x => origins.foldl (fun (r : Option Chip) o => r.bind (fun c => relocateOrigin code mc x c o)) (some c)
        | none => none
      let cause := ((isolation? c 3 mc).map (·.cause)).getD 0
      raiseKey (done.getD c) 0xC023 3 cause mc 0 [w (code + b01 done.isSome * 768), w pages]
/-- FLT_RELOCATED: the Stationmaster relocates map and counter pages (R381). -/
def relocated (mc : Nat) (c : Chip) : Chip :=
  if !running c || !smServes c || (isolation? c 3 mc).isNone then c else [2, 3].foldl (relocateArea mc) c

/-! ## Other units (R355, R380, R382 to R384) -/

/-- DECODER_FAULT: its piece of work starts again on another decoder once its port is CLOSED (R382, R385). -/
def decoderFault (dd cause : Nat) (c : Chip) : Chip :=
  if !running c || (nth c.decs dd).isolated then c
  else updDec (beginIsolation c 4 dd cause) dd (fun x => { x with isolated := true })

/-- MOVER_FAULT: the running job fails once its port is CLOSED, and the other mover takes what waits (R355, R385). -/
def moverFault (m cause : Nat) (c : Chip) : Chip :=
  if !running c || c.moverOut.contains m then c else { beginIsolation c 5 m cause with moverOut := m :: c.moverOut }

/-- SCAN_OUT_PORT_FAULT: the port sends idle content until its next boundary. -/
def portFault (p : Nat) (c : Chip) : Chip :=
  let x := port c p
  if !running c || x.tt.isNone || x.stopped then c
  else updPort c p (fun x => { x with stopped := true, lateAtStop := x.lateRows })

/-- SCHEDULER_FAULT: no tile is released until the scheduler projects again (log 24). -/
def schedulerFault (c : Chip) : Chip :=
  if !running c || c.faults.schedStopped.isSome then c else updFaults c (fun f => { f with schedStopped := some (nowNs c) })

/-- HP_ENDPOINT_FAULT: CCI goes on over UDP and I²C. -/
def endpointFault (c : Chip) : Chip :=
  if c.pcie.linkDown then c
  else raiseKey { beginIsolation c 15 0 5 with pcie := { c.pcie with linkDown := true } } 0xC006 15 5 0 0 [0]

/-- Links of a row between two columns, and of a column between two rows. -/
def rowLinks (r a b : Nat) : List (Nat × Bool) := (List.range (max a b - min a b)).map (fun k => (r * 8 + min a b + k, false))
def colLinks (col a b : Nat) : List (Nat × Bool) := (List.range (max a b - min a b)).map (fun k => ((min a b + k) * 8 + col, true))
/-- A flow between two stops is cut: its route, row first (R31), crosses a failed link, and its detour, column first, crosses
another (R380). -/
def flowBroken (links : List (Nat × Bool)) (a b : Nat) : Bool :=
  let hits := fun (l : List (Nat × Bool)) => l.filter (fun x => links.contains x)
  let detour := hits (colLinks (a % 8) (a / 8) (b / 8) ++ rowLinks (b / 8) (a % 8) (b % 8))
  (hits (rowLinks (a / 8) (a % 8) (b % 8) ++ colLinks (b % 8) (a / 8) (b / 8))).any (fun x => detour.any (· ≠ x))
/-- Stops of a region and of a controller (R30, Table 1-9). -/
def regionStop (u : Nat) : Nat := 8 + u
def mcStop (m : Nat) : Nat := if m < 8 then m else 24 + (m - 8)
/-- The stops from which words go to a region, and to a controller. -/
def toRegion (c : Chip) : List Nat := (mcsInService c).map mcStop ++ [8, 16, 24]
def toMc (c : Chip) : List Nat :=
  ((List.range 16).filter (regionServes c)).map regionStop ++ [0, 8, 16, 24, 7, 15, 23, 31]

/-- Edge ports of Table 1-9: the decoder island stands at two, scan-out at four, the MACs at one, and the Stationmaster with both
PCIe islands at one. -/
def decoderStops : List Nat := [8, 16]
def scanOutStop (p : Nat) : Nat := 8 * p + 7
def macStop : Nat := 0
def managerStop : Nat := 24
/-- The stops from which words go to the islands at the edges. -/
def toEdge (c : Chip) : List Nat :=
  (mcsInService c).map mcStop ++ ((List.range 16).filter (regionServes c)).map regionStop
/-- Some flow toward a stop is cut. -/
def edgeCut (c : Chip) (stop : Nat) : Bool := (toEdge c).any (fun a => flowBroken c.faults.links a stop)
/-- What stands at the edges and is cut off: the decoder island where both its ports are, port p of scan-out where the port at
the end of row p is, the MACs, and the islands at the end of row 3 (R380, log 52). -/
def isolateEdges (c : Chip) : Chip :=
  let c := if decoderStops.all (edgeCut c) then
      (List.range 2).foldl (fun c m => moverFault m 5 c) ((List.range 8).foldl (fun c d => decoderFault d 5 c) c)
    else c
  let c := (List.range 4).foldl (fun c p => if edgeCut c (scanOutStop p) then portFault p c else c) c
  let c := if edgeCut c macStop then (List.range 2).foldl (fun c ep => pathDown ep c) c else c
  if edgeCut c managerStop then endpointFault ((List.range 2).foldl (fun c k => driveDown k c) c) else c

/-- TRUNK_LINK_FAULT: words detour; a part that some flow no longer reaches is isolated. -/
def trunkFault (stop : Nat) (south : Bool) (c : Chip) : Chip :=
  let l := (stop, south)
  if !running c || c.faults.links.contains l || (if south then 24 ≤ stop else stop % 8 = 7) then c
  else
    let key := stop + b01 south * 256
    let c := updFaults (beginIsolation c 12 key 5) (fun f => { f with links := l :: f.links })
    let links := c.faults.links
    let c := raiseKey c 0xC007 12 5 key 0 [w links.length]
    let regions := (List.range 16).filter (fun u => regionServes c u && (toRegion c).any (fun a => flowBroken links a (regionStop u)))
    let mcs := (mcsInService c).filter (fun m => (toMc c).any (fun a => flowBroken links a (mcStop m)))
    isolateEdges (mcs.foldl (fun c m => mcFault m 5 c) (regions.foldl (fun c u => regionFault u 5 c) c))

/-- The copy has differed within the last second. -/
def votedLately (c : Chip) (k : Nat) : Bool := c.time.lastVote.any (fun v => v.1 = k && decide (nowNs c < v.2 + sec1))
/-- FLT_TIME_VOTE: a copy of the counter differs (R384). -/
def timeVote (k : Nat) (c : Chip) : Chip :=
  if !c.time.copies.contains k then c
  else if c.time.copies.length ≤ 2 then
    let d := drawFree c
    outside d.2 (d.1 % 256) 14 2 0
  else
    let copies := if votedLately c k then c.time.copies.filter (· ≠ k) else c.time.copies
    let votes := put c.time.lastVote k (nowNs c)
    raiseKey { c with time := { c.time with copies := copies, lastVote := votes } } 0xC00A 14 2 0 0 [w copies.length]

/-! ## The Stationmaster pairs (R390 to R393, R90) -/

/-- A lane in service takes back the taps that it had before a commanded run of LANE_EQ (R18, R402). -/
def restoreTaps (c : Chip) (l : Nat) : Chip :=
  if (lane c l).st ≠ .active then c else updLane c l (fun x => { x with pre := x.oldTaps.1, post := x.oldTaps.2, trial := none })
/-- Calibrations that were running are abandoned: STALE stays as it is (R18), and pauses that a run of MEMORY still had to make
are not made. The job of a run stays on record until it is ended. -/
def stopCal (c : Chip) : Chip :=
  let c := if (calDomain c 3).running then (calDomain c 3).units.foldl restoreTaps c else c
  { c with cal := { c.cal with domains := c.cal.domains.map (fun d => { d with running := false }) }
           mcs := c.mcs.map (fun m => { m with pausesDue := m.pausesDue.filter (fun d => !d.2.2) }) }
def abandonCal (c : Chip) : Chip :=
  let c := stopCal c
  { c with cal := { c.cal with domains := c.cal.domains.map (fun d => { d with job := 0 }) } }
/-- Jobs that the Stationmaster carries (R90). -/
def carried (c : Chip) : List Job := c.cci.jobs.filter (fun j => [0x41, 0x30, 0x60, 0x42, 0x20].contains j.opcode)
/-- The relief ends the jobs with INTERRUPTED and acts on an interrupted rail sequence: what an up job raised in steps 1 to 6 is
lowered; an up job at step 7 and a down job, running or waiting, go on without their jobs (R391). -/
def interruptJobs (c : Chip) : Chip :=
  let c := (carried c).foldl (fun c j =>
    endJob c j.id .failed stINTERRUPTED 0 (if j.opcode = 0x41 then calResult c (domainOfJob c j.id) 0 0 else [])) c
  let c := abandonCal { c with
    store := { c.store with puts := [] }
    start := { c.start with fwJob := 0 }
    mems := c.mems.map (fun r => { r with fillJob := 0 })
    power := { c.power with job := 0, downWaits := c.power.downWaits.map (fun _ => 0) } }
  if c.power.run = .up && c.power.step < 7 then startDown c 0 else c
/-- No pair is in service (R393): KEEPALIVE counts no longer (R81). A message in hand stays with the journal until a pair
serves again (R17, R391). -/
def noStationmaster (c : Chip) (cause pair : Nat) : Chip :=
  raiseKey (abandonTraining (stopCal { c with sm := { c.sm with leftNs := c.sm.leftNs.or (some (nowNs c)) } })) 0xC011 11 cause pair 0 []
/-- A pair serves again: the time without one does not count toward KEEPALIVE (R81). -/
def pairServes (c : Chip) (pair : Nat) : Chip :=
  let away := nowNs c - c.sm.leftNs.getD (nowNs c)
  { c with
    sm := { c.sm with active := some pair, leftNs := none }
    cci := { c.cci with sessions := c.cci.sessions.map (fun x => { x with unservedNs := x.unservedNs + away }) } }

/-- RELIEF_FAULT. -/
def reliefFault (cause : Nat) (c : Chip) : Chip :=
  match c.sm.relief with
  | none => c
  | some r =>
    if !running c then c
    else
      let c := raiseKey { beginIsolation c 11 r cause with sm := { c.sm with relief := none } } 0xC006 11 cause r 0 [0]
      if c.sm.active.isNone then noStationmaster c cause r else c

/-! ## Junctions (R28, R29, R385, R387) -/

/-- Late replies are discarded and counted; how many come is open (log 7). -/
def lateReplies (c : Chip) (cls cause key : Nat) : Chip :=
  let d := drawFree c
  if d.1 = 0 then d.2
  else
    let c := updFaults d.2 (fun f => { f with lateReplies := w32 (f.lateReplies + d.1) })
    let injected := c.faults.injected.any (fun x => x.1 = cls && x.2.1 = unitCode cls key)
    raiseLimited c 0xC022 0 sec1 d.1 4 [w (cls + cause * 256 + b01 injected * 65536), w (unitCode cls key), 0, 0, 0]

/-- JUNCTION_DRAIN_END: how many requests of the part were discarded meanwhile is open (log 7). -/
def drainEnd (u : UnitId) (c : Chip) : Chip :=
  match isolation? c u.cls (unitKey u.cls u.unit) with
  | some i =>
    if i.junction = .drain then
      let d := drawFree c
      setIsolation d.2 { i with junction := .withdraw, discarded := d.1 }
    else c
  | none => c

/-- The tile on a cell returns to its block queue: FLT_CELL_REPLACED, or FLT_CELL_LOST where another cell of the block had failed
before (R22, R183). -/
def closeCell (c : Chip) (i : Isolation) : Chip :=
  let u := i.unit / 256
  let b := fld i.unit 7 5
  let k := fld i.unit 4 0
  let c := { c with ports := c.ports.map (fun p => { p with tiles := p.tiles.map (fun t =>
    if onCell t && t.region = u && t.block = b && t.cell = k then { t with st := .queued, notBefore := i.sinceNs + 10000 } else t) }) }
  let x := blockOf c u b
  schedule (raiseKey c (if x.failedCells.getLast? = some k then 0xC001 else 0xC002) 0 i.cause i.unit 0 [w (blockCells x)])
/-- The tiles of a block return to the global scheduler. -/
def closeBlock (c : Chip) (i : Isolation) : Chip :=
  let u := i.unit / 256
  let b := fld i.unit 7 5
  let held := dealtBlock c u b
  schedule (raiseKey (returnTiles c (fun t => t.region = u && t.block = b) (i.sinceNs + 10000)) 0xC003 1 i.cause i.unit 0 [w held])
/-- The tiles of a region return, and its rail is switched off (R184). -/
def closeRegion (c : Chip) (i : Isolation) : Chip :=
  let held := dealtTo c i.unit
  let c := updRegion (returnTiles c (fun t => t.region = i.unit) (i.sinceNs + 10000)) i.unit (fun r => { r with off := true })
  schedule (raiseKey c 0xC004 2 i.cause i.unit 0 [w held, w ((List.range 16).countP (regionServes c))])
/-- The piece of work of a decoder starts again on another (R382). -/
def closeDecoder (c : Chip) (i : Isolation) : Chip :=
  let held := (nth c.decs i.unit).work
  let c := updDec c i.unit (fun x => { x with work := none, suspended := false })
  dispatchDecoders (raiseKey c 0xC006 4 i.cause i.unit 0 [w (b01 held.isSome)])
/-- The running job of a mover fails (R355). -/
def closeMover (c : Chip) (i : Isolation) : Chip :=
  let job := c.movers.find? (fun j => j.mover = some i.unit)
  let c := raiseKey c 0xC006 5 i.cause i.unit 0 [w (b01 job.isSome)]
  match job with
  | some j => schedule (endMover c j .failed stTRANSFER_FAULT)
  | none => c
/-- The boundary of a part is CLOSED: its work returns, and a controller enters self-refresh (R385). -/
def closePart (c : Chip) (i : Isolation) : Chip :=
  let c := lateReplies (setIsolation c { i with junction := .closed, closedNs := nowNs c }) i.cls i.cause i.unit
  match i.cls with
  | 0 => closeCell c i
  | 1 => closeBlock c i
  | 2 => closeRegion c i
  | 3 => enterSelfRefresh c i.unit
  | 4 => closeDecoder c i
  | 5 => closeMover c i
  | _ => c
/-- JUNCTION_CLOSED. -/
def junctionClose (u : UnitId) (c : Chip) : Chip :=
  match isolation? c u.cls (unitKey u.cls u.unit) with
  | some i => if i.junction = .withdraw then closePart c i else c
  | none => c

/-! ## Retest and re-admission (R388, R389) -/

/-- RETEST, 10 s after the isolation or later, behind a closed boundary: the injection is cleared, and the test starts. -/
def retest (u : UnitId) (c : Chip) : Chip :=
  let key := unitKey u.cls u.unit
  match isolation? c u.cls key with
  | none => c
  | some i =>
    if !running c || !(smServes c || u.cls = 11) || i.forever || i.testing || !i.railGood || i.junction ≠ .closed then c
    else
      let c := advanceTo c (i.sinceNs + sec10)
      let code := unitCode u.cls key
      setIsolation (updFaults c (fun f => { f with injected := f.injected.filter (fun x => !(x.1 = u.cls && x.2.1 = code)) }))
        { i with testing := true }

/-- The epoch of a part's end (R27). The spec gives no first value; it is 0 after a start (DESIGN CHOICE, log 5). -/
def epochOf (c : Chip) (cls key : Nat) : Nat := match c.faults.epochs.find? (fun e => e.1 = cls && e.2.1 = key) with
  | some e => e.2.2
  | none => 0
/-- A memory controller returns with its written-map clear. -/
def readmitMc (c : Chip) (mc : Nat) : Chip :=
  let c := updMc c mc (fun m => { m with isolated := false, selfRefresh := false, copying := true, copied := [], retrainFails := [] })
  { c with written := c.written.filter (fun k => k / 2 ^ 20 ≠ mc), poison := c.poison.filter (fun k => k / 2 ^ 26 ≠ mc)
           ram := Memory.dropRange c.ram (ramKey mc 0) (ramKey (mc + 1) 0) }
/-- Counter slots of a unit (Table 16-1): a region has its own and those of its blocks. -/
def slotsOf (cls key : Nat) : List Nat :=
  match cls with
  | 1 => [4 * (key / 256) + fld key 7 5]
  | 2 => [64 + key, 4 * key, 4 * key + 1, 4 * key + 2, 4 * key + 3]
  | 3 => [80 + key]
  | 4 => [108 + key]
  | 5 => [116 + key]
  | 8 => [96 + key]
  | _ => []
/-- What the part does again. -/
def returnPart (c : Chip) (cls key : Nat) : Chip :=
  let c := (slotsOf cls key).foldl restartCounters c
  match cls with
  | 0 => updRegion c (key / 256) (fun r => { r with blocks := upd r.blocks (fld key 7 5) (fun b =>
      { b with failedCells := b.failedCells.filter (· ≠ fld key 4 0), spare := fld key 4 0 }) })
  | 1 => updRegion c (key / 256) (fun r => { r with blocks := upd r.blocks (fld key 7 5) (fun b => { b with removed := false }) })
  | 2 => updRegion c key (fun r => { r with off := false, limited := false, above := false, mhz := c.cfg.regionMHz })
  | 3 => readmitMc c key
  | 4 => dispatchDecoders (updDec c key (fun d => { d with isolated := false }))
  | 5 => dispatchMovers { c with moverOut := c.moverOut.filter (· ≠ key) }
  | 11 => if c.sm.active.isNone then resumeTraining (interruptJobs (pairServes c key))
    else { c with sm := { c.sm with relief := some key } }
  | 12 => updFaults c (fun f => { f with links := f.links.filter (fun l => l ≠ (key % 256, decide (key / 256 = 1))) })
  | 15 => { c with pcie := { c.pcie with linkDown := false } }
  | _ => c

/-- RETEST_DONE. -/
def retestDone (u : UnitId) (pass : Bool) (code : U32) (c : Chip) : Chip :=
  let key := unitKey u.cls u.unit
  match isolation? c u.cls key with
  | none => c
  | some i =>
    if !i.testing then c
    else if !pass then
      let c := raiseKey (setIsolation c { i with testing := false, forever := true }) 0xC021 u.cls i.cause key 0 [code]
      if u.cls = 11 && c.sm.active.isNone then noStationmaster c i.cause key else c
    else
      let c := advanceTo c (i.closedNs + 100000)
      let epoch := (epochOf c u.cls key + 1) % 16
      let others := c.faults.epochs.filter (fun e => !(e.1 = u.cls && e.2.1 = key))
      let c := updFaults (dropIsolation c u.cls key) (fun f => { f with
        epochs := (u.cls, key, epoch) :: others, readmitted := (u.cls, key) :: f.readmitted })
      let c := raiseKey c 0xC020 u.cls i.cause key 0 [w epoch]
      schedule (returnPart c u.cls key)

/-- RAIL_OR_CLOCK_GOOD_AGAIN. -/
def goodAgain (u : UnitId) (c : Chip) : Chip :=
  match isolation? c u.cls (unitKey u.cls u.unit) with
  | some i => setIsolation c { i with railGood := true }
  | none => c

/-- The page of a controller belongs to a twin-track allocation. -/
def twinPage (c : Chip) (mc page : Nat) : Bool :=
  (match areaOfPage c mc page with | some a => a.twin | none => false) || (match regionOfPage c mc page with | some r => r.twin | none => false)
/-- BULK_COPY_PAGE: the page takes the other member's bytes and poison, and may serve primary reads (R389). A page that the other
member has itself still to take waits, and one that is lost stays lost (R381). -/
def bulkCopy (mc page : Nat) (c : Chip) : Chip :=
  let partner := if mc % 2 = 0 then mc + 1 else mc - 1
  if !(nth c.mcs mc).copying || !mcOk c mc || !mcOk c partner || !twinPage c mc page || uncopied c partner page then c
  else if lostPage c partner page then updMc c mc (fun m => { m with copied := page :: m.copied })
  else
    let lo := ramKey partner (page * 4096)
    let d := Memory.getBytes c.ram lo 4096
    let bad := (c.poison.filter (fun k => wordKey partner (page * 64) ≤ k && k < wordKey partner (page * 64 + 64))).map
      (fun k => k - wordKey partner 0 + wordKey mc 0)
    let key := pageKey mc page
    let c := { c with
      ram := Memory.setBytes c.ram (ramKey mc (page * 4096)) d
      poison := bad ++ c.poison.filter (fun k => k < wordKey mc (page * 64) || wordKey mc (page * 64 + 64) ≤ k)
      written := if c.written.contains (pageKey partner page) && !c.written.contains key then key :: c.written else c.written }
    updMc c mc (fun m => { m with copied := page :: m.copied })

/-! ## `fault_inject` (R394) -/

/-- Causes that Table 14-2 lists for a class, 1 to 5. -/
def causesOf (cls : Nat) : List Nat :=
  nth [[1, 2, 3], [1, 2, 3], [4, 5], [4, 5], [1, 2, 3], [1, 2, 3], [2], [5], [5], [5], [1, 5], [1, 2], [5], [2], [2], [5]] cls
/-- The unit exists on the part. -/
def unitExists (c : Chip) (cls unit : Nat) : Bool :=
  let u := fld unit 15 8
  let b := fld unit 7 5
  match cls with
  | 0 => u < 16 && (region c u).inService && b < 4 && fld unit 4 0 < 17
  | 1 => u < 16 && (region c u).inService && b < 4
  | 2 => u < 16 && (region c u).inService
  | 3 => unit < mcCount c && (nth c.mcs unit).inService
  | 4 => unit < 8
  | 5 => unit < 2
  | 6 => unit < 4
  | 7 => unit < laneCount c
  | 8 => unit < quadCount c
  | 9 => unit < 2
  | 10 => unit = 0 || (unit = 1 && c.cfg.csTwoPorts)
  | 11 => unit < 2
  | 12 => if unit.testBit 8 then fld unit 4 0 < 24 else fld unit 4 0 % 8 < 7
  | 13 | 14 | 15 => unit = 0
  | _ => false
/-- R9, R378: the bits of UNIT that Table 14-1 uses for a class. Where the table gives a plain range, those are the bits that its
largest number needs, and the bits above are reserved (DEDUCED, log 101). -/
def unitBits (cls unit : Nat) : Nat :=
  match cls with
  | 0 => fld unit 15 0
  | 1 => fld unit 15 5 * 32
  | 2 => fld unit 15 8 * 256
  | 3 | 8 => fld unit 3 0
  | 4 => fld unit 2 0
  | 5 | 9 | 10 | 11 => fld unit 0 0
  | 6 => fld unit 1 0
  | 7 => fld unit 5 0
  | 12 => fld unit 8 8 * 256 + fld unit 4 0
  | _ => 0
/-- A fault command acts where Table 14-2 lists its cause for the class (R379). -/
def whereListed (cls cause : Nat) (f : Chip → Chip) (c : Chip) : Chip :=
  if (causesOf cls).contains cause || (cls = 3 && cause = 6) || ((cls = 1 || cls = 2) && cause = 7) then f c else c

/-! ## Commands -/

/-- CELL_FAULT (R22, R183). -/
def execCellFault (region : Fin 16) (block : Fin 4) (cell : Fin 17) (cause : Fin 8) (s : State) : Host.Outcome State Fault Refusal :=
  .next (s.run (whereListed 0 cause.val (cellFault region.val block.val cell.val cause.val)))
/-- BLOCK_FAULT (R22). -/
def execBlockFault (region : Fin 16) (block : Fin 4) (cause : Fin 8) (s : State) : Host.Outcome State Fault Refusal :=
  .next (s.run (whereListed 1 cause.val (blockFault region.val block.val cause.val)))
/-- REGION_FAULT (R22, R184). -/
def execRegionFault (region : Fin 16) (cause : Fin 8) (s : State) : Host.Outcome State Fault Refusal :=
  .next (s.run (whereListed 2 cause.val (regionFault region.val cause.val)))
/-- MC_FAULT (R381). -/
def execMcFault (mc : Fin 16) (cause : Fin 8) (s : State) : Host.Outcome State Fault Refusal := .next (s.run (whereListed 3 cause.val (mcFault mc.val cause.val)))
/-- MC_HEARTBEAT (R379). -/
def execMcHeartbeat (mc : Fin 16) (failedTransfers : List Nat) (s : State) : Host.Outcome State Fault Refusal :=
  .next (s.run (heartbeat mc.val failedTransfers))
/-- FLT_RELOCATED (R381). -/
def execFltRelocated (mc : Fin 16) (s : State) : Host.Outcome State Fault Refusal := .next (s.run (relocated mc.val))
/-- DECODER_FAULT (R382). -/
def execDecoderFault (dd : Fin 8) (cause : Fin 8) (s : State) : Host.Outcome State Fault Refusal :=
  .next (s.run (whereListed 4 cause.val (decoderFault dd.val cause.val)))
/-- MOVER_FAULT (R355). -/
def execMoverFault (m : Fin 2) (cause : Fin 8) (s : State) : Host.Outcome State Fault Refusal := .next (s.run (whereListed 5 cause.val (moverFault m.val cause.val)))
/-- SCAN_OUT_PORT_FAULT (R383). -/
def execScanOutPortFault (port : Fin 4) (s : State) : Host.Outcome State Fault Refusal := .next (s.run (portFault port.val))
/-- SCHEDULER_FAULT (R383). -/
def execSchedulerFault (s : State) : Host.Outcome State Fault Refusal := .next (s.run schedulerFault)
/-- TRUNK_LINK_FAULT (R380). -/
def execTrunkLinkFault (stop : Fin 32) (south : Bool) (s : State) : Host.Outcome State Fault Refusal :=
  .next (s.run (trunkFault stop.val south))
/-- FLT_TIME_VOTE (R384). -/
def execFltTimeVote (copy : Fin 3) (s : State) : Host.Outcome State Fault Refusal := .next (s.run (timeVote copy.val))
/-- HP_ENDPOINT_FAULT (R379). -/
def execHpEndpointFault (s : State) : Host.Outcome State Fault Refusal := .next (s.run endpointFault)
/-- RELIEF_FAULT (R393). -/
def execReliefFault (cause : Fin 8) (s : State) : Host.Outcome State Fault Refusal := .next (s.run (whereListed 11 cause.val (reliefFault cause.val)))
/-- COMMON_RAIL_LOSS (R377, R446). -/
def execCommonRailLoss (s : State) : Host.Outcome State Fault Refusal :=
  .next (s.run (fun c => if c.porLow then c else outsideFree c 1))
/-- REFERENCE_CLOCK_LOSS (R377). -/
def execReferenceClockLoss (islandPll : Bool) (s : State) : Host.Outcome State Fault Refusal :=
  .next (s.run (fun c => if c.porLow then c else outsideFree c (if islandPll then 3 else 2)))
/-- JUNCTION_DRAIN_END (R28, R385). -/
def execJunctionDrainEnd (u : UnitId) (s : State) : Host.Outcome State Fault Refusal := .next (s.run (drainEnd u))
/-- JUNCTION_CLOSED (R28, R184, R385). -/
def execJunctionClosed (u : UnitId) (s : State) : Host.Outcome State Fault Refusal := .next (s.run (junctionClose u))
/-- RETEST (R388, R394). -/
def execRetest (u : UnitId) (s : State) : Host.Outcome State Fault Refusal := .next (s.run (retest u))
/-- RETEST_DONE (R388, R389). -/
def execRetestDone (u : UnitId) (pass : Bool) (code : U32) (s : State) : Host.Outcome State Fault Refusal :=
  .next (s.run (retestDone u pass code))
/-- RAIL_OR_CLOCK_GOOD_AGAIN (R388). -/
def execRailOrClockGoodAgain (u : UnitId) (s : State) : Host.Outcome State Fault Refusal := .next (s.run (goodAgain u))
/-- BULK_COPY_PAGE (R389). -/
def execBulkCopyPage (mc : Fin 16) (page : Nat) (s : State) : Host.Outcome State Fault Refusal := .next (s.run (bulkCopy mc.val page))
end Sys2Proof.Machine
end

