-- ==== Sys2Proof/Machine/Gddr.lean ====
section
/-!
DEFINITION. The GDDR7 memory system: memory regions (R330 to R332), `scrub_set`, `mem_write` and `mem_read` (R86, R214, R336),
refresh and temperature (R321 to R323), row-hammer protection (R320), retraining (R324 to R326), scrubbing and repair
(R336 to R338).
-/

namespace Sys2Proof.Machine

/-! ## Memory regions (R330 to R332) -/

/-- The controllers of a mask, or with TWIN_TRACK the even members of its pairs; mask 0 names every one in service. -/
def regionMcs (c : Chip) (mask : Nat) (twin : Bool) : List Nat :=
  if twin then (if mask = 0 then pairsInService c else (bitsOf mask 16).filter (fun m => m % 2 = 0))
  else if mask = 0 then mcsInService c else bitsOf mask 16
/-- An unfinished job other than the region's own fill names it, or it holds surfaces. -/
def regionInUse (c : Chip) (id : Nat) : Bool :=
  c.surfs.any (fun s => s.region = id) || c.cci.jobs.any (fun j => j.regions.contains id)
/-- Delete a region: a fill in progress ends with ABORTED, and its pages become unwritten and free. -/
def deleteRegion (c : Chip) (r : MemRegion) : Chip :=
  let c := dropPages { c with mems := c.mems.filter (fun x => x.id ≠ r.id) } (withMirrors r.mcs r.twin) r.base (r.pages + r.check)
  if r.filling && r.fillJob ≠ 0 then endJob c r.fillJob .aborted 0 0 [] else c
/-- The place of R315 for a new region, if one is free. -/
def regionFit (c : Chip) (mcs : List Nat) (twin : Bool) (ecc size : Nat) : Option MemRegion :=
  if mcs = [] then none
  else
    let pages := cdiv size (4096 * mcs.length)
    let check := if ecc = 2 then cdiv pages 8 else 0
    (lowestFit c mcs twin (pages + check) 0 pagesBelow).map (fun b =>
      { ecc := ecc, twin := twin, size := size, mcs := mcs, base := b, pages := pages, check := check })
/-- The region is entered; a strong region is filled by a job (R332). -/
def enterRegion (c : Chip) (e : Env) (r : MemRegion) : Chip × Reply :=
  let c := dropPages c (withMirrors r.mcs r.twin) r.base (r.pages + r.check)
  if r.ecc ≠ 2 then ({ c with mems := r :: c.mems }, ok [])
  else
    let n := newJob c 0x20 (tagOf e) (sid e) []
    ({ n.2 with mems := { r with filling := true, fillJob := n.1 } :: n.2.mems }, { status := stACCEPTED, result := [w n.1] })

/-- `mem_region_define`. -/
def memRegionDefineBody : Body := fun e c =>
  let id := mf e 0x10 5 0
  let ecc := mf e 0x10 10 9
  let twin := bit e 0x10 11
  let size := mw e 0x14 + mw e 0x18 * 2 ^ 32
  let mask := mf e 0x1C 15 0
  let old := memRegion? c id
  let owned := match old with
    | some r => mayAct c (sid e) r.owner
    | none => true
  if bit e 0x10 8 then
    match old with
    | none => reject c stUNKNOWN_RESOURCE
    | some r =>
      if !owned then reject c stNOT_OWNER
      else if regionInUse c id then reject c stIN_USE
      else (deleteRegion c r, ok [])
  else if ecc = 3 || size < 4096 || size % 4096 ≠ 0 || (twin && ecc = 0) ||
      (twin && (List.range 8).any (fun k => mask.testBit (2 * k) != mask.testBit (2 * k + 1))) then reject c stINVALID_FIELD
  else if (bitsOf mask 16).any (fun m => !mcOk c m) then reject c stUNKNOWN_RESOURCE
  else if !owned then reject c stNOT_OWNER
  else
    let busy := old.isSome && regionInUse c id
    let free := match old with
      | some r => if busy then c else deleteRegion c r
      | none => c
    match regionFit free (regionMcs c mask twin) twin ecc size with
    | none => reject c stNO_SPACE
    | some r =>
      if ecc = 2 && jobsFull free then reject c stNO_SPACE
      else if busy then reject c stIN_USE
      else enterRegion free e { r with id := id, owner := sid e, noGuard := bit e 0x10 12 }

/-- STRONG_FILL_DONE (R332). -/
def fillDone (id : Nat) (c : Chip) : Chip :=
  match memRegion? c id with
  | none => c
  | some r =>
    if !r.filling then c
    else
      let c := { c with mems := c.mems.map (fun x => if x.id = id then { x with filling := false, fillJob := 0 } else x) }
      if r.fillJob = 0 then c else endJob c r.fillJob .completed 0 0 []

/-! ## `scrub_set`, `mem_write` and `mem_read` -/

/-- `scrub_set` (R336). -/
def scrubSetBody : Body := fun e c =>
  let s := mw e 0x10
  let mask := mf e 0x14 15 0
  if mask = 0 || (s ≠ 0 && (s < 600 || 2592000 < s)) then reject c stINVALID_FIELD
  else if (bitsOf mask 16).any (fun m => mcCount c ≤ m) then reject c stUNKNOWN_RESOURCE
  else ((bitsOf mask 16).foldl (fun c m => updMc c m (fun x => { x with scrubS := s })) c, ok [])

/-- A range of a region touches a guarded surface (R214). -/
def guardedSurface (c : Chip) (r : MemRegion) (off n : Nat) : Option Surface :=
  if r.noGuard then none
  else c.surfs.find? (fun s => s.region = r.id && s.inDisplay && off < s.offset + s.size && s.offset < off + n)

/-- `mem_write` (R86, R214). -/
def memWriteBody : Body := fun e c =>
  let off := mw e 0x14
  let n := mw e 0x18
  if n = 0 || 1024 < n then reject c stINVALID_FIELD
  else
    match memRegion? c (mf e 0x10 5 0) with
    | none => reject c stUNKNOWN_RESOURCE
    | some r =>
      if !mayAct c (sid e) r.owner then reject c stNOT_OWNER
      else if r.size < off + n then reject c stINVALID_FIELD
      else if (guardedSurface c r off n).isSome then reject c stIN_USE
      else if e.inline.length < n || (wordStarts off n).any (fun o => !reachable c (regionPlace r o)) then reject c stTRANSFER_FAULT
      else (writeRegion c r off (e.inline.take n), ok [])

/-- `mem_read` (R86, R329). -/
def memReadBody : Body := fun e c =>
  let off := mw e 0x14
  let n := mw e 0x18
  if n = 0 || 1024 < n then reject c stINVALID_FIELD
  else
    match memRegion? c (mf e 0x10 5 0) with
    | none => reject c stUNKNOWN_RESOURCE
    | some r =>
      if r.size < off + n then reject c stINVALID_FIELD
      else
        let x := readThrough c (regionPlace r) off n false
        if x.2.1 ≠ 0 then reject x.2.2 stTRANSFER_FAULT else (x.2.2, { status := stOK, data := x.1 })

/-! ## Banks (R320, R321) -/

def bankOf (c : Chip) (mc ch bank : Nat) : Bank :=
  (c.banks.find? (fun b => b.mc = mc && b.ch = ch && b.bank = bank)).getD { mc := mc, ch := ch, bank := bank }
def setBank (c : Chip) (b : Bank) : Chip :=
  let others := c.banks.filter (fun x => !(x.mc = b.mc && x.ch = b.ch && x.bank = b.bank))
  { c with banks := b :: others }
/-- The limit of D, in half intervals. -/
def debtLimit (doubled : Bool) : Nat := if doubled then 8 else 16

/-- REFRESH_DUE: issue or postpone; without waiting requests extra refreshes repay the debt. -/
def refreshDue (mc ch bank : Nat) (waits : Bool) (c : Chip) : Chip :=
  if !mcOk c mc then c
  else
    let m := nth c.mcs mc
    let b := bankOf c mc ch bank
    let more := if m.doubled then 1 else 2
    if !waits then setBank c { b with debt := 0 }
    else if debtLimit m.doubled < b.debt + more then c
    else count (setBank c { b with debt := b.debt + more }) (80 + mc) 0x0308 1

/-- REFRESH_WINDOW_START: every table is cleared. -/
def windowStart (mc : Nat) (c : Chip) : Chip :=
  { c with banks := c.banks.map (fun b => if b.mc = mc then { b with rows := [] } else b) }

/-- The entry with the smallest count, the lowest on a tie: its position. -/
def leastEntry (l : List (Nat × Nat)) : Nat :=
  (List.range l.length).foldl (fun m i => if (nth l i).2 < (nth l m).2 then i else m) 0
/-- R320: enter one activation in a table. -/
def noteActivation (l : List (Nat × Nat)) (row : Nat) : List (Nat × Nat) :=
  if l.any (fun x => x.1 = row) then l.map (fun x => if x.1 = row then (x.1, x.2 + 1) else x)
  else if l.length < 64 then l ++ [(row, 1)]
  else upd l (leastEntry l) (fun x => (row, x.2 + 1))
/-- Rows of a bank: the row field of R311. -/
def bankRows (c : Chip) : Nat := devicePages c * 64 / 2 ^ (c.cfg.colBits + 6)
/-- The neighbours that a mitigation refreshes. -/
def neighbours (c : Chip) (row : Nat) : List Nat :=
  ((List.range (2 * c.cfg.hammerDistance + 1)).map (fun k => row + k)).filterMap (fun r =>
    let n := r - c.cfg.hammerDistance
    if r < c.cfg.hammerDistance || n = row || bankRows c ≤ n then none else some n)
/-- An activation, with the mitigation that it may call for; mitigations count as activations. -/
def activate : Nat → Nat → Nat → Nat → Chip → Nat → Chip
  | 0, _, _, _, c, _ => c
  | fuel + 1, mc, ch, bank, c, row =>
    let b := bankOf c mc ch bank
    let rows := noteActivation b.rows row
    let c := count (setBank c { b with rows := rows }) (80 + mc) 0x0306 1
    if !rows.any (fun x => x.1 = row && x.2 = c.cfg.hammerThreshold) then c
    else
      let near := neighbours c row
      let c := near.foldl (activate fuel mc ch bank) c
      let b := bankOf c mc ch bank
      let c := setBank c { b with rows := b.rows.map (fun x => if x.1 = row then (x.1, 0) else x) }
      raiseLimited (count c (80 + mc) 0x0307 near.length) 0x7006 mc sec1 1 1 [w mc, 0]
/-- ROW_ACTIVATION. -/
def rowActivated (mc ch bank row : Nat) (c : Chip) : Chip :=
  if !mcOk c mc || bankRows c ≤ row then c else activate 130 mc ch bank c row

/-! ## Temperature (R322, R323) -/

/-- The bank with the largest debt, the first on a tie. -/
def worstBank (l : List Bank) : Option Bank :=
  l.foldl (fun m b => match m with
    | none => some b
    | some x => if x.debt < b.debt || (x.debt = b.debt && b.ch * 16 + b.bank < x.ch * 16 + x.bank) then some b else some x) none
/-- MEM_REFRESH_RATE. -/
def rateEvent (c : Chip) (mc : Nat) : Chip :=
  let m := nth c.mcs mc
  raise c 0x7005 [w (mc + b01 m.doubled * 256), wi m.temp]
/-- The first reading above 85 °C. -/
def doubleRate (mc : Nat) (c : Chip) : Chip :=
  let worst := worstBank (c.banks.filter (fun b => b.mc = mc))
  let c := updMc c mc (fun m => { m with doubled := true })
  let c := catchUp { c with banks := c.banks.map (fun b => if b.mc = mc then { b with debt := 2 * b.debt } else b) } mc
  let c := match worst with
    | none => c
    | some b => if 2 * b.debt ≤ 8 then c
      else raise c 0x7004 [w (mc + b.ch * 16 + b.bank / 4 * 256 + b.bank % 4 * 1024), w (b.debt + 2 * b.debt * 256 + (2 * b.debt - 8) * 65536)]
  rateEvent c mc
/-- R324: a pause of a channel falls due. A commanded run of MEMORY in progress counts for an automatic one, which is skipped
(R401). -/
def pauseFor (c : Chip) (ofRun : Bool) (mc ch : Nat) : Chip :=
  let m := nth c.mcs mc
  if m.paused = some ch || (!ofRun && ((calDomain c 4).running || m.pausesDue.any (fun d => d.1 = ch))) then c
  else updMc c mc (fun m => { m with pausesDue := m.pausesDue.filter (fun d => d.1 ≠ ch) ++ [(ch, nowNs c, ofRun)] })
def movedChannels (m : Mc) : List Nat :=
  (List.range 4).filter (fun ch => match m.trainTemps.find? (fun t => t.1 = ch) with
    | some t => decide (20 ≤ m.temp - t.2 ∨ m.temp - t.2 ≤ -20)
    | none => false)
/-- MEM_TEMPERATURE_READ; a reading that fails counts as one above 85.0 °C. -/
def temperatureRead (mc : Nat) (t : Option Int) (c : Chip) : Chip :=
  if !mcOk c mc then c
  else
    let hot := match t with
      | some v => decide (170 < v)
      | none => true
    let cool := match t with
      | some v => decide (v ≤ 160)
      | none => false
    let c := updMc c mc (fun m => { m with temp := t.getD m.temp, coolRun := if cool then min 100 (m.coolRun + 1) else 0 })
    let m := nth c.mcs mc
    let c := if hot && !m.doubled then doubleRate mc c
      else if m.doubled && m.coolRun = 100 then rateEvent (updMc c mc (fun m => { m with doubled := false })) mc
      else c
    startPauses ((movedChannels m).foldl (fun c ch => pauseFor c false mc ch) c)

/-! ## Retraining (R324 to R326) -/

/-- Link CRC retries are counted, and MEM_LINK_ERRORS gives those since the last one, at most once per second (R326). -/
def linkErrors (c : Chip) (mc retries failed : Nat) : Chip :=
  if retries = 0 then c
  else
    let c := updMc c mc (fun m => { m with linkRetries := m.linkRetries + retries, linkFailed := m.linkFailed + failed })
    if (limitOf c 0x7007 mc).lastNs.any (fun t => decide (nowNs c < t + sec1)) then c
    else
      let m := nth c.mcs mc
      raiseEvery (updMc c mc (fun m => { m with linkRetries := 0, linkFailed := 0 })) 0 0x7007 mc sec1 [w mc, w m.linkRetries, w m.linkFailed]
/-- RETRAIN_DUE: the pause is placed under R325. Link CRC retries, those of the last 1 ms on the channel, are counted, and call for
it where they are more than 64 (R326). -/
def retrainDue (mc ch retries failed : Nat) (c : Chip) : Chip :=
  if !mcOk c mc then c
  else
    let c := linkErrors c mc retries failed
    if retries = 0 || 64 < retries then startPauses (pauseFor c false mc ch) else c

/-- A retraining fails: an automatic one is a run of MEMORY that failed, without a CAL_RECORD of its own (R402, R404). -/
def pauseFailed (c : Chip) (ofRun : Bool) (mc ch : Nat) : Chip :=
  if ofRun then c else raise (updCal c 4 (fun x => { x with lastFailed := true })) 0x9002 [4, 1, w (4 * mc + ch)]
/-- RETRAIN_PAUSE_END: the pause of a commanded run leaves STALE to the run, or set where the run was abandoned (R18). -/
def pauseEnd (mc ch : Nat) (pass : Bool) (c : Chip) : Chip :=
  let m := nth c.mcs mc
  if m.paused ≠ some ch then c
  else
    let partner := if mc % 2 = 0 then mc + 1 else mc - 1
    let c := updMc c mc (fun m => { m with paused := none })
    let c := if (nth c.mcs partner).doubled then catchUp c partner else c
    if pass then
      let temps := (ch, m.temp) :: m.trainTemps.filter (fun t => t.1 ≠ ch)
      let c := updMc c mc (fun m => { m with trainTemps := temps, retrainFails := m.retrainFails.filter (fun f => f.1 ≠ ch) })
      let c := countRun c 4
      startPauses (updCal c 4 (fun x => { x with
        stale := x.stale && (x.running || m.pauseOfRun), lastFailed := x.lastFailed && m.pauseOfRun }))
    else
      let c := pauseFailed c m.pauseOfRun mc ch
      let n := look m.retrainFails ch 0 + 1
      if n < 3 then startPauses (pauseFor (updMc c mc (fun m => { m with retrainFails := put m.retrainFails ch n })) (m.pauseOfRun && (calDomain c 4).running) mc ch)
      else startPauses (mcFault mc 6 (raise c 0x7008 [w (mc + ch * 16), w n]))

/-! ## Scrubbing, poison and repair (R336 to R338) -/

/-- ECC class of a page: none for a page below 3 GiB that nothing holds. -/
def pageClass (c : Chip) (mc page : Nat) : Option Nat :=
  match areaOfPage c mc page, regionOfPage c mc page with
  | some a, _ => some (if a.check ≠ 0 then 2 else 1)
  | none, some r => some r.ecc
  | none, none => if pagesBelow ≤ page then some 1 else none
/-- The scrubber visits the word (R336). -/
def scrubbed (c : Chip) (mc word : Nat) : Bool :=
  let page := word / 64
  if pagesBelow ≤ page then decide (page < devicePages c)
  else
    let checkPage := match areaOfPage c mc page, regionOfPage c mc page with
      | some a, _ => a.check ≠ 0 && a.base + a.pages ≤ page
      | none, some r => r.check ≠ 0 && r.base + r.pages ≤ page
      | none, none => false
    match pageClass c mc page with
    | some k => k ≠ 0 && (checkPage || c.written.contains (pageKey mc page))
    | none => false
def otherTrack (mc : Nat) : Nat := if mc % 2 = 0 then mc + 1 else mc - 1
/-- The other track of a twin-track word can be read. -/
def otherGood (c : Chip) (mc word : Nat) : Bool :=
  twinPage c mc (word / 64) && !uncopied c (otherTrack mc) (word / 64) && wordOn c (otherTrack mc) (word * 64) = .good
/-- The stream that fills a ring from the content store has data that no decoder has taken, of an item that a drive still
holds. -/
def storeData (c : Chip) (s : Stream) : Bool := (s.sched ++ s.playing.toList).any (fun x => x.left ≠ [] && itemReadable c x.item)
/-- The repair source of a word (Table 11-8): 0 other track, 1 persistence copy, 2 content store, 3 none. -/
def repairSource (c : Chip) (mc word : Nat) : Nat :=
  if otherGood c mc word then 0
  else
    match areaOfPage c mc (word / 64) with
    | some a =>
      if (a.code = 2 || a.code = 3) && (matchingCopy c).isSome then 1
      else if a.code = 4 && storePresent c && storeData c (stream c a.unit) then 2 else 3
    | none => 3
/-- The repair of a word is under way with a repair code; with code 3 none is. -/
def startRepair (c : Chip) (key repair : Nat) : Chip :=
  let others := c.repairs.filter (fun x => x.1 ≠ key)
  { c with repairs := if repair = 3 then others else (key, repair) :: others }
/-- MEM_UNCORRECTABLE, and the repair that it names starts. -/
def uncorrectable (c : Chip) (mc word : Nat) (scrub crc : Bool) (repair : Nat) : Chip :=
  let area := match areaOfPage c mc (word / 64) with
    | some a => a.code
    | none => 0
  let region := match regionOfPage c mc (word / 64) with
    | some r => r.id
    | none => 0x3F
  raise (startRepair c (wordKey mc word) repair) 0x7002 [w (mc + (fieldsOf c mc word).channel * 16 + area * 256 + b01 scrub * 65536 + b01 crc * 131072), w word, w region, w repair]
/-- An uncorrectable word is poisoned; one that a mirror serves is repaired without an event of its own (R333, R337). -/
def foundBad (c : Chip) (mc word : Nat) (scrub crc : Bool) : Chip :=
  if c.poison.contains (wordKey mc word) then c
  else
    let mirrored := mc % 2 = 0 && otherGood c mc word
    let repair := repairSource c mc word
    let c := { c with poison := wordKey mc word :: c.poison }
    let c := if scrub then updMc c mc (fun m => { m with scrubBad := m.scrubBad + 1 }) else c
    if mirrored then startRepair c (wordKey mc word) repair else uncorrectable c mc word scrub crc repair
/-- A word is corrected and written back with the bytes that the correction gives (R329, R336). -/
def foundCorrected (c : Chip) (mc word : Nat) (scrub : Bool) (d : List Byte) : Chip :=
  let c := { c with ram := Memory.setBytes c.ram (ramKey mc (word * 64)) (slice d 0 64) }
  let c := if scrub then updMc c mc (fun m => { m with scrubCorrected := m.scrubCorrected + 1 }) else c
  raiseLimited c 0x7001 mc sec10 1 1 [w (mc + (pageClass c mc (word / 64)).getD 1 * 256), 0]
/-- What a word reads as with bytes of it in error. -/
def withErrors (d : List Byte) (errors : List (Fin 72 × Byte)) : List Byte :=
  errors.foldl (fun d x => upd d x.1.val (fun b => b ^^^ x.2)) d
/-- The bytes of word and check bytes that are in error. -/
def badBytes (errors : List (Fin 72 × Byte)) : Nat :=
  (withErrors (List.replicate 72 0#8) errors).countP (fun b => b ≠ 0#8)
/-- R328: the code corrects up to 3 bytes and reports 4 or 5; with 6 or more one of its three outcomes is drawn (log 7). -/
def strongRead (c : Chip) (mc word : Nat) (scrub : Bool) (errors : List (Fin 72 × Byte)) : Chip :=
  let d := Memory.getBytes c.ram (ramKey mc (word * 64)) 64
  let n := badBytes errors
  if n = 0 then c
  else if n ≤ 3 then foundCorrected c mc word scrub d
  else if n ≤ 5 then foundBad c mc word scrub false
  else
    let a := drawFree c
    let b := drawFree a.2
    match a.1 % 3 with
    | 0 => foundBad a.2 mc word scrub false
    | 1 => foundCorrected b.2 mc word scrub (leBytes b.1 64)
    | _ => { a.2 with ram := Memory.setBytes c.ram (ramKey mc (word * 64)) (slice (withErrors d errors) 0 64) }
/-- A failed read (R326): 4 retries and a failed transfer; a twin-track word is read from the mirror, and copied over the primary
(R333). -/
def crcRead (c : Chip) (mc word : Nat) : Chip :=
  let c := linkErrors c mc 4 1
  if mc % 2 = 0 && otherGood c mc word then raise c 0x7003 [w mc, w word] else c
/-- A reader meets the device's content of the word: in a page that no write has reached it takes zeros without it (R335). -/
def deviceRead (c : Chip) (mc word : Nat) : Bool := wordOn c mc (word * 64) = .good
/-- A word that the device cannot correct, as the scrubber or a reader finds it: of class light it is bad; of class strong the
controller's code is tried, and how many bytes are wrong is open (Table 11-6, R328, log 7). -/
def deviceBad (c : Chip) (mc word : Nat) (scrub : Bool) : Chip :=
  if (pageClass c mc (word / 64)).getD 0 ≠ 2 then foundBad c mc word scrub false
  else
    let d := drawBit c
    if d.1 then foundCorrected d.2 mc word scrub (Memory.getBytes c.ram (ramKey mc (word * 64)) 64) else foundBad d.2 mc word scrub false
/-- The device reports a word to its reader: of class none the report is counted only (Table 11-6). -/
def reported (c : Chip) (mc : Nat) : Chip := updMc c mc (fun m => { m with reports := m.reports + 1 })
/-- SCRUB_VISIT, and what readers and writes find at a word. -/
def scrubVisit (mc word : Nat) (f : ScrubFinding) (c : Chip) : Chip :=
  let m := nth c.mcs mc
  let visits := m.scrubS ≠ 0 && scrubbed c mc word
  let cls := (pageClass c mc (word / 64)).getD 0
  let reads := deviceRead c mc word && cls ≠ 0
  if !running c || !mcOk c mc then c
  else
    match f with
    | .clean => c
    | .corrected d => if visits then foundCorrected c mc word true d else c
    | .uncorrectable true => foundBad (linkErrors c mc 4 1) mc word false true
    | .uncorrectable false => if visits then deviceBad c mc word true else c
    | .strong reader errors =>
      if cls = 2 && (if reader then reads else visits) then strongRead c mc word (!reader) errors else c
    | .readCorrected d => if reads then foundCorrected c mc word false d else if deviceRead c mc word then reported c mc else c
    | .readUncorrectable => if reads then deviceBad c mc word false else if deviceRead c mc word then reported c mc else c
    | .readCrc => if deviceRead c mc word then crcRead c mc word else c
    | .passEnd s =>
      if m.scrubS = 0 then c
      else raise (updMc c mc (fun m => { m with scrubCorrected := 0, scrubBad := 0 })) 0x7009 [w mc, s, w m.scrubCorrected, w m.scrubBad]

/-- A read that fails its link CRC in every retry is the reader's own access: the accesses of the next command meet it (log 99). -/
def failNext (mc word : Nat) (f : ScrubFinding) (before after : State) : State :=
  let c := before.chip
  if f = .readCrc && running c && deviceRead c mc word && mcOk c mc then { after with chip := { after.chip with crcBad := [wordKey mc word] } }
  else after

/-- The offset in an area at which a page of a controller begins. -/
def areaOffset (a : Area) (mc page : Nat) : Nat :=
  match a.moved.find? (fun v => v.mcs.contains mc && v.base ≤ page && page < v.base + v.pages) with
  | some v => (((page - v.base) * v.mcs.length + v.mcs.idxOf mc) * a.mcs.length + a.mcs.idxOf v.origin) * 4096
  | none => ((page - a.base) * a.mcs.length + a.mcs.idxOf mc) * 4096
/-- The data page of a word of an area, or the data page whose check bytes the word holds (R328). -/
def dataPage (a : Area) (mc word : Nat) : Nat :=
  let page := word / 64
  let range := match a.moved.find? (fun v => v.mcs.contains mc && v.base ≤ page && page < v.base + v.pages + v.check) with
    | some v => (v.base, v.pages)
    | none => (a.base, a.pages)
  if page < range.1 + range.2 then page else range.1 + (word - (range.1 + range.2) * 64) / 8
/-- Words of a page are no longer poisoned. -/
def clearPage (c : Chip) (mc page : Nat) : Chip :=
  { c with poison := c.poison.filter (fun k => k < wordKey mc (page * 64) || wordKey mc (page * 64 + 64) ≤ k) }
/-- A word is no longer poisoned. -/
def clearWord (c : Chip) (mc word : Nat) : Chip := { c with poison := c.poison.filter (· ≠ wordKey mc word) }
/-- MEM_REPAIRED event. -/
def repairedEvent (c : Chip) (mc word repair : Nat) : Chip :=
  raise (startRepair c (wordKey mc word) 3) 0x7003 [w (mc + repair * 256), w word]
/-- A page of the map or of the counters takes what a persistence copy holds (R306). -/
def reloadPage (c : Chip) (a : Area) (x : Persist) (mc word : Nat) : Chip :=
  let page := dataPage a mc word
  let off := areaOffset a mc page
  writeArea (clearWord (clearPage c mc page) mc word) a off ((List.range 4096).map (fun k => copyByte x a.code (off + k)))
/-- MEM_REPAIRED: the repair under way of a word, as Table 11-8 gives it to the word's owner; where its source fails,
MEM_UNCORRECTABLE again with repair code 3 (R338). -/
def repairWord (mc word : Nat) (c : Chip) : Chip :=
  let key := wordKey mc word
  if !mcOk c mc || !c.poison.contains key then c
  else
    match (c.repairs.find? (fun x => x.1 = key)).map (·.2) with
    | none => c
    | some 0 =>
      if !otherGood c mc word then uncorrectable c mc word false false 3
      else
        let d := Memory.getBytes c.ram (ramKey (otherTrack mc) (word * 64)) 64
        let c := clearWord c mc word
        repairedEvent { c with ram := Memory.setBytes c.ram (ramKey mc (word * 64)) d } mc word 0
    | some repair =>
      if !smServes c then c
      else
        match repairSource c mc word, areaOfPage c mc (word / 64), matchingCopy c with
        | 1, some a, some x => repairedEvent (reloadPage c a x mc word) mc word repair
        | 2, _, _ => repairedEvent (clearPage c mc (word / 64)) mc word repair
        | _, _, _ => uncorrectable c mc word false false 3

/-! ## Commands -/

/-- MEM_REGION_DEFINE (R330 to R332). -/
def execMemRegionDefine (via : Via) (s : State) : Host.Outcome State Fault Refusal :=
  .next (cciCommand 0x20 neverBusy memRegionDefineBody via s)
/-- SCRUB_SET (R336). -/
def execScrubSet (via : Via) (s : State) : Host.Outcome State Fault Refusal := .next (cciCommand 0x25 neverBusy scrubSetBody via s)
/-- MEM_WRITE (R86, R214). -/
def execMemWrite (via : Via) (s : State) : Host.Outcome State Fault Refusal := .next (cciCommand 0x26 neverBusy memWriteBody via s)
/-- MEM_READ (R86, R329). -/
def execMemRead (via : Via) (s : State) : Host.Outcome State Fault Refusal := .next (cciCommand 0x27 neverBusy memReadBody via s)
/-- STRONG_FILL_DONE (R332). -/
def execStrongFillDone (region : Fin 64) (s : State) : Host.Outcome State Fault Refusal := .next (s.runLive (fillDone region.val))
/-- MEM_TEMPERATURE_READ (R322 to R324). -/
def execMemTemperatureRead (mc : Fin 16) (halfDegrees : Option Int) (s : State) : Host.Outcome State Fault Refusal :=
  .next (s.runLive (temperatureRead mc.val halfDegrees))
/-- REFRESH_DUE (R321). -/
def execRefreshDue (mc : Fin 16) (ch : Fin 4) (bank : Fin 16) (passOrStreamWaits : Bool) (s : State) : Host.Outcome State Fault Refusal :=
  .next (s.runLive (refreshDue mc.val ch.val bank.val passOrStreamWaits))
/-- REFRESH_WINDOW_START (R320). -/
def execRefreshWindowStart (mc : Fin 16) (s : State) : Host.Outcome State Fault Refusal := .next (s.runLive (windowStart mc.val))
/-- ROW_ACTIVATION (R320). -/
def execRowActivation (mc : Fin 16) (ch : Fin 4) (bank : Fin 16) (row : Nat) (s : State) : Host.Outcome State Fault Refusal :=
  .next (s.runLive (rowActivated mc.val ch.val bank.val row))
/-- RETRAIN_DUE (R324 to R326). -/
def execRetrainDue (mc : Fin 16) (ch : Fin 4) (linkRetries failedTransfers : Nat) (s : State) : Host.Outcome State Fault Refusal :=
  .next (s.runLive (retrainDue mc.val ch.val linkRetries failedTransfers))
/-- RETRAIN_PAUSE_END (R322, R324, R403). -/
def execRetrainPauseEnd (mc : Fin 16) (ch : Fin 4) (pass : Bool) (s : State) : Host.Outcome State Fault Refusal :=
  .next (s.runLive (pauseEnd mc.val ch.val pass))
/-- SCRUB_VISIT (R326, R336, R337). -/
def execScrubVisit (mc : Fin 16) (word : Nat) (f : ScrubFinding) (s : State) : Host.Outcome State Fault Refusal :=
  .next (failNext mc.val word f s (s.runLive (scrubVisit mc.val word f)))
/-- MEM_REPAIRED (R333, R337, R338). -/
def execMemRepaired (mc : Fin 16) (word : Nat) (s : State) : Host.Outcome State Fault Refusal := .next (s.runLive (repairWord mc.val word))

end Sys2Proof.Machine
end

