-- ==== Sys2Proof/Machine/Cal.lean ====
section
/-!
DEFINITION. Calibration: the domains and their runs (R398 to R404), trim and its sources (R405 to R407), self-test bins and
signatures (R409 to R411).
-/

namespace Sys2Proof.Machine

/-! ## Trim (R405 to R407) -/

/-- Sensors of the ordering code. -/
def sensorPresent (c : Chip) (s : Nat) : Bool :=
  s < 51 && (fullPart c || !((24 ≤ s && s ≤ 31) || (38 ≤ s && s ≤ 43)))
def sensors (c : Chip) : List Nat := (List.range 51).filter (sensorPresent c)
/-- The items of a unit of a domain (Table 15-2). -/
def itemsOfUnit (d u : Nat) : List Nat :=
  match d with
  | 1 => [0x10 + u, 0x18 + u]
  | 2 => [0x40 + u, 0x80 + u]
  | 5 => [0xC0 + u]
  | _ => []
/-- The domain of an item. -/
def domainOf (item : Nat) : Nat := if item < 0x20 then 1 else if item < 0xC0 then 2 else 5
/-- Least and greatest value of an item. -/
def itemWidth (item : Nat) : Int × Int :=
  if item < 0x18 then (0, 1023) else if item < 0x40 then (-128, 127) else if item < 0x80 then (0, 63)
  else if item < 0xC0 then (0, 31) else (-128, 127)
/-- The sensor whose temperature an item follows. -/
def itemSensor (item : Nat) : Nat :=
  if item < 0x40 then 50 else if item < 0x80 then 32 + (item - 0x40) else if item < 0xC0 then 32 + (item - 0x80) else item - 0xC0
/-- Every item of Table 15-2 that the ordering code has. -/
def trimItems (c : Chip) : List Nat :=
  (List.range 4).flatMap (itemsOfUnit 1) ++ (List.range (quadCount c)).flatMap (itemsOfUnit 2) ++ (sensors c).flatMap (itemsOfUnit 5)

/-- `interp` of R407 on sets sorted by temperature. -/
def interp (tj : Int) (sets : List (Int × Int)) : Int :=
  match sets with
  | [] => 0
  | first :: _ =>
    let last := sets.getLastD first
    if tj ≤ first.1 then first.2
    else if last.1 ≤ tj then last.2
    else
      let below := (sets.filter (fun x => decide (x.1 ≤ tj))).getLastD first
      let above := ((sets.filter (fun x => decide (tj < x.1))).head?).getD last
      let span := above.1 - below.1
      let num := (above.2 - below.2) * (tj - below.1)
      if 0 ≤ num then below.2 + ((2 * num + span).toNat / (2 * span).toNat : Nat)
      else below.2 - ((-2 * num + span).toNat / (2 * span).toNat : Nat)
/-- I(Tj) of an item by the loaded sets and the last temperatures: that of an item of a sensor by its reading without its trim
(Table 15-2). -/
def tempDelta (c : Chip) (item : Nat) : Int :=
  let sets := sortBy (fun a b => decide (a.1 < b.1)) (c.cal.sets.map (fun x => (x.2.1, look x.2.2 item 0)))
  interp ((if 0xC0 ≤ item then c.cal.raw else c.cal.temps).getD (itemSensor item) 0) sets
/-- A trim value lies in its width. -/
def trimFits (item : Nat) (v : Int) : Bool :=
  let wd := itemWidth item
  decide (wd.1 ≤ v ∧ v ≤ wd.2)
/-- The trim that R405 puts in force: F + C + I(Tj), clamped. -/
def trimOf (c : Chip) (item : Nat) : Int :=
  let wd := itemWidth item
  clampI (look c.shadow.trim item 0 + look c.cal.corr item 0 + look c.cal.deltas item 0) wd.1 wd.2

/-- Lanes of a quad outside every group take a new trim at once; the others at a superframe boundary in blanking (R399). -/
def quadTrim (c : Chip) (q : Nat) : Chip :=
  (((List.range 4).map (4 * q + ·)).filter (fun l => (portOfLane c l).isNone)).foldl takeTrim c
/-- Put the trim of items in force; outputs take it as R399 states. -/
def applyTrims (c : Chip) (items : List Nat) : Chip :=
  let changed := items.filter (fun i => look c.cal.trim i (-1000) ≠ trimOf c i)
  let trim := changed.foldl (fun l i => put l i (trimOf c i)) c.cal.trim
  let quads := (List.range 12).filter (fun q => changed.contains (0x40 + q) || changed.contains (0x80 + q))
  let outputs := if (referencePort c).isNone then trim.filter (fun x => x.1 < 0x20) else c.cal.irefTrim
  quads.foldl quadTrim { c with cal := { c.cal with trim := trim, irefTrim := outputs } }
/-- What sensor s reports of an uncorrected reading in 0.5 °C: its trim, in 0.25 °C, is added (DESIGN CHOICE, log 102). -/
def corrected (c : Chip) (s : Nat) (raw : Int) : Int := (2 * raw + look c.cal.trim (0xC0 + s) 0) / 2
/-- The sensors read: during a run of THERMAL they report their last values (R399). -/
def readSensors (raw : List Int) (c : Chip) : Chip :=
  if (calDomain c 5).running then c
  else { c with cal := { c.cal with raw := raw, temps := (List.range raw.length).map (fun s => corrected c s (raw.getD s 0)) } }
/-- TRIM_EVALUATE: I(Tj) of every item; while STALE is set, the outputs of a domain hold their values (R400). -/
def trimEvaluate (raw : List Int) (c : Chip) : Chip :=
  if !running c || !smServes c then c
  else
    let c := readSensors raw c
    let c := { c with cal := { c.cal with deltas := (trimItems c).map (fun i => (i, tempDelta c i)) } }
    applyTrims c ((trimItems c).filter (fun i => !(calDomain c (domainOf i)).stale))

/-! ## Runs (R398 to R404) -/

/-- A lane of a group that R401 skips: it is training, lost, asleep, or awaiting a points switch. -/
def laneSkipped (c : Chip) (l : Nat) : Bool :=
  let x := lane c l
  match portOfLane c l with
  | some p => inTraining x || x.st = .lost || x.asleep || (port c p).switching.any (fun y => y.1 = l)
  | none => false
/-- The units that a run calibrates; lanes and controllers that R401 names are skipped. -/
def calUnits (c : Chip) (d : Nat) : List Nat :=
  match d with
  | 1 => List.range 4
  | 2 => List.range (quadCount c)
  | 3 => (List.range (laneCount c)).filter (fun l => (lane c l).st = .active && !laneSkipped c l)
  | 4 => (mcsInService c).flatMap (fun m => (List.range 4).map (fun ch => 4 * m + ch))
  | 5 => sensors c
  | _ => []
/-- What the start of a run of a domain notes on its lanes: LANE_TX skips some, LANE_EQ begins its steps (R399, R401). -/
def noteLanes (c : Chip) (d : Nat) (units : List Nat) : Chip :=
  if d = 2 then ((List.range (laneCount c)).filter (laneSkipped c)).foldl (fun c l => updLane c l (fun x => { x with skipTrim := true })) c
  else if d = 3 then units.foldl (fun c l => updLane c l (fun x => { x with eqStage := 0, trial := none, oldTaps := (x.pre, x.post) })) c
  else c
/-- A run starts; one with no unit completes at once. -/
def startRun (c : Chip) (d job : Nat) : Chip :=
  let units := calUnits c d
  if units = [] then
    let c := calReport (updCal c d (fun x => { x with stale := false, lastFailed := false })) d job 0 []
    endJob c job .completed 0 0 (calResult c d 0 0)
  else
    let c := updCal c d (fun x => { x with
      stale := true, running := true, job := job, units := units
      startDelta := (units.flatMap (itemsOfUnit d)).map (fun i => (i, look c.cal.deltas i 0)) })
    let c := noteLanes { c with cal := { c.cal with fresh := c.cal.fresh.filter (fun i => domainOf i ≠ d) } } d units
    if d = 4 then startPauses (units.foldl (fun c u => pauseFor c true (u / 4) (u % 4)) c) else c

/-- `calib_run`. -/
def calibRunBody : Body := fun e c =>
  let d := mf e 0x10 7 0
  if d = 0 || 5 < d then reject c stINVALID_FIELD
  else if jobsFull c then reject c stNO_SPACE
  else
    let n := newJob c 0x41 (tagOf e) (sid e) []
    (startRun n.2 d n.1, { status := stACCEPTED, result := [w n.1] })

/-- CAL_AUTO_RUN: the domains that run by time or temperature; one that is running is skipped. -/
def autoRun (d : Nat) (c : Chip) : Chip :=
  if c.start.st ≠ .released || !smServes c || !([1, 2, 5].contains d) || calBusy c d then c else startRun c d 0

/-- A unit fails: its measurement did not settle, or the trim that it calls for lies outside its width (R402). -/
def unitFails (c : Chip) (d : Nat) (r : CalReport) (u : Nat) : Bool :=
  r.failed.contains u || (d = 3 && (lane c u).eqStage < 4) ||
  (itemsOfUnit d u).any (fun i => match r.found.find? (fun f => f.1 = i) with
    | some f => !trimFits i f.2
    | none => false)
/-- C of the items that a run has measured, from the trim that each calls for and the I(Tj) at the start of the run, which stays in
force until the next evaluation (R401, R405). -/
def takeFound (c : Chip) (x : CalDomain) (found : List (Nat × Int)) (items : List Nat) : Chip :=
  items.foldl (fun c i =>
    let delta := look x.startDelta i 0
    let corr := match found.find? (fun f => f.1 = i) with
      | some f => f.2 - look c.shadow.trim i 0 - delta
      | none => look c.cal.corr i 0
    { c with cal := { c.cal with corr := put c.cal.corr i corr, deltas := put c.cal.deltas i delta } }) c
/-- CAL_RUN_DONE. -/
def runDone (d : Nat) (r : CalReport) (c : Chip) : Chip :=
  let x := calDomain c d
  if !x.running then c
  else
    let failed := x.units.filter (unitFails c d r)
    let done := x.units.filter (fun u => !unitFails c d r u)
    let items := done.flatMap (itemsOfUnit d)
    let c := takeFound c x r.found items
    let c := { c with cal := { c.cal with fresh := items ++ c.cal.fresh } }
    let c := applyTrims (if d = 3 then failed.foldl restoreTaps c else c) items
    let c := updCal c d (fun y => { y with running := false, job := 0, units := [], stale := decide (failed ≠ []), lastFailed := decide (failed ≠ []) })
    let c := if done ≠ [] && d ≠ 4 then countRun c d else c
    let c := calReport c d x.job done.length failed
    if failed = [] then endJob c x.job .completed 0 0 (calResult c d done.length 0)
    else endJob c x.job .failed stINFEASIBLE 0 (calResult c d done.length failed.length)
/-- CAL_RECORD: a record of every domain. -/
def calRecords (c : Chip) : Chip := if !running c || !smServes c then c else [1, 2, 3, 4, 5].foldl calRecord c
/-- `shutdown` abandons the runs; a commanded one ends with ABORTED (R60, R88). -/
def abandonRuns (c : Chip) : Chip :=
  abandonCal ([1, 2, 3, 4, 5].foldl (fun c d =>
    let job := (calDomain c d).job
    if job = 0 then c else endJob c job .aborted 0 0 (calResult c d 0 0)) c)

/-! ## The analogue self-test (R408 to R411) -/

/-- Units of each test of Table 15-5. -/
def testUnits (c : Chip) : List Nat :=
  if fullPart c then [1, 4, 2, 1, 51, 51, 48, 12] else [1, 4, 2, 1, 37, 37, 24, 6]
/-- The test, from 1, of unit i of the run, and its place in the test. -/
def testPlace : List Nat → Nat → Nat → Nat × Nat
  | [], i, k => (k, i)
  | n :: rest, i, k => if i < n then (k, i) else testPlace rest (i - n) (k + 1)
/-- A result within the inner band, or within the limit only. -/
def bandBin (inner limit : Bool) : Nat := if inner && limit then 0 else if limit then 1 else 2
/-- A deviation against two bounds, each within it. -/
def deviationBin (v : Int) (inner limit : Nat) : Nat := bandBin (decide (v.natAbs ≤ inner)) (decide (v.natAbs ≤ limit))
/-- The worst error of a current against the bands around its setting, 500 nA × code. -/
def currentBin (errors : Int × Int × Int) : Nat :=
  let bin := fun (code : Nat) (e : Int) =>
    bandBin (decide (200 * e.natAbs ≤ 500 * code + 200 * 500)) (decide (100 * e.natAbs ≤ 500 * code + 100 * 1000))
  max (bin 0x100 errors.1) (max (bin 0x800 errors.2.1) (bin 0xFFF errors.2.2))
/-- The bin of a result by the inner band and the limit of Table 15-5. -/
def scoreUnit (ref10m : Bool) (test : Nat) (r : UnitResult) : Nat :=
  match test with
  | 1 => deviationBin r.deviation 5000000 10000000
  | 2 => currentBin r.errors
  | 3 => deviationBin r.deviation 50000 100000
  | 4 => if ref10m then deviationBin r.deviation 5000 10000 else 0
  | 5 => max (deviationBin r.deviation 5000 10000) (bandBin (decide (r.lockNs ≤ 50000)) (decide (r.lockNs ≤ 100000)))
  | 6 => deviationBin r.deviation 2500 5000
  | 7 => bandBin (decide (192 ≤ r.fom)) (decide (128 ≤ r.fom) && !r.uncorrectable)
  | _ => if r.bitErrors = 0 then 0 else 2
/-- The bins of a run (R409). -/
def binsOf (c : Chip) (results : List UnitResult) : List Nat :=
  (List.range (total (testUnits c))).map (fun i =>
    scoreUnit c.cfg.time.ref10m (testPlace (testUnits c) i 1).1 (results.getD i {}))
/-- The signature of R409. -/
def signatureOf (c : Chip) (bins : List Nat) : List Byte :=
  (sha256 (leBytes c.shadow.deviceId.toNat 8 ++ bins.map (BitVec.ofNat 8))).take 16
/-- The test and unit of the first bin 2, tests from 1; 0 where there is none. The units of tests 5 and 6 have the numbers of the
sensors (DESIGN CHOICE for the PLLs, log 102). -/
def firstBad (c : Chip) (bins : List Nat) : Nat × Nat :=
  match (List.range bins.length).find? (fun i => nth bins i = 2) with
  | none => (0, 0)
  | some i =>
    let t := testPlace (testUnits c) i 1
    (t.1, if t.1 = 5 || t.1 = 6 then nth (sensors c) t.2 else t.2)
/-- Lanes that scored bin 2 in test 7. -/
def badLanes (c : Chip) (bins : List Nat) : List Nat :=
  let before := total ((testUnits c).take 6)
  (List.range (laneCount c)).filter (fun l => nth bins (before + l) = 2)
/-- The expected record in use (R410). -/
def expectedRecord (c : Chip) : Option ExpectedRecord :=
  let a := readExpected c.flash.expected0
  let b := readExpected c.flash.expected1
  if a.good && b.good then some (if a.seq < b.seq then b else a) else if a.good then some a else if b.good then some b else none
/-- A valid expected record of this part holds the signature. -/
def signatureMatches (c : Chip) (sig : List Byte) : Bool :=
  match expectedRecord c with
  | some r => r.fuseId = c.shadow.deviceId && r.expected = sig
  | none => false
/-- Write the older copy of the expected record. -/
def writeExpected (c : Chip) (sig : List Byte) (units : Nat) : Chip :=
  let seq := match expectedRecord c with
    | some r => r.seq + 1
    | none => 1
  let new := expectedBytes { seq := seq, fuseId := c.shadow.deviceId, expected := sig, units := units }
  let a := readExpected c.flash.expected0
  let b := readExpected c.flash.expected1
  let second := a.good && (!b.good || b.seq < a.seq)
  if second then { c with flash := { c.flash with expected1 := new } } else { c with flash := { c.flash with expected0 := new } }
/-- CAL_SELFTEST. -/
def selfTestEvent (c : Chip) (bins : List Nat) (atShutdown pass matched written : Bool) : Chip :=
  let bad := firstBad c bins
  raiseJob c (if atShutdown then c.start.shutJob else 0) 0 0x9010 [w (b01 atShutdown + b01 pass * 2 + b01 matched * 4 + b01 written * 8), w (bins.count 1 + bins.count 2 * 65536),
    w (bad.1 + bad.2 * 256)]

/-! ## Commands -/

/-- CALIB_RUN (R398 to R401). -/
def execCalibRun (via : Via) (s : State) : Host.Outcome State Fault Refusal :=
  .next (cciCommand 0x41 (fun e c => calBusy c (mf e 0x10 7 0)) calibRunBody via s)
/-- CAL_AUTO_RUN (R398, R401). -/
def execCalAutoRun (domain : Fin 8) (s : State) : Host.Outcome State Fault Refusal := .next (s.runLive (autoRun domain.val))
/-- CAL_RUN_DONE (R399, R400, R402 to R405). -/
def execCalRunDone (domain : Fin 8) (r : CalReport) (s : State) : Host.Outcome State Fault Refusal := .next (s.runLive (runDone domain.val r))
/-- TRIM_EVALUATE (R405, R407). -/
def execTrimEvaluate (halfDegrees : List Int) (s : State) : Host.Outcome State Fault Refusal := .next (s.runLive (trimEvaluate halfDegrees))
/-- CAL_RECORD (R404). -/
def execCalRecord (s : State) : Host.Outcome State Fault Refusal := .next (s.runLive calRecords)

end Sys2Proof.Machine
end

