-- ==== Sys2Proof/Machine/Time.lean ====
section
/-!
DEFINITION. Network time: the PTP messages (R361, R362, R364), the servo and its states (R365, R366, R368), PPS_IN, 10M_IN and
PPS_OUT (R369, R371), `time_set` (R370), TIM_STATUS (R374).
-/

namespace Sys2Proof.Machine

def updTime (c : Chip) (f : Time → Time) : Chip := { c with time := f c.time }
def grandmaster (c : Chip) : Bool := c.cfg.time.grandmaster

/-! ## States (R366, R367) and steps -/

def timeCode : TimeState → Nat
  | .freerun => 0
  | .acquiring => 1
  | .locked => 2
  | .holdover => 3
  | .undisciplined => 4
/-- The port in state SLAVE, 3 for none, and the identity followed through it. -/
def slavePort (c : Chip) : Nat × Nat :=
  match c.time.chosen with
  | some m => if !grandmaster c && (c.time.st = .acquiring || c.time.st = .locked) then (m.ep, m.ident.toNat) else (3, 0)
  | none => (3, 0)
/-- The mean of INCREMENT over the last 60 s in LOCKED (R368): each value weighs by the time for which it was held. -/
def meanIncrement (now low : Int) : List (Int × Nat) → Nat × Nat
  | [] => (0, 0)
  | (since, inc) :: rest =>
    if now ≤ low then (0, 0)
    else
      let d := (now - max since low).toNat
      let r := meanIncrement since low rest
      (r.1 + inc * d, r.2 + d)
/-- A change of state raises TIM_STATE. -/
def setTimeState (c : Chip) (st : TimeState) : Chip :=
  let old := c.time.st
  if old = st then c
  else
    let now : Int := nowNs c
    let mean := meanIncrement now (now - 60 * sec1) c.time.incLog
    let c := updTime c (fun t => { t with
      st := st, within := 0, beyond := 0, beyondStep := 0
      firstOffset := if st = .acquiring then true else t.firstOffset
      incLog := if st = .locked then [(now, t.inc.toNat)] else []
      inc := if st = .holdover && mean.2 ≠ 0 then BitVec.ofNat 48 (mean.1 / mean.2) else t.inc
      ppsLocked := t.ppsLocked || (st = .locked && grandmaster c) })
    let p := slavePort c
    raise c 0x8001 [w (timeCode st + timeCode old * 16 + p.1 * 256), w p.2, w (p.2 / 2 ^ 32)]

/-- A step of T, in units of 1/16 ns: TIM_STEP, and each port acts as R229. The instants that the time unit remembers move
with T, so that the time elapsed since them stands. -/
def stepTime (c : Chip) (k : Int) : Chip :=
  let c := setFine c ((fineTime c : Int) + k * 2 ^ 40).toNat
  let ns := k.tdiv 16
  let c := updTime c (fun t => { t with
    incLog := t.incLog.map (fun x => (x.1 + ns, x.2))
    masters := t.masters.map (fun m => { m with lapses := m.lapses + ns }) })
  rephasePorts (raise c 0x8002 [wi ns, wi (ns / 2 ^ 32), w (w32 c.time.sec.toNat)]) ns

/-! ## The servo (R364, R365) -/

/-- The nominal INCREMENT, and 200 ppm of it. -/
def nominalInc : Nat := 2 * 2 ^ 44
def incRange : Nat := nominalInc / 5000
/-- What a loop of 0.1 Hz bandwidth takes off each tick for an offset in 1/16 ns, in 2⁻⁴⁴ ns: 2π · 0.1 of the offset in a
second of 500,000,000 ticks. -/
def loopTerm (off : Int) : Int := (off * (628319 * 2 ^ 40)).tdiv 500000000000000
/-- The loop's estimate of the frequency moves against the offset, by no more than the loop's term; by how much is open
(log 7). -/
def loopRate (rate off : Int) (free : Nat) : Int :=
  let p := loopTerm off
  let d : Int := (free % (p.natAbs + 1) : Nat)
  clampI (if 0 < off then rate - d else rate + d) (-(incRange : Int)) incRange
/-- R365: the loop sets INCREMENT from the offset, within ±200 ppm (R358). -/
def servo (c : Chip) (off : Int) : Chip :=
  let d := drawFree c
  let rate := loopRate c.time.rate off d.1
  let inc := ((nominalInc : Int) + clampI (rate - loopTerm off) (-(incRange : Int)) incRange).toNat
  let low : Int := (nowNs c : Int) - 60 * sec1
  updTime d.2 (fun t =>
    let young := t.incLog.filter (fun x => low ≤ x.1)
    let before := (t.incLog.find? (fun x => x.1 < low)).toList
    { t with
      rate := rate
      inc := BitVec.ofNat 48 inc
      incLog := if t.st = .locked then ((nowNs c : Int), inc) :: (young ++ before) else t.incLog })
/-- The offset that a measurement found, 1/16 ns, acts on states, and steps or slews. -/
def acceptOffset (c : Chip) (off : Int) : Chip :=
  let limit := c.cfg.time.stepLimitUs * 16000
  let mag := off.natAbs
  let next := fun (n : Nat) (b : Bool) => if b then n + 1 else 0
  let mayStep := !(grandmaster c && c.time.ppsLocked)
  let c := updTime c (fun t => { t with
    within := next t.within (mag ≤ 1600), beyond := next t.beyond (8000 < mag), beyondStep := next t.beyondStep (limit < mag) })
  match c.time.st with
  | .acquiring =>
    let first := c.time.firstOffset
    let c := updTime c (fun t => { t with firstOffset := false })
    if first && limit < mag && mayStep then stepTime c (-off)
    else
      let c := servo c off
      if 16 ≤ c.time.within then setTimeState c .locked else c
  | .locked =>
    if 4 ≤ c.time.beyondStep && mayStep then stepTime (setTimeState c .acquiring) (-off)
    else if 4 ≤ c.time.beyond then setTimeState (servo c off) .acquiring
    else servo c off
  | .holdover | .freerun | .undisciplined => c

/-- The middle of a list, or the mean of its two middle values. -/
def median (l : List Int) : Int :=
  let s := sortBy (fun a b => decide (a < b)) l
  let n := s.length
  if n % 2 = 1 then nth s (n / 2) else (nth s (n / 2 - 1) + nth s (n / 2)).tdiv 2
/-- A measurement is accepted, or discarded when its mean lies too far off (R365). -/
def takeMeasurement (c : Chip) (off mean : Int) : Chip :=
  let t := c.time
  if t.means ≠ [] && 16000 < (mean - median t.means).natAbs then
    let run := t.discardRun + 1
    updTime c (fun t => { t with
      discarded := t.discarded + 1
      discardRun := if run = 16 then 0 else run
      means := if run = 16 then [] else t.means })
  else
    acceptOffset (updTime c (fun t => { t with means := (mean :: t.means).take 16, discardRun := 0, offset := off, mean := mean })) off
/-- `measure` of R364, on the chosen master's port, every value an s64 (R12). -/
def measure (c : Chip) (ep : Nat) (t1 t2raw t3raw t4 cSync cDreq : Int) : Int × Int :=
  let p := c.cfg.time
  let t2 := s64 (t2raw - 16 * p.rxLat.getD ep 0)
  let t3 := s64 (t3raw + 16 * p.txLat.getD ep 0)
  let ms := s64 (s64 (t2 - t1) - cSync)
  let sm := s64 (s64 (t4 - t3) - cDreq)
  (s64 ((s64 (ms - sm)).tdiv 2 - 16 * p.asym.getD ep 0), (s64 (ms + sm)).tdiv 2)

/-! ## Masters (R361, R362) -/

/-- The first place at which two lists differ decides. -/
def listBefore : List Nat → List Nat → Bool
  | a :: x, b :: y => if a = b then listBefore x y else a < b
  | _, _ => false
/-- Order of the best master clock algorithm: between two grandmasters by their fields, on the way to one by stepsRemoved, the
sender and its port, and the controller's port that hears it (log 80). -/
def betterMaster (a b : Master) : Bool :=
  if a.ident = b.ident then
    let key := fun (m : Master) => [m.steps, m.source.toNat, m.sourcePort, m.ep]
    listBefore (key a) (key b)
  else
    let key := fun (m : Master) => [m.priority1, m.clockClass, m.accuracy, m.variance, m.priority2, m.ident.toNat]
    listBefore (key a) (key b)
/-- clockClass that the controller advertises (R362, R370). -/
def ownClass (c : Chip) : Nat :=
  if !grandmaster c then 255
  else if !c.time.setDone then 248
  else if c.cfg.time.ppsInUse && c.time.ppsPresent then 6
  else if c.time.st = .holdover then 7 else 248
/-- The controller's own entry in the comparison; its accuracy and variance are unknown (log 80). -/
def ownMaster (c : Chip) : Master :=
  { ident := c.shadow.deviceId, source := c.shadow.deviceId, priority1 := c.cfg.time.priority1, clockClass := ownClass c,
    accuracy := 0xFE, variance := 0xFFFF, priority2 := c.cfg.time.priority2 }
/-- A grandmaster's port is PASSIVE: another clock heard on it wins. -/
def passive (c : Chip) (ep : Nat) : Bool := c.time.masters.any (fun m => m.ep = ep && betterMaster m (ownMaster c))
def bestMaster (l : List Master) : Option Master :=
  l.foldl (fun m x => match m with
    | none => some x
    | some y => if betterMaster x y then some x else some y) none
/-- Two entries of one sender on one port. -/
def sameMaster (a b : Master) : Bool := a.ep = b.ep && a.source = b.source && a.sourcePort = b.sourcePort
/-- The algorithm runs over what is heard. -/
def chooseMaster (c : Chip) : Chip :=
  if grandmaster c then c
  else
    let old := c.time.chosen
    let new := bestMaster c.time.masters
    let c := updTime c (fun t => { t with chosen := new })
    match new with
    | none => if c.time.st = .locked then setTimeState c .holdover else c
    | some m =>
      let c := updTime c (fun t => { t with utcOffset := m.utcOffset })
      let c := if old.any (fun o => sameMaster o m && o.ident = m.ident) then c
        else raise (updTime c (fun t => { t with t1 := none, syncWaits := false, t3raw := none })) 0x8003
          [w m.ep, w m.ident.toNat, w (m.ident.toNat / 2 ^ 32), w m.clockClass]
      match c.time.st with
      | .freerun | .holdover | .undisciplined => setTimeState c .acquiring
      | .acquiring | .locked => c

/-- The time unit takes part from stage S8 of a start on, and in HALTED (R359). -/
def timeActive (c : Chip) : Bool := c.start.st = .opening || running c || c.start.st = .halted
/-- PTP takes part on the ports that PORTS names. -/
def ptpOn (c : Chip) (ep : Nat) : Bool := timeActive c && c.cfg.time.ports.getLsbD ep && !(nth c.eth ep).isolated
/-- DOMAIN, by the PROFILE where none is given (Table 13-1). -/
def ptpDomain (c : Chip) : Nat := c.cfg.time.domain.getD (if c.cfg.time.profileDefault then 0 else 127)
/-- The groups of R361. -/
def ptpGroup (a : BitVec 128) : Bool := a = 0xFFFFE0000181#128 || a = 0xFF0E0000000000000000000000000181#128
/-- The UDP port of a message: 319 for an event message, 320 for a general one. -/
def ptpPort : PtpBody → U16
  | .sync _ _ | .delayReq => 319
  | .followUp _ | .delayResp _ _ _ | .announce _ _ _ _ _ _ _ _ _ _ | .other => 320
/-- A message that needs only what R361 lists. -/
def ptpSupported (m : PtpMsg) : Bool :=
  m.udp && ptpGroup m.dstAddr && m.dstPort = ptpPort m.body && match m.body with
    | .other => false
    | .announce scale _ _ _ _ _ _ _ _ _ => scale
    | .sync _ _ | .followUp _ | .delayReq | .delayResp _ _ _ => true
/-- The entry that an Announce makes, for the three intervals from now on. -/
def announced (c : Chip) (ep : Nat) (m : PtpMsg) : Option Master := match m.body with
  | .announce _ p1 cls acc var p2 gm steps utc interval => some
    { ep := ep, source := m.source, sourcePort := m.sourcePort.toNat, priority1 := p1.toNat, clockClass := cls.toNat,
      accuracy := acc.toNat, variance := var.toNat, priority2 := p2.toNat, ident := gm, steps := steps.toNat,
      utcOffset := utc.toNat, lapses := nowNs c + 3 * interval }
  | .sync _ _ | .followUp _ | .delayReq | .delayResp _ _ _ | .other => none
/-- What is heard of a sender on a port is forgotten. -/
def forget (ep : Nat) (m : PtpMsg) (l : List Master) : List Master :=
  l.filter (fun x => !(x.ep = ep && x.source = m.source && x.sourcePort = m.sourcePort.toNat))
/-- A message of the chosen master, heard on its port. -/
def fromChosen (c : Chip) (ep : Nat) (m : PtpMsg) : Bool := match c.time.chosen with
  | some x => !grandmaster c && x.ep = ep && x.source = m.source && x.sourcePort = m.sourcePort.toNat
  | none => false
/-- The controller's own port identity: DEVICE_ID and the number of the Ethernet port, counted from 1 (log 80). -/
def ownPort (c : Chip) (ep : Nat) : U64 × U16 := (c.shadow.deviceId, BitVec.ofNat 16 (ep + 1))
def sendPtp (c : Chip) (ep : Nat) (x : PtpSent) : Chip := { c with out := { c.out with ptp := (ep, x) :: c.out.ptp } }
/-- What a supported message of the controller's domain does. -/
def ptpTaken (ep : Nat) (m : PtpMsg) (c : Chip) : Chip :=
  match m.body with
  | .announce _ _ _ _ _ _ _ _ _ _ =>
    chooseMaster (updTime c (fun t => { t with masters := (announced c ep m).toList ++ forget ep m t.masters }))
  | .sync twoStep t1 =>
    if !fromChosen c ep m then c
    else
      let s := stampNow c ep
      updTime s.2 (fun t => { t with
        t1 := if twoStep then none else some t1, syncWaits := twoStep, syncSeq := m.seq, t2raw := s.1, cSync := m.corr })
  | .followUp t1 =>
    if !fromChosen c ep m || !c.time.syncWaits || m.seq ≠ c.time.syncSeq then c
    else updTime c (fun t => { t with t1 := some t1, syncWaits := false, cSync := t.cSync + m.corr })
  | .delayResp t4 id port =>
    if !fromChosen c ep m || (id, port) ≠ ownPort c ep || m.seq ≠ c.time.delaySeq then c
    else
      match c.time.t1, c.time.t3raw with
      | some t1, some t3 =>
        let x := measure c ep t1 c.time.t2raw t3 t4 c.time.cSync m.corr
        takeMeasurement (updTime c (fun t => { t with t3raw := none })) x.1 x.2
      | _, _ => c
  | .delayReq =>
    if !grandmaster c || passive c ep then c
    else
      let s := stampNow c ep
      sendPtp s.2 ep (.delayResp m.seq s.1 m.corr m.source m.sourcePort)
  | .other => c
/-- PTP_MESSAGE: a message on another VLAN than the port's is none of PTP; one that needs what is not supported is discarded
and counted, and an Announce so discarded takes its sender out of the comparison; one of another domain is discarded. -/
def ptpMessage (ep : Nat) (m : PtpMsg) (c : Chip) : Chip :=
  if !ptpOn c ep || m.vlan.toNat ≠ c.cfg.mgmtVlan then c
  else
    let c := advanceFine c m.crossing
    if !ptpSupported m then
      let c := updTime c (fun t => { t with unsupported := w32 (t.unsupported + 1) })
      if m.udp && m.domain.toNat = ptpDomain c && (announced c ep m).isSome then
        chooseMaster (updTime c (fun t => { t with masters := forget ep m t.masters }))
      else c
    else if m.domain.toNat ≠ ptpDomain c || m.source = c.shadow.deviceId then c
    else ptpTaken ep m c

/-- ANNOUNCE_TIMEOUT: three intervals have passed for the chosen master, or, in grandmaster role, for the clock that lapses
first; with it go all that have lapsed by then, and the algorithm runs over what remains. -/
def announceTimeout (c : Chip) : Chip :=
  let first := if grandmaster c then
      c.time.masters.foldl (fun o m => match o with
        | none => some m
        | some x => if m.lapses < x.lapses then some m else some x) none
    else c.time.masters.find? (fun m => c.time.chosen.any (sameMaster m))
  match first with
  | none => chooseMaster c
  | some m =>
    let c := advanceTo c m.lapses.toNat
    chooseMaster (updTime c (fun t => { t with
      masters := t.masters.filter (fun x => !(sameMaster x m || x.lapses ≤ nowNs c)) }))
/-- SYNC_SEND: Sync, its Follow_Up with the time-stamp of its sending, and Announce. -/
def syncSend (ep : Nat) (c : Chip) : Chip :=
  if !ptpOn c ep || !grandmaster c || passive c ep then c
  else
    let s := stampNow c ep
    let n := c.time.sendSeq + 1
    let o := ownMaster c
    let c := updTime s.2 (fun t => { t with sendSeq := n })
    let c := sendPtp (sendPtp c ep (.sync n)) ep (.followUp n s.1)
    sendPtp c ep (.announce n o.priority1 o.clockClass o.accuracy o.variance o.priority2)
/-- DELAY_REQ_SEND. -/
def delayReqSend (crossing : Nat) (c : Chip) : Chip :=
  match c.time.chosen with
  | none => c
  | some m =>
    if !ptpOn c m.ep || grandmaster c then c
    else
      let s := stampNow (advanceFine c crossing) m.ep
      let n := c.time.delaySeq + 1
      sendPtp (updTime s.2 (fun t => { t with t3raw := some s.1, delaySeq := n })) m.ep (.delayReq n)

/-! ## PPS_IN, 10M_IN, PPS_OUT and `time_set` (R369 to R371) -/

/-- The offset of T from the nearest whole second, in ns. -/
def secondOffset (c : Chip) : Int :=
  let n := c.time.ns.toNat
  if n < 500000000 then n else (n : Int) - 1000000000
/-- SECONDS of a `time_set` apply: `took` is what the counter would have taken. -/
def applySeconds (c : Chip) (took : Nat) : Chip :=
  match c.time.setPending with
  | none => c
  | some (s, _) =>
    let c := updTime c (fun t => { t with setPending := none })
    if s = took then c else stepTime c (((s : Int) - took) * 16000000000)
/-- The first edge sets the nanoseconds (R369): T steps to its nearest whole second, whatever STEP_LIMIT is (log 80), and the
edge is then taken as lying at offset 0. -/
def setNanoseconds (c : Chip) (off : Int) : Chip :=
  let c := updTime c (fun t => { t with ppsSet := true, firstOffset := false })
  let c := if off = 0 then c else stepTime c (-16 * off)
  acceptOffset (updTime c (fun t => { t with frac := 0 })) 0
/-- PPS_IN_EDGE: an edge counts when it follows the one before it by a second. -/
def ppsEdge (c : Chip) : Chip :=
  if !c.cfg.time.ppsInUse || !c.time.runs then c
  else
    let now := nowNs c
    let counts := match c.time.ppsLast with
      | some t => decide (999900000 ≤ now - t ∧ now - t ≤ 1000100000)
      | none => false
    let c := updTime c (fun t => { t with ppsLast := some now })
    if !counts then c
    else
      let off := secondOffset c
      let c := updTime c (fun t => { t with ppsPresent := true, ppsDiff := some off })
      if !grandmaster c then c
      else
        let c := match c.time.st with
          | .freerun | .holdover | .undisciplined => setTimeState c .acquiring
          | .acquiring | .locked => c
        let c := updTime c (fun t => { t with offset := 16 * off })
        let c := if c.time.ppsSet then acceptOffset c (16 * off) else setNanoseconds c off
        let took := if secondOffset c < 0 then c.time.sec.toNat + 1 else c.time.sec.toNat
        let c := applySeconds c took
        -- a step may have moved T: the next edge is measured from where T stands now
        updTime c (fun t => { t with ppsLast := some (nowNs c) })
/-- PPS_IN_LOST. -/
def ppsLost (c : Chip) : Chip :=
  if !c.cfg.time.ppsInUse then c
  else
    let c := updTime c (fun t => { t with ppsPresent := false, ppsLast := none, ppsDiff := none })
    if grandmaster c && c.time.st = .locked then setTimeState c .holdover else c
/-- The PLL changes its source. -/
def refChanged (on : Bool) (c : Chip) : Chip :=
  if !c.cfg.time.ref10m || c.time.ref10m = on || !c.time.runs then c
  else raise (updTime c (fun t => { t with ref10m := on })) 0x8004 [w (b01 on + 2 * b01 c.time.ppsPresent)]
/-- WHOLE_SECOND: the counter reaches the next whole second, or has reached one in its last tick. A `time_set` taken since
that second began waits for the next. -/
def wholeSecond (c : Chip) : Chip :=
  if !c.time.runs then c
  else
    let here := c.time.ns.toNat ≤ 2 && c.time.secondDone ≠ some c.time.sec.toNat
    let after := !here || c.time.setPending.any (fun p => p.2 ≠ c.time.sec.toNat)
    let c := if here then c else advanceTo c ((c.time.sec.toNat + 1) * 1000000000)
    let c := if c.cfg.time.ppsInUse || !after then c else applySeconds c c.time.sec.toNat
    let c := updTime c (fun t => { t with secondDone := some t.sec.toNat })
    if c.time.ppsOutOn && c.cfg.time.ppsOutMode = 1 then updTime c (fun t => { t with ppsOut := true }) else c
def pulseEnd (c : Chip) : Chip := updTime c (fun t => { t with ppsOut := false })
def holdoverOver (c : Chip) : Chip := if c.time.st = .holdover then setTimeState c .undisciplined else c

/-- `time_set` (R370). -/
def timeSetBody : Body := fun e c =>
  if !grandmaster c then reject c stUNAVAILABLE
  else
    let s := mw e 0x10 + mf e 0x14 15 0 * 2 ^ 32
    (updTime c (fun t => { t with setPending := some (s, t.sec.toNat), setDone := true }), ok [w s])

/-- TIM_STATUS. -/
def timStatus (c : Chip) : Chip :=
  if !timeActive c then c
  else
    let t := c.time
    let p := slavePort c
    let dev := (((t.inc.toNat : Int) - nominalInc) * 1000000000).tdiv nominalInc
    let c := raise c 0x8005 [w (timeCode t.st + p.1 * 256), wi (clampI t.offset (-2147483648) 2147483647), wi (t.mean.tdiv 16), wi dev,
      (match t.ppsDiff with | some d => wi d | none => 0x80000000#32), w t.utcOffset, w t.discarded]
    updTime c (fun t => { t with discarded := 0 })

/-! ## Commands -/

/-- PTP_MESSAGE (R361 to R366). -/
def execPtpMessage (ep : Fin 2) (m : PtpMsg) (s : State) : Host.Outcome State Fault Refusal := .next (s.run (ptpMessage ep.val m))
/-- ANNOUNCE_TIMEOUT (R362). -/
def execAnnounceTimeout (s : State) : Host.Outcome State Fault Refusal := .next (s.run announceTimeout)
/-- SYNC_SEND (R362). -/
def execSyncSend (ep : Fin 2) (s : State) : Host.Outcome State Fault Refusal := .next (s.run (syncSend ep.val))
/-- DELAY_REQ_SEND (R364). -/
def execDelayReqSend (crossing : Nat) (s : State) : Host.Outcome State Fault Refusal := .next (s.run (delayReqSend crossing))
/-- PPS_IN_EDGE (R369, R370). -/
def execPpsInEdge (s : State) : Host.Outcome State Fault Refusal := .next (s.run ppsEdge)
/-- PPS_IN_LOST (R366). -/
def execPpsInLost (s : State) : Host.Outcome State Fault Refusal := .next (s.run ppsLost)
/-- REF_10M_LOST (R369). -/
def execRef10mLost (s : State) : Host.Outcome State Fault Refusal := .next (s.run (refChanged false))
/-- REF_10M_RESTORED (R369). -/
def execRef10mRestored (s : State) : Host.Outcome State Fault Refusal := .next (s.run (refChanged true))
/-- WHOLE_SECOND (R370, R371). -/
def execWholeSecond (s : State) : Host.Outcome State Fault Refusal := .next (s.run wholeSecond)
/-- PPS_OUT_PULSE_END (R371). -/
def execPpsOutPulseEnd (s : State) : Host.Outcome State Fault Refusal := .next (s.run pulseEnd)
/-- HOLDOVER_LIMIT (R366). -/
def execHoldoverLimit (s : State) : Host.Outcome State Fault Refusal := .next (s.run holdoverOver)
/-- TIM_STATUS (R374). -/
def execTimStatus (s : State) : Host.Outcome State Fault Refusal := .next (s.run timStatus)
/-- TIME_SET (R370). -/
def execTimeSet (via : Via) (s : State) : Host.Outcome State Fault Refusal := .next (cciCommand 0x64 neverBusy timeSetBody via s)

end Sys2Proof.Machine
end

