-- ==== Sys2Proof/Machine/Perf.lean ====
section
/-!
DEFINITION. Performance counters (R413 to R423): `perf_config`, the central reader, snapshots; and the thermal agent (R455).
-/

namespace Sys2Proof.Machine

def updPerf (c : Chip) (f : Perf → Perf) : Chip := { c with perf := f c.perf }

/-! ## Units, events and entries (R413, R414, R418) -/

/-- Slot index and number of units of a UNIT_CLASS, and the units that the ordering code has. -/
def counterClass (c : Chip) (cls : Nat) : Option (Nat × Nat × Nat) :=
  match cls with
  | 1 => some (0, 64, 64)
  | 2 => some (64, 16, 16)
  | 3 => some (80, 16, mcCount c)
  | 4 => some (108, 8, 8)
  | 5 => some (116, 2, 2)
  | 16 => some (96, 12, quadCount c)
  | _ => none
/-- Highest event of a class; the classes of Table 16-2 by UNIT_CLASS. -/
def classEvents (cls : Nat) : Nat × Nat :=
  match cls with
  | 1 => (0x0101, 0x0108)
  | 2 => (0x0201, 0x0205)
  | 3 => (0x0301, 0x030B)
  | 4 => (0x0501, 0x0505)
  | 5 => (0x0601, 0x0604)
  | _ => (0x0401, 0x0407)
/-- A counter may be programmed with the event. -/
def eventOk (cls idx event : Nat) : Bool :=
  let r := classEvents cls
  (event ≤ 2 && !(event = 1 && idx = 0)) || (r.1 ≤ event && event ≤ r.2)
/-- A unit that the ordering code lacks. -/
def slotAbsent (c : Chip) (slot : Nat) : Bool :=
  (80 + mcCount c ≤ slot && slot < 96) || (96 + quadCount c ≤ slot && slot < 108)

/-- Events of cycles and of traffic that the model does not carry: how many there were is free (log 7). -/
def freeEvents : List Nat :=
  [0x0002, 0x0105, 0x0106, 0x0107, 0x0201, 0x0202, 0x0301, 0x0302, 0x0303, 0x0304, 0x0305, 0x030B, 0x0402, 0x0505, 0x0604]
/-- The free events of a unit since its counters were last looked at; each counts as any other event does (R417). -/
def drawEvents (c : Chip) (slot : Nat) : Chip :=
  if slotIsolated c slot || slotAbsent c slot then c
  else freeEvents.foldl (fun c e =>
    if (List.range 8).any (fun i => (counter c slot i).event = e) then
      let a := drawFree c
      count a.2 slot e a.1
    else c) c
def slots : List Nat := List.range 118
/-- Latch every counter. -/
def latchAll (c : Chip) : Chip × List Counter :=
  let c := slots.foldl drawEvents c
  (c, slots.flatMap (fun s => (List.range 8).map (fun i => { counter c s i with isolated := slotIsolated c s })))
/-- An entry of Table 16-5. -/
def entryWord (c : Chip) (x : Counter) : Nat :=
  if slotAbsent c x.slot then 2 ^ 50 else x.count.toNat + b01 x.wrapped * 2 ^ 48 + b01 x.isolated * 2 ^ 49
/-- A window area of Table 16-3: its header and its slots, 7,616 bytes. -/
def windowBytes (c : Chip) (magic : Nat) (x : CounterWindow) : List Byte :=
  leBytes magic 4 ++ leBytes x.seq 4 ++ leBytes x.timeNs 4 ++ leBytes x.timeS 4 ++ leBytes (b01 x.complete + 2 * b01 x.source) 4 ++
    leBytes 118 4 ++ List.replicate 40 0#8 ++
    (List.range 944).flatMap (fun k => leBytes (entryWord c (x.entries.getD k { slot := k / 8, idx := k % 8 })) 8)

/-! ## `perf_config` (R416, R422) -/

/-- `perf_config`. -/
def perfConfigBody : Body := fun e c =>
  let cls := mf e 0x10 7 0
  let unit := mf e 0x10 15 8
  let idx := mf e 0x10 18 16
  let event := mf e 0x14 15 0
  let grant := bit e 0x18 0
  if cls = 0xFF then
    if unit ≠ 0 then reject c stINVALID_FIELD
    else if grant = c.perf.userGrant then (c, ok [])
    else (raise (updPerf c (fun p => { p with userGrant := grant })) 0xA003 [w (b01 grant)], ok [])
  else
    match counterClass c cls with
    | none => reject c stINVALID_FIELD
    | some (first, units, present) =>
      if units ≤ unit || !eventOk cls idx event then reject c stINVALID_FIELD
      else if present ≤ unit then reject c stUNKNOWN_RESOURCE
      else (updPerf c (fun p => { p with pending := p.pending ++ [(first + unit, idx, event, (nowNs c / 1000 + 1) * 1000)] }), ok [])
/-! ## The reader and snapshots (R419 to R421, R440) -/

/-- READER_PASS. -/
def readerPass (c : Chip) : Chip :=
  if !running c then c
  else
    let r := latchAll c
    updPerf r.1 (fun p => { p with live :=
      { seq := w32 (p.live.seq + 1), timeNs := c.time.ns.toNat, timeS := w32 c.time.sec.toNat, complete := true, entries := r.2 } })

/-- Request a snapshot: the SNAPSHOT_ID that the request joins. -/
def requestSnapshot (c : Chip) (register : Bool) : Nat × Chip :=
  let id := w32 (c.perf.lastId + 1)
  let at_ := roundUp (nowNs c + 5000 + b01 (c.time.frac ≠ 0)) 1000
  let new : SnapRequest := { id := id, register := register, atNs := at_ }
  match c.perf.request, c.perf.next with
  | none, _ => (id, updPerf c (fun p => { p with request := some new, lastId := id }))
  | some r, none =>
    if !r.latched then (r.id, c) else (id, updPerf c (fun p => { p with next := some new, lastId := id }))
  | some r, some n => if !r.latched then (r.id, c) else (n.id, c)
/-- SNAPSHOT_LATCH: T_s comes, and every unit latches. -/
def snapshotLatch (c : Chip) : Chip :=
  match c.perf.request with
  | none => c
  | some r =>
    if r.latched then c
    else
      let c := advanceTo c r.atNs
      let l := latchAll c
      updPerf l.1 (fun p => { p with
        latched := l.2, request := some { r with latched := true }, snap := { p.snap with complete := false } })
/-- When programming takes effect: at its instant, and at once where a step of T has put that more than 1 µs ahead. -/
def programTime (c : Chip) (x : Nat × Nat × Nat × Nat) : Nat := if x.2.2.2 ≤ nowNs c + 1000 then x.2.2.2 else nowNs c
/-- PERF_CONFIG_APPLY: the programming whose whole microsecond has come takes effect, and the counters are 0; a snapshot of that
instant latches first (R416). -/
def configApply (c : Chip) : Chip :=
  if c.perf.pending = [] then c
  else
    let at_ := minOf (c.perf.pending.map (programTime c))
    let c := if c.perf.request.any (fun r => r.atNs ≤ max at_ (nowNs c)) then snapshotLatch c else c
    let c := advanceTo c at_
    let due := fun (x : Nat × Nat × Nat × Nat) => decide (programTime c x ≤ nowNs c)
    let c := (c.perf.pending.filter due).foldl (fun c x => setCounter c { slot := x.1, idx := x.2.1, event := x.2.2.1 }) c
    updPerf c (fun p => { p with pending := p.pending.filter (fun x => !due x) })
/-- PRF_SNAPSHOT_DONE: the reader has written the area; a request that waits is given the next instant. -/
def snapshotDone (c : Chip) : Chip :=
  match c.perf.request with
  | none => c
  | some r =>
    if !r.latched then c
    else
      let ns := r.atNs % 1000000000
      let s := w32 (r.atNs / 1000000000)
      let c := updPerf c (fun p => { p with
        snap := { seq := r.id, timeNs := ns, timeS := s, complete := true, source := r.register, entries := p.latched }
        request := p.next.map (fun n => { n with atNs := max n.atNs ((nowNs c / 1000 + 1) * 1000) })
        next := none, latched := [] })
      raise c 0xA001 [w r.id, w ns, w s, w (b01 r.register)]

/-- Bytes of the snapshot header and its 118 slots. -/
def snapBytes : Nat := 7616
/-- `perf_snapshot`: the response waits for the snapshot. -/
def perfSnapshotBody : Body := fun e c =>
  let b := bufAt e 0x10
  if !bufKindOk e b then reject c stINVALID_FIELD
  else
    match bufFault c (sid e) true b with
    | some st => reject c st
    | none =>
      if b.len < snapBytes then (c, { status := stBUFFER_SHORT, result := [w snapBytes] })
      else
        let r := requestSnapshot c false
        (updPerf r.2 (fun p => { p with wanted := r.1 }), { status := stOK, held := some 0 })
/-- The copy and the response of a `perf_snapshot` in hand whose snapshot is complete; where a later one has taken its place in the
area while no pair served, that is copied and named (DESIGN CHOICE, log 103). -/
def answerSnapshot (s : State) : State :=
  match s.chip.cci.held with
  | none => s
  | some h =>
    let x := s.chip.perf.snap
    if h.job ≠ 0 || !smServes s.chip || !x.complete || seqDiff x.seq s.chip.perf.wanted < 0 then s
    else
      let e : Env := { msg := h.msg, via := h.via, peer := h.peer, slot := h.slot }
      let r := giveData s.chip (bufAt e 0x10) (windowBytes s.chip 0x50524653 x) [w x.seq, w x.timeNs, w x.timeS]
      respondHeld { s with chip := r.1 } 0 r.2

/-! ## The thermal agent (R455) -/

/-- A region enters or leaves the clock limit. -/
def regionHeat (temps : List Int) (c : Chip) (u : Nat) : Chip :=
  match temps[u]? with
  | none => c
  | some t =>
    let r := region c u
    if !r.inService then c
    else
      let c := updRegion c u (fun r => { r with above := decide (220 < t) })
      let enter := decide (220 < t) && !r.limited
      let leave := decide (t ≤ 210) && r.limited
      if !enter && !leave then c
      else raiseEvery (updRegion c u (fun r => { r with limited := enter })) 0 0xB020 u sec1 [w (u + b01 enter * 256), wi t, w r.mhz]
/-- The thermal trip: the rails are lowered, and FAULT_N goes low. -/
def thermalTrip (c : Chip) (sensor : Nat) (t : Int) : Chip :=
  let c := raise (updPower c (fun p => { p with tripped := true })) 0xB021 [w sensor, wi t]
  let p := c.power
  let c := match p.run with
    | .up =>
      updPower (endJob c p.job .failed stINFEASIBLE 0 [w (p.step + 6 * 256)])
        (fun x => { x with job := p.downWaits.getD 0, downWaits := none, startNs := nowNs c })
    | .idle | .down => c
  if p.run = .idle && !p.railsUp && p.en = 0 then c else dropRails c
/-- Samples at or above 120.0 °C in a row, by sensor: ten of them are 1 ms. -/
def hotRuns (c : Chip) (temps : List Int) : List (Nat × Nat) :=
  (List.range 51).filterMap (fun s =>
    if sensorPresent c s && decide (240 ≤ temps.getD s (-1000)) then some (s, look c.thermal.hot s 0 + 1) else none)
/-- THERMAL_SAMPLE: during a run of THERMAL the sensors report their last values (R399). -/
def thermalSample (readings : List Int) (c : Chip) : Chip :=
  if !running c then c
  else
    let temps := if (calDomain c 5).running then c.thermal.last else readings
    let present := (List.range 51).filter (fun s => sensorPresent c s && decide (s < temps.length))
    let hot := hotRuns c temps
    let most := (present.map (fun s => temps.getD s 0)).foldl max c.start.tjMax
    let c := { c with thermal := { hot := hot, last := temps }, start := { c.start with tjMax := most } }
    let c := (List.range 16).foldl (regionHeat temps) c
    if c.power.tripped then
      if present.length = (sensors c).length && present.all (fun s => decide (temps.getD s 0 ≤ 210)) then
        updPower c (fun p => { p with tripped := false })
      else c
    else
      match hot.find? (fun x => 10 ≤ x.2) with
      | some x => thermalTrip c x.1 (temps.getD x.1 0)
      | none => c
/-- ISLAND_CLOCK_STEP. -/
def clockStep (u : Nat) (c : Chip) : Chip :=
  let r := region c u
  if !running c || !r.inService then c
  else
    let mhz := if r.above then max 1400 (r.mhz - 100) else if r.limited then r.mhz else min c.cfg.regionMHz (r.mhz + 100)
    if mhz = r.mhz then c else schedule (project false (updRegion c u (fun r => { r with mhz := mhz })))

/-! ## Commands -/

/-- PERF_CONFIG (R413, R414, R416, R422). -/
def execPerfConfig (via : Via) (s : State) : Host.Outcome State Fault Refusal := .next (cciCommand 0x50 neverBusy perfConfigBody via s)
/-- PERF_SNAPSHOT (R420, R421). -/
def execPerfSnapshot (via : Via) (s : State) : Host.Outcome State Fault Refusal := .next (cciCommand 0x51 neverBusy perfSnapshotBody via s)
/-- PERF_CONFIG_APPLY (R416). -/
def execPerfConfigApply (s : State) : Host.Outcome State Fault Refusal := .next (s.runLive configApply)
/-- READER_PASS (R419). -/
def execReaderPass (s : State) : Host.Outcome State Fault Refusal := .next (answerSnapshot (s.runLive readerPass))
/-- SNAPSHOT_LATCH (R420). -/
def execSnapshotLatch (s : State) : Host.Outcome State Fault Refusal := .next (s.runLive snapshotLatch)
/-- PRF_SNAPSHOT_DONE (R421, R71): the response to a `perf_snapshot` precedes the event. -/
def execPrfSnapshotDone (s : State) : Host.Outcome State Fault Refusal :=
  .next ((answerSnapshot { s with chip := snapshotDone s.chip }).run id)
/-- ISLAND_CLOCK_STEP (R455). -/
def execIslandClockStep (region : Fin 16) (s : State) : Host.Outcome State Fault Refusal := .next (s.runLive (clockStep region.val))

end Sys2Proof.Machine
end

