-- ==== Sys2Proof/Machine/Tables.lean ====
section
/-!
DEFINITION. `table_load`: panel description, direction offsets, colour table (R162 to R166), coefficient sets (R202), map and
seed pieces and drive parameters (R299 to R301), temperature calibration sets (R406).
-/

namespace Sys2Proof.Machine

/-! ## What the tables hold -/

/-- Signed half word at an offset. -/
def s16At (b : List Byte) (off : Nat) : Int := signed 16 (le16 b off)
/-- A panel description (Tables 6-1 and 6-2), where it passes R165. -/
def parsePanel (c : Chip) (b : List Byte) : Option Panel :=
  let wd := le16 b 8
  let ht := le16 b 10
  let n := byteOf b 12
  let cols := byteOf b 13
  let rows := byteOf b 14
  let pitch := le32 b 0x10
  let x0 := signed 32 (le32 b 0x14)
  let y0 := signed 32 (le32 b 0x18)
  if b.length ≠ 64 + 8 * n || le32 b 0 ≠ 0x50445343 || le16 b 4 ≠ 1 || le32 b 0x3C ≠ crcZeroed b 0x3C || wd = 0 || maxColumns c < wd ||
     ht = 0 || maxRows < ht || n = 0 || 128 < n || 128 < cols || 128 < rows || cols * rows ≠ n || pitch < 100000 || 4000000 < pitch ||
     x0 < -32768 || 32767 - (wd : Int) < x0 || y0 < -32768 || 32767 - (ht : Int) < y0 then none
  else some { w := wd, h := ht, dirs := n, cols := cols, rows := rows, pitch := pitch, x0 := x0, y0 := y0
              tx := (List.range n).map (fun d => s16At b (0x40 + 8 * d)), ty := (List.range n).map (fun d => s16At b (0x42 + 8 * d)) }
/-- A direction offset table (Table 6-3) that matches the panel description. -/
def parseOffsets (pd : Option Panel) (b : List Byte) : Option (List (Int × Int)) :=
  match pd with
  | none => none
  | some pd =>
    if b.length ≠ 16 + 2 * pd.w * pd.h || le32 b 0 ≠ 0x444F4646 || le16 b 4 ≠ pd.w || le16 b 6 ≠ pd.h || le32 b 0xC ≠ crcZeroed b 0xC then none
    else some ((List.range (pd.w * pd.h)).map (fun k => (signed 8 (byteOf b (16 + 2 * k)), signed 8 (byteOf b (17 + 2 * k)))))
/-- A colour table (Table 6-4). -/
def parseColour (b : List Byte) : Option Colour :=
  if b.length ≠ 8224 || le32 b 0 ≠ 0x434F4C52 || le16 b 4 ≠ 1 || le32 b 0x1C ≠ crcZeroed b 0x1C then none
  else some { m := (List.range 9).map (fun k => s16At b (8 + 2 * k)), lut := (List.range 4096).map (fun k => le16 b (0x20 + 2 * k)) }
/-- A coefficient set (Table 7-3): TAPS and C. -/
def parseCoefs (b : List Byte) : Option (Nat × List Int) :=
  let taps := byteOf b 6 % 16
  let l := (List.range 512).map (fun k => s16At b (16 + 2 * k))
  if b.length ≠ 1040 || le32 b 0 ≠ 0x53434F46 || le16 b 4 ≠ 1 || le32 b 0xC ≠ crcZeroed b 0xC || !(taps = 8 || taps = 6) ||
     l.any (fun x => x < -2048 || 2047 < x) || (taps = 6 && (List.range 64).any (fun p => nth l (8 * p + 6) ≠ 0 || nth l (8 * p + 7) ≠ 0)) then none
  else some (taps, l)
/-- A temperature calibration set (Table 15-4): TEMP and its entries. -/
def parseCalSet (b : List Byte) : Option (Int × List (Nat × Int)) :=
  let n := le16 b 6
  let t := s16At b 8
  if b.length ≠ 16 + 4 * n || le32 b 0 ≠ 0x54433732 || le16 b 4 ≠ 2 || 64 < n || le32 b 0xC ≠ crcZeroed b 0xC || t < -80 || 250 < t then none
  else some (t, (List.range n).map (fun e => (le16 b (16 + 4 * e), s16At b (18 + 4 * e))))

/-! ## Taking effect (R166, R180, R304) -/

/-- A table is the newest of its KIND, or of its set. -/
def setTables (c : Chip) (kind gen : Nat) (t : Tables) : Chip :=
  { c with tables := { t with gens := (List.range 19).map (fun k => if k = kind then gen else nth t.gens k) } }
/-- The layer uses a coefficient set, by a definition in force or the newest. -/
def usesSet (l : Layer) (i : Nat) : List LayerDef :=
  (l.defn.toList ++ (newestDef l).toList).filter (fun d => d.coefH = i || d.coefV = i)
/-- TAPS differs from what a defined layer requires of the set. -/
def tapsConflict (c : Chip) (i taps : Nat) : Bool :=
  c.layers.any (fun l => (usesSet l i).any (fun d => (d.coefH = i && taps ≠ 8) || (d.coefV = i && taps ≠ 6)))

/-- A timetable in force under a new panel description (R221): none where it would fail a check. Buffers of another
ROW_STRIDE are reserved beside the old, which the frames of the old description keep (log 36). -/
def refitPort (p : Nat) (o : Option Chip) : Option Chip := o.bind (fun c =>
  let x := port c p
  match x.tt with
  | none => some c
  | some t =>
    if (c.tables.panel.getD {}).h < t.firstRow + t.rowCount || !feasible c p t then none
    else
      let spare := findArea c 1 (p + 8)
      let c := if otherStride x t then c else releaseArea c 1 (p + 8)
      let c1 := if strideOf c t = x.bufStride then (if otherStride x t then none else some c)
        else if otherStride x t then (if x.tables.panel.map (fun pd => rowStride pd t.ratio2) = some (strideOf c t) && spare.isSome then some c else none)
        else reserveBuffers c (p + 8) t
      match c1, x.pendingTt with
      | some c, some (some t2, _, _) =>
        if (findArea c 1 (p + 4)).isSome then reserveBuffers (releaseArea c 1 (p + 4)) (p + 4) t2 else some c
      | r, _ => r)
def refitPorts (c : Chip) : Option Chip := (List.range 4).foldl (fun o p => refitPort p o) (some c)

def loadPanel (c : Chip) (gen : Nat) (b : List Byte) : Chip × Nat :=
  match parsePanel c b with
  | none => (c, stINVALID_FIELD)
  | some pd =>
    let old := c
    let same := match c.tables.panel with
      | some o => o.w = pd.w && o.h = pd.h && o.dirs = pd.dirs
      | none => false
    let c := setTables c 0 gen { c.tables with panel := some pd, offsets := if same then c.tables.offsets else [] }
    match refitPorts c with
    | none => (old, stINFEASIBLE)
    | some c => (lookForCopy c pd, stOK)
def loadOffsets (c : Chip) (gen : Nat) (b : List Byte) : Chip × Nat :=
  match parseOffsets c.tables.panel b with
  | none => (c, stINVALID_FIELD)
  | some l => (setTables c 1 gen { c.tables with offsets := l }, stOK)
def loadColour (c : Chip) (gen : Nat) (b : List Byte) : Chip × Nat :=
  match parseColour b with
  | none => (c, stINVALID_FIELD)
  | some t => (setTables c 2 gen { c.tables with colour := some t }, stOK)
def loadCoefs (c : Chip) (gen i : Nat) (b : List Byte) : Chip × Nat :=
  match parseCoefs b with
  | none => (c, stINVALID_FIELD)
  | some x =>
    if tapsConflict c i x.1 then (c, stIN_USE)
    else (setTables c (3 + i) gen { c.tables with coefs := (i, x) :: c.tables.coefs.filter (fun y => y.1 ≠ i) }, stOK)
/-- A set for one ordering code: items of Table 15-2 that the part has; the others are ignored and counted. -/
def loadCalSet (c : Chip) (i : Nat) (b : List Byte) : Chip × Nat :=
  match parseCalSet b with
  | none => (c, stINVALID_FIELD)
  | some (t, entries) =>
    if c.cal.sets.any (fun x => x.1 ≠ i && x.2.1 = t) then (c, stINVALID_FIELD)
    else
      let items := trimItems c
      let known := entries.filter (fun x => items.contains x.1)
      let others := c.cal.sets.filter (fun x => x.1 ≠ i)
      let c := { c with cal := { c.cal with sets := if entries = [] then others else others ++ [(i, t, known)] } }
      (raise c 0x9004 [w (i + b01 (entries = []) * 256 + (BitVec.ofInt 16 t).toNat * 65536),
        w (known.length + (entries.length - known.length) * 256)], stOK)

/-- The INDEX values of a KIND. -/
def indexOk (kind i : Nat) : Bool :=
  match kind with
  | 0 | 1 | 2 | 5 => i = 0
  | 3 => i ≤ 15
  | 4 => i ≤ 1
  | 6 => i ≤ 7
  | _ => false
/-- Take a table of a KIND. -/
def takeTable (c : Chip) (kind i gen : Nat) (b : List Byte) : Chip × Nat :=
  match kind with
  | 0 => loadPanel c gen b
  | 1 => loadOffsets c gen b
  | 2 => loadColour c gen b
  | 3 => loadCoefs c gen i b
  | 4 => if i = 0 then loadMap c b else loadParams c b
  | 5 => loadSeed c b
  | _ => loadCalSet c i b

/-- `table_load`. -/
def tableLoadBody : Body := fun e c =>
  let kind := mf e 0x10 7 0
  let i := mf e 0x10 15 8
  let b := bufAt e 0x14
  if 6 < kind || !indexOk kind i || !bufKindOk e b then reject c stINVALID_FIELD
  else
    match bufFault c (sid e) false b with
    | some st => reject c st
    | none =>
      let r := bufRead c e.inline b 0 b.len
      match r.2 with
      | none => reject r.1 stTRANSFER_FAULT
      | some d =>
        let gen := w32 (c.tableGen + 1)
        let x := takeTable r.1 kind i gen d
        if x.2 ≠ stOK then reject r.1 x.2 else (schedule { x.1 with tableGen := gen }, ok [w gen])

/-- TABLE_LOAD (R162 to R166, R202, R299 to R301, R406). -/
def execTableLoad (via : Via) (s : State) : Host.Outcome State Fault Refusal := .next (cciCommand 0x16 neverBusy tableLoadBody via s)

end Sys2Proof.Machine
end

