-- ==== Sys2Proof/Machine/Session.lean ====
section
/-!
DEFINITION. Sessions (R76, R81), keys (R86), the logs (R458), and the ways in which messages come over UDP (R93, R94) and
over the I²C target (R97).
-/

namespace Sys2Proof.Machine

def updCci (c : Chip) (f : Cci → Cci) : Chip := { c with cci := f c.cci }

/-! ## Sessions (R76, R81) -/

/-- The session identifier after another: the count runs from 1 to 0xFFFE. -/
def sessionAfter (n : Nat) : Nat := if 0xFFFE ≤ n then 1 else n + 1
/-- The next identifier that no open session has. -/
def freeSession (c : Chip) : Nat → Nat → Nat
  | 0, n => n
  | k + 1, n => if (session? c n).isSome then freeSession c k (sessionAfter n) else n
/-- Close a session: its resources stay in force, and it may be taken over. -/
def closeSession (c : Chip) (id : Nat) : Chip :=
  updCci c (fun x => { x with sessions := x.sessions.filter (fun y => y.id ≠ id), lapsed := id :: x.lapsed.filter (· ≠ id) })

/-- One owner in place of another. -/
def swapOwner (old new n : Nat) : Nat := if n = old then new else n
def moveWindow (old new : Nat) (x : CrcWin) : CrcWin := { x with owner := swapOwner old new x.owner }
def moveTimetable (old new : Nat) (t : Timetable) : Timetable := { t with owner := swapOwner old new t.owner }
def moveSchedule (old new : Nat) (x : Schedule) : Schedule := { x with owner := swapOwner old new x.owner }
/-- The resources of a port: timetable, committed frames and CRC windows. -/
def movePort (old new : Nat) (p : Port) : Port :=
  { p with
    tt := p.tt.map (moveTimetable old new)
    pendingTt := p.pendingTt.map (fun x => (x.1.map (moveTimetable old new), x.2))
    frameOwner := swapOwner old new p.frameOwner
    pendingCommit := p.pendingCommit.map (fun x => { x with owner := swapOwner old new x.owner })
    windows := p.windows.map (moveWindow old new)
    windowsPending := p.windowsPending.map (fun x => (x.1, moveWindow old new x.2))
    windowsDue := p.windowsDue.map (fun x => (x.1, moveWindow old new x.2)) }
/-- Every resource and unfinished job of a session moves to another (R80, R81). -/
def moveResources (c : Chip) (old new : Nat) : Chip :=
  { c with
    streams := c.streams.map (fun x => { x with
      owner := swapOwner old new x.owner
      sched := x.sched.map (moveSchedule old new)
      playing := x.playing.map (moveSchedule old new) })
    ports := c.ports.map (movePort old new)
    layers := c.layers.map (fun x => { x with owner := swapOwner old new x.owner })
    surfs := c.surfs.map (fun x => { x with owner := swapOwner old new x.owner })
    mems := c.mems.map (fun x => { x with owner := swapOwner old new x.owner })
    cci := { c.cci with jobs := c.cci.jobs.map (fun x => { x with owner := swapOwner old new x.owner }) } }

/-- The result of `session_open`. -/
def openedReply (e : Env) (id : Nat) (next : U32) : Reply :=
  { status := stOK, result := [w id, next, e.evt.nextSeq - 1], session := some id }
/-- The open session that the same peer opened with a nonce in the last 10 s. -/
def sameNonce (c : Chip) (e : Env) (nonce : Nat) : Option Session :=
  c.cci.sessions.find? (fun x => x.nonce = nonce && x.via = e.via && (e.via ≠ .udp || x.peer = e.peer) && decide (nowNs c ≤ x.openedNs + sec10))
/-- `session_open`. -/
def sessionOpenBody : Body := fun e c =>
  let role := mf e 0x10 1 0
  let admin := bit e 0x10 2
  let takeover := bit e 0x10 3
  let keepalive := mf e 0x10 31 16
  let old := mf e 0x14 15 0
  let nonce := mw e 0x18 + mw e 0x1C * 2 ^ 32
  let known := (session? c old).isSome || c.cci.lapsed.contains old
  if (takeover && role ≠ 1) || (admin && e.via = .udp && e.slot ≠ 0) then reject c stDENIED
  else if 1 < role || 600 < keepalive then reject c stINVALID_FIELD
  else
    match sameNonce c e nonce with
    | some x => (c, openedReply e x.id x.nextSeq)
    | none =>
      if takeover && !known then reject c stUNKNOWN_RESOURCE
      else if 8 ≤ (c.cci.sessions.filter (fun x => !takeover || x.id ≠ old)).length then reject c stNO_SPACE
      else
        let id := freeSession c 8 c.cci.nextSession
        let new : Session := { id := id, via := e.via, peer := if e.via = .udp then e.peer else {}, control := role = 1, admin := admin
                               keySlot := if e.via = .udp then e.slot else 0, keepalive := keepalive, mask := mf e 0x20 15 0
                               evtPort := mf e 0x24 15 0, nonce := nonce, openedNs := nowNs c, lastNs := nowNs c }
        let wasOpen := (session? c old).isSome
        let c := if takeover then updCci (moveResources c old id) (fun x => { x with
          sessions := x.sessions.filter (fun y => y.id ≠ old), lapsed := x.lapsed.filter (· ≠ old) }) else c
        let c := updCci c (fun x => { x with
          sessions := x.sessions ++ [new], lapsed := x.lapsed.filter (· ≠ id), nextSession := sessionAfter id })
        let c := if takeover && wasOpen then raiseFor c 0x0022 0 id [w old, w id] else c
        (c, openedReply e id 1)

/-- `session_close`. -/
def sessionCloseBody : Body := fun e c => (closeSession c (sid e), ok [])
/-- SESSION_LAPSED: KEEPALIVE seconds have been served since the session's last message. The instant is fixed, and T is
brought forward to it (log 3). -/
def lapse (id : Nat) (c : Chip) : Chip :=
  match session? c id with
  | none => c
  | some x =>
    if x.keepalive = 0 || !smServes c then c
    else
      let c := advanceTo c (x.lastNs + x.unservedNs + x.keepalive * 1000000000)
      raiseFor (closeSession c id) 0x0021 0 id []

/-! ## Keys (R86) -/

/-- `key_load`: the slot holds the 32 bytes, or nothing. -/
def keyLoadBody : Body := fun e c =>
  let cci := bit e 0x10 0
  let slot := mf e 0x10 7 4
  let key := if bit e 0x10 8 then [] else bytesOf ((List.range 8).map (fun i => nth e.msg (5 + i)))
  if (cci && (slot = 0 || 3 < slot)) || (!cci && 7 < slot) then reject c stINVALID_FIELD
  else if cci then (updCci c (fun x => { x with cciKeys := put x.cciKeys slot key }), ok [])
  else (updCci c (fun x => { x with dstKeys := put x.dstKeys slot key }), ok [])

/-! ## Logs (R84, R458) -/

/-- The records that a log holds, oldest first, and the index that the next record will carry. What the firmware writes into LOG 1
the spec does not say: it holds no record here (DESIGN CHOICE, log 106). -/
def logRecords (v : Evt) (log : Nat) : List Event × U32 :=
  match log with
  | 0 => (v.history.reverse, v.nextSeq)
  | 2 => (v.faultLog.reverse, w v.faultCount)
  | 3 => (v.startLog.reverse, w v.startCount)
  | _ => ([], 0)
/-- `log_read`. -/
def logReadBody : Body := fun e c =>
  let log := mf e 0x10 7 0
  let b := bufAt e 0x18
  if 3 < log || !bufKindOk e b then reject c stINVALID_FIELD
  else if c.start.st = .recovery && log ≠ 3 then reject c stUNAVAILABLE
  else
    match bufFault c (sid e) true b with
    | some st => reject c st
    | none =>
      let r := logRecords e.evt log
      let oldest := r.2 - w r.1.length
      let skip := (seqDiff (mw e 0x14) oldest.toNat).toNat
      let found := r.1.drop skip
      if found = [] then (c, ok [0, r.2, oldest])
      else if b.len < 64 then (c, { status := stBUFFER_SHORT, result := [64] })
      else
        let given := found.take (b.len / 64)
        giveData c b (given.flatMap (fun x => bytesOf (eventWords x))) [w given.length, oldest + w (skip + given.length), oldest]

/-! ## CCI over UDP (R93, R94) -/

/-- The message of a datagram that passes the checks of R94: its counter, slot, words and data. One with another MAGIC, KIND or
length is dropped and counted as those that R94 lists (DEDUCED, log 107). -/
def checkDatagram (c : Chip) (src : Peer) (d : List Byte) : Option (Nat × UdpMsg) :=
  let be := fun (off n : Nat) => ofBe (slice d off n)
  let slot := be 4 4 % 4
  let key := look c.cci.cciKeys slot []
  let n := be 4 2
  let counter := be 8 8
  let highest := match c.cci.udpCounters.find? (fun x => x.1 = src && x.2.1 = slot) with
    | some x => some x.2.2
    | none => none
  let fresh : Bool := match highest with
    | some h => decide (h < counter)
    | none => true
  if d.length < 0x60 || be 0 4 ≠ 0x43434931 || be 6 1 ≠ 0 || 1024 < n || d.length ≠ 0x60 + n || key = [] || !fresh ||
      (hmac key (d.take (0x50 + n))).take 16 ≠ d.drop (0x50 + n) then none
  else some (counter, { peer := src, slot := slot, msg := wordsOf (slice d 0x10 64), data := slice d 0x50 n })
/-- CCI_DATAGRAM_RECEIVED. -/
def takeDatagram (ep : Nat) (src : Peer) (d : List Byte) (c : Chip) : Chip :=
  if (eth c ep).isolated then c
  else if !(running c || c.start.st = .halted) then updCci c (fun x => { x with udpDropped := x.udpDropped + 1 })
  else
    let c := updEth c ep (fun e => { e with link := true })
    match checkDatagram c src d with
    | none => updCci c (fun x => { x with udpDropped := x.udpDropped + 1 })
    | some (counter, m) =>
      updCci c (fun x => { x with
        udpCounters := (src, m.slot, counter) :: x.udpCounters.filter (fun y => !(y.1 = src && y.2.1 = m.slot))
        udp := x.udp ++ [{ m with ep := ep }] })

/-! ## CCI over the I²C target (R97) -/

def updI2c (c : Chip) (f : I2c → I2c) : Chip := updCci c (fun x => { x with i2c := f x.i2c })
/-- Bytes written from the start of a 64-byte window. -/
def overWindow (window new : List Byte) : List Byte := slice (new.take 64 ++ window.drop new.length) 0 64
/-- An I²C write is taken: POR_N is high, and MSG_BUSY is clear. -/
def i2cTakes (c : Chip) : Bool := !c.porLow && !c.cci.i2c.msgBusy
/-- I2C_SUBMIT. -/
def i2cSubmit (msg : List Byte) (c : Chip) : Chip :=
  if !i2cTakes c then c else updI2c c (fun i => { i with window := overWindow i.window msg, msgBusy := true })
/-- I2C_DATA_FULL. DESIGN CHOICE (log 91): DATA_TAKEN is set at once with the command 0x02, and clears with the response. -/
def i2cFull (piece : List Byte) (c : Chip) : Chip :=
  if !i2cTakes c then c
  else
    let d := overWindow c.cci.i2c.dataWin piece
    updI2c c (fun i => { i with dataWin := d, inData := i.inData ++ d, dataTaken := true })
/-- I2C_DATA_RELEASE. -/
def i2cRelease (c : Chip) : Chip :=
  if !i2cTakes c || !c.cci.i2c.dataReady then c
  else if c.cci.i2c.outData = [] then updI2c c (fun i => { i with dataReady := false })
  else updI2c c (fun i => { i with dataWin := overWindow i.dataWin (i.outData.take 64), outData := i.outData.drop 64 })
/-- I2C_RESPONSE_READ. -/
def i2cRead (c : Chip) : Chip := updI2c c (fun i => { i with rspReady := false })

/-! ## Commands -/

/-- SESSION_OPEN (R76, R81, R84). -/
def execSessionOpen (via : Via) (s : State) : Host.Outcome State Fault Refusal :=
  .next (cciCommand 0x01 neverBusy sessionOpenBody via s)
/-- SESSION_CLOSE (R81). -/
def execSessionClose (via : Via) (s : State) : Host.Outcome State Fault Refusal :=
  .next (cciCommand 0x02 neverBusy sessionCloseBody via s)
/-- SESSION_LAPSED (R81). -/
def execSessionLapsed (id : U16) (s : State) : Host.Outcome State Fault Refusal := .next (s.run (lapse id.toNat))
/-- KEY_LOAD (R84, R86). -/
def execKeyLoad (via : Via) (s : State) : Host.Outcome State Fault Refusal := .next (cciCommand 0x63 neverBusy keyLoadBody via s)
/-- LOG_READ (R84, R458). -/
def execLogRead (via : Via) (s : State) : Host.Outcome State Fault Refusal := .next (cciCommand 0x04 neverBusy logReadBody via s)
/-- UNKNOWN_COMMAND (R78, R79). -/
def execUnknownCommand (via : Via) (s : State) : Host.Outcome State Fault Refusal := .next (unknownMessage via s)
/-- CCI_DATAGRAM_RECEIVED (R93, R94). -/
def execCciDatagramReceived (ep : Fin 2) (src : Peer) (bytes : List Byte) (s : State) : Host.Outcome State Fault Refusal :=
  .next (s.run (takeDatagram ep.val src bytes))
/-- I2C_SUBMIT (R97). -/
def execI2cSubmit (msg : List Byte) (s : State) : Host.Outcome State Fault Refusal := .next (s.run (i2cSubmit msg))
/-- I2C_DATA_FULL (R97). -/
def execI2cDataFull (piece : List Byte) (s : State) : Host.Outcome State Fault Refusal := .next (s.run (i2cFull piece))
/-- I2C_DATA_RELEASE (R97). -/
def execI2cDataRelease (s : State) : Host.Outcome State Fault Refusal := .next (s.run i2cRelease)
/-- I2C_RESPONSE_READ (R97). -/
def execI2cResponseRead (s : State) : Host.Outcome State Fault Refusal := .next (s.run i2cRead)

end Sys2Proof.Machine
end

