-- ==== Sys2Proof/Machine/Summary.lean ====
section
/-!
DEFINITION. `resync` and its summary (R91, Tables 3-12 and 3-13): the fields of an entry are packed in the order listed, and
the rest of the entry is 0.
-/

namespace Sys2Proof.Machine

/-- START_STATE of Table 3-12. -/
def startCode : StartState → Nat
  | .fuses => 0x0
  | .bootRom => 0x1
  | .image => 0x2
  | .firmware => 0x3
  | .bringUp => 0x4
  | .sramTest => 0x5
  | .selfTest => 0x6
  | .memory => 0x7
  | .opening => 0x8
  | .released => 0x9
  | .shuttingDown => 0xA
  | .halted => 0xB
  | .recovery => 0xC
  | .fuseFault => 0xD
  | .smFault => 0xE
/-- Bits [9:4] of HIF_START in the order of Table 17-3, from START_KIND up: kind, slot, relief. -/
def startKind (c : Chip) : Nat := b01 c.start.full
def runningSlot (c : Chip) : Nat := b01 c.start.slotB
def reliefStands (c : Chip) : Nat := b01 c.sm.relief.isSome
def activePair (c : Chip) : Nat := c.sm.active.getD 0

/-- One entry: its fields as (value, bytes), in a fixed size. -/
def entry (size : Nat) (l : List (Nat × Nat)) : List Byte := slice (l.flatMap (fun f => leBytes f.1 f.2)) 0 size
/-- One section: its header and its entries. -/
def section_ (typ size : Nat) (l : List (List (Nat × Nat))) : List Byte :=
  leBytes typ 2 ++ leBytes size 2 ++ leBytes l.length 2 ++ leBytes 0 2 ++ l.flatMap (entry size)

def viaCode : Via → Nat
  | .hp => 0
  | .udp => 1
  | .i2c => 2
def addressBytes (x : Session) : List (Nat × Nat) := (beBytes x.peer.addr.toNat 16).map (fun b => (b.toNat, 1))
def sessionFields (c : Chip) (x : Session) : List (Nat × Nat) :=
  [(x.id, 2), (b01 x.control, 1), (b01 x.admin + 2 * viaCode x.via, 1), (x.nextSeq.toNat, 4), (x.keepalive, 2), (x.mask, 2),
    ((nowNs c - x.lastNs) / 1000000, 4)] ++ addressBytes x
def streamCode : StreamState → Nat
  | .unbound => 0
  | .unanchored => 1
  | .anchored => 2
  | .fallback => 3
def streamFields (c : Chip) (i : Nat) : List (Nat × Nat) :=
  let x := stream c i
  [(i, 1), (streamCode x.st, 1), (x.paths.toNat, 1), (x.owner, 2), (x.streamId, 4), (x.live.lastReady.getD 0, 4), (x.packetsLost, 4),
    (x.dcErrors, 4), (x.activeKey, 1)]
/-- R267: RATIO 0 while the mode lasts. -/
def timetableFields (c : Chip) (p : Nat) (t : Timetable) : List (Nat × Nat) :=
  [(p, 1), (t.period, 4), (t.active, 2), (t.blank, 2), (t.lineTime, 4), (t.phase, 4), (t.laneMask, 6), (t.firstRow, 2), (t.rowCount, 2),
    (b01 (effRatio2 (port c p) t), 1), (t.owner, 2)]
def frameFields (c : Chip) (p : Nat) : List (Nat × Nat) :=
  let x := port c p
  let pending := match x.pendingCommit with
    | some y => y.id.toNat
    | none => 0
  [(p, 1), (x.shownLevel, 1), (x.front, 1), (x.frameOwner, 2), (w32 x.cur, 4), (x.frameId.toNat, 4), (pending, 4), (x.lateRows, 4),
    (x.commitLate, 4)]
/-- R210: held, transparent or defined. -/
def layerCode (l : Layer) : Nat :=
  match l.pending with
  | some x => if x.heldOnce then 2 else 1
  | none => if l.surf.isNone then 3 else 1
def layerFields (c : Chip) (i : Nat) : List (Nat × Nat) :=
  let l := layer c i
  let pending := l.pending.bind (·.surf)
  let depth := match l.defn with
    | some d => d.depth
    | none => 0
  [(i, 1), (layerCode l, 1), (l.owner, 2), (l.surf.getD 0xFFFF, 2), (pending.getD 0xFFFF, 2), ((wi depth).toNat, 4), (l.effective, 4),
    (l.heldCount, 4)]
def surfaceCode (x : Surface) : Nat := if x.freeDeferred then 3 else if x.inDisplay then 2 else 1
def surfaceFields (x : Surface) : List (Nat × Nat) :=
  [(x.id, 2), (x.region, 1), (surfaceCode x, 1), (x.owner, 2), (x.format, 1), (x.retireFrame, 4)]
def laneCode (x : Lane) : Nat :=
  if x.unusable then 4
  else
    match x.st with
    | .active => 1
    | .siding => 2
    | .lost => 3
    | .idle | .wake | .align | .eq | .check => 0
def laneFields (c : Chip) (i : Nat) : List (Nat × Nat) :=
  let x := lane c i
  [(i, 1), (laneCode x, 1), (x.stripe, 1), (x.fom, 1), (x.lostCount, 2)]
/-- In service, isolated, or off. -/
def partCode (isolated inService : Bool) : Nat := if isolated then 1 else if inService then 0 else 2
/-- The siding cell of a block runs tiles in place of a failed cell. -/
def sidingUsed (b : Block) : Bool := (healthyCells b).contains b.spare
def regionFields (c : Chip) (u : Nat) : List (Nat × Nat) :=
  let r := region c u
  let blocks := (List.range 4).filter (fun b => regionServes c u && !(blockOf c u b).removed)
  [(u, 1), (partCode (isolation? c 2 u).isSome (r.inService && !r.off), 1), (regionCells c u, 1), (maskOf blocks, 1),
    (blocks.countP (fun b => sidingUsed (blockOf c u b)), 1), (r.mhz, 2), (epochOf c 2 u % 256, 1)]
/-- The highest refresh debt of a controller's banks (R321). -/
def highestDebt (c : Chip) (m : Nat) : Nat := ((c.banks.filter (fun b => b.mc = m)).map (·.debt)).foldl max 0
/-- R340: in service, at doubled refresh, isolated, or not present. -/
def mcCode (c : Chip) (m : Nat) : Nat := if mcCount c ≤ m then 3 else if !mcOk c m then 2 else if (mc c m).doubled then 1 else 0
def mcFields (c : Chip) (m : Nat) : List (Nat × Nat) :=
  let x := mc c m
  [(m, 1), (mcCode c m, 1), ((BitVec.ofInt 16 x.temp).toNat, 2), (highestDebt c m, 1), (c.cfg.dataRate, 1)]
def memRegionFields (r : MemRegion) : List (Nat × Nat) :=
  [(r.id, 1), (r.ecc, 1), (b01 r.twin + 2 * b01 r.noGuard + 4 * b01 r.filling, 1), (r.owner, 2), (r.size, 8)]
def jobFields (j : Job) : List (Nat × Nat) := [(j.id, 4), (j.tag.toNat, 4), (j.opcode, 2), (j.owner, 2), (j.progress, 4)]
def counterFields (e : Env) (c : Chip) : List (Nat × Nat) :=
  [(e.evt.notWritten, 4), (e.evt.keepNotWritten, 4), (e.hif.doorbellBad.toNat, 4), (e.hif.discarded.toNat, 4), (c.faults.lateReplies, 4),
    (c.poisonReads, 4), (c.unwrittenReads, 4), (e.hif.guardCount.toNat, 4)]

/-- The ports that have a timetable, with it. -/
def timetables (c : Chip) : List (Nat × Timetable) :=
  (List.range 4).filterMap (fun p => (port c p).tt.map (fun t => (p, t)))
/-- The twelve sections of Table 3-13. DESIGN CHOICE (log 91): sections 2 to 5 hold the bound streams, the ports that have a
timetable and the layers with a definition in force. -/
def sections (e : Env) (c : Chip) : List Byte :=
  section_ 1 32 (c.cci.sessions.map (sessionFields c)) ++
  section_ 2 32 (((List.range 16).filter (fun i => (stream c i).st ≠ .unbound)).map (streamFields c)) ++
  section_ 3 32 ((timetables c).map (fun x => timetableFields c x.1 x.2)) ++
  section_ 4 32 ((timetables c).map (fun x => frameFields c x.1)) ++
  section_ 5 32 (((List.range 8).filter (fun i => (layer c i).defn.isSome)).map (layerFields c)) ++
  section_ 6 16 (c.surfs.map surfaceFields) ++
  section_ 7 8 ((List.range (laneCount c)).map (laneFields c)) ++
  section_ 8 16 ((List.range 16).map (regionFields c)) ++
  section_ 9 8 ((List.range 16).map (mcFields c)) ++
  section_ 10 16 (c.mems.map memRegionFields) ++
  section_ 11 16 (c.cci.jobs.map jobFields) ++
  section_ 12 64 [counterFields e c]
/-- The section's ageing counters are seeded (Table 3-12). -/
def seededFlag (c : Chip) : Nat := b01 (allSeeded c)
/-- The header of Table 3-12, with a CRC. -/
def summaryHeader (e : Env) (c : Chip) (length crc : Nat) : List Byte :=
  leBytes 0x5253594E 4 ++ leBytes (1 + 12 * 65536) 4 ++ leBytes length 4 ++ leBytes (e.evt.nextSeq - 1).toNat 4 ++
  leBytes c.shadow.deviceId.toNat 8 ++
  leBytes (c.shadow.orderingCode.toNat + startCode c.start.st * 16 + startKind c * 256 + runningSlot c * 512 + reliefStands c * 1024 +
    seededFlag c * 2048 + activePair c * 4096) 4 ++
  leBytes c.start.build.toNat 4 ++ leBytes c.start.secVer 4 ++ leBytes c.time.ns.toNat 4 ++ leBytes c.time.sec.toNat 4 ++
  leBytes c.cci.nextJob 4 ++ List.replicate 12 0#8 ++ leBytes crc 4
/-- The summary. -/
def summary (e : Env) (c : Chip) : List Byte :=
  let body := sections e c
  let n := 64 + body.length
  summaryHeader e c n (crc32c (summaryHeader e c n 0 ++ body)) ++ body

/-- `resync` (R91, R92). -/
def resyncBody : Body := fun e c =>
  let b := bufAt e 0x10
  if !bufKindOk e b then reject c stINVALID_FIELD
  else
    match bufFault c (sid e) true b with
    | some st => reject c st
    | none =>
      let d := summary e c
      if b.len < d.length then (c, { status := stBUFFER_SHORT, result := [w d.length] })
      else giveData c b d [w d.length, e.evt.nextSeq - 1]

/-- RESYNC (R91). -/
def execResync (via : Via) (s : State) : Host.Outcome State Fault Refusal := .next (cciCommand 0x03 neverBusy resyncBody via s)

end Sys2Proof.Machine
end

