-- ==== Sys2Proof/Machine/HostIf.lean ====
section
/-!
DEFINITION. The host interface of HP: index registers (R67, R430), interrupts (R433, R434), the other registers and the MSI-X
table (R427, R433), the endpoint reset (R426), snapshots (R440) and the BAR2 aperture (R436 to R438).
-/

namespace Sys2Proof.Machine

/-- HP takes configuration requests: its configuration space answers from the end of stage S1 (R59), and the link is up. -/
def hpUp (c : Chip) : Bool := !c.porLow && c.start.st ≠ .fuses && c.start.st ≠ .fuseFault && !c.pcie.linkDown
/-- HP takes memory requests: in D3hot they receive Unsupported Request (R424). -/
def hpReach (c : Chip) : Bool := hpUp c && !c.pcie.d3hot
/-- A change of the host interface by a host access. -/
def State.host (f : Hif → Hif) (s : State) : State := if hpReach s.chip then flush { s with hif := f s.hif } else s

/-! ## Index registers (R67, R430) -/

/-- An accepted producer index of the inbound ring. -/
def doorbellOk (h : Hif) (v : U32) : Bool := (v - h.inConsumed).toNat ≤ 256 && (v - h.inAccepted).toNat < 2 ^ 31
/-- HIF_MBX_DOORBELL. -/
def doorbell (v : U32) (h : Hif) : Hif :=
  if doorbellOk h v then { h with inAccepted := v } else setCause { h with doorbellBad := satInc h.doorbellBad } 21
/-- A consumer index within the produced range. -/
def indexOk_ (v consumed produced : U32) : Bool := (v - consumed).toNat ≤ (produced - consumed).toNat
def badIndex (h : Hif) : Hif := setCause { h with idxBad := satInc h.idxBad } 21
/-- HIF_MBX_RSP_CONSUMED. -/
def rspConsumed (v : U32) (h : Hif) : Hif := if indexOk_ v h.rspConsumed h.rspProduced then { h with rspConsumed := v } else badIndex h
/-- HIF_EVT_CONSUMED. -/
def evtConsumed (v : U32) (h : Hif) : Hif := if indexOk_ v h.evtConsumed h.evtProduced then { h with evtConsumed := v } else badIndex h

/-! ## Interrupts (R433, R434) -/

/-- The 23 bits in use of HIF_IRQ_STATUS and HIF_IRQ_MASK. -/
def irqBits : U32 := 0x7FFFFF#32
/-- HIF_IRQ_STATUS: bits written 1 clear, and a cause that arrives for one of them in the same cycle sets it again. -/
def irqStatus (v arriving : U32) (h : Hif) : Hif :=
  (bitsOf (arriving &&& v &&& irqBits).toNat 23).foldl setCause { h with irqStatus := h.irqStatus &&& ~~~v }
/-- HIF_IRQ_MASK: each unmasked vector whose status bit is 1 sends. -/
def irqMask (v : U32) (h : Hif) : Hif :=
  (bitsOf (h.irqStatus &&& ~~~v).toNat 23).foldl notify { h with irqMask := v &&& irqBits }
/-- HOLDOFF_END. -/
def holdoffEnds (n : Nat) (h : Hif) : Hif :=
  if !h.inHoldoff.contains n then h
  else
    let h := { h with inHoldoff := h.inHoldoff.filter (· ≠ n) }
    if h.irqStatus.toNat.testBit n && !h.irqMask.toNat.testBit n then notify h n else h
/-- Messages left pending in the PBA that nothing holds back any more are sent. -/
def sendPending (h : Hif) : Hif :=
  (List.range 32).foldl (fun h v =>
    if h.pba.toNat.testBit v && !msixBlocked h v && !((2 ≤ v && v ≤ 15) && h.inHoldoff.contains v) then sendHeld h v else h) h
/-- A write of an MSI-X table entry. -/
def setEntry (n : Nat) (e : U64 × U32 × Bool) (h : Hif) : Hif := sendPending { h with msixTable := upd h.msixTable n (fun _ => e) }

/-! ## Resets and snapshots (R426, R440) -/

/-- The registers of Tables 17-5 and 17-6 and the MSI-X state at their reset values. -/
def endpointHif (h : Hif) : Hif :=
  let r := State.resetHif
  { h with
    irqStatus := r.irqStatus, irqMask := r.irqMask, holdoff := r.holdoff, threshold := r.threshold, inHoldoff := r.inHoldoff
    aptRegion := r.aptRegion, aptMode1 := r.aptMode1, aptBase := r.aptBase, linearSize := r.linearSize, aptStatus := r.aptStatus
    aptFault := r.aptFault, guardCount := r.guardCount, guardLast := r.guardLast
    msixTable := r.msixTable, pba := r.pba, msixEnable := r.msixEnable, functionMask := r.functionMask }
/-- An endpoint reset: the configuration space too returns to its reset values, and KIND 0 transfers in flight fail. -/
def resetEndpoint (s : State) : State :=
  { s with hif := endpointHif s.hif
           chip := cutTransfers { s.chip with pcie := { s.chip.pcie with busMaster := false, d3hot := false } } }
/-- HIF_PRF_SNAPSHOT. -/
def registerSnapshot (v : U32) (s : State) : State :=
  if !hpReach s.chip || !(running s.chip || s.chip.start.st = .halted) || !v.toNat.testBit 0 then s
  else
    let r := requestSnapshot s.chip true
    { s with chip := r.2, hif := { s.hif with prfLastId := w r.1 } }

/-! ## The other registers (R427) -/

/-- An aligned 32-bit write of a register with RW or W1C fields and no behaviour of its own; reserved bits are
ignored (R9). -/
def plainRegister (off : Nat) (v : U32) (h : Hif) : Hif :=
  let x := v.toNat
  if off = 0x2008 then { h with holdoff := fld x 31 16, threshold := fld x 9 0 }
  else if off = 0x3000 then { h with aptRegion := fld x 13 8, aptMode1 := x.testBit 0 }
  else if off = 0x3004 then { h with aptBase := fld h.aptBase 39 32 * 2 ^ 32 + fld x 31 16 * 65536 }
  else if off = 0x3008 then { h with aptBase := fld x 7 0 * 2 ^ 32 + fld h.aptBase 31 0 }
  else if off = 0x3010 then { h with aptStatus := h.aptStatus &&& ~~~v }
  else h
/-- An aligned 32-bit write into the MSI-X table. -/
def tableWord (off : Nat) (v : U32) (h : Hif) : Hif :=
  let n := (off - 0x8000) / 16
  let e := nth h.msixTable n
  let a := e.1.toNat
  match (off - 0x8000) / 4 % 4 with
  | 0 => setEntry n (BitVec.ofNat 64 (a / 2 ^ 32 * 2 ^ 32 + v.toNat / 4 * 4), e.2) h
  | 1 => setEntry n (BitVec.ofNat 64 (v.toNat * 2 ^ 32 + a % 2 ^ 32), e.2) h
  | 2 => setEntry n (e.1, v, e.2.2) h
  | _ => setEntry n (e.1, e.2.1, v.toNat.testBit 0) h
/-- A write of 4 aligned bytes to a register; another size or alignment is discarded. The registers with commands of
their own take theirs. -/
def registerWord (off : Nat) (d : List Byte) (s : State) : State :=
  if d.length ≠ 4 || off % 4 ≠ 0 then s
  else
    let v := w (ofLe d)
    if off = 0x1000 then s.host (doorbell v)
    else if off = 0x1010 then s.host (rspConsumed v)
    else if off = 0x1018 then s.host (evtConsumed v)
    else if off = 0x2000 then s.host (irqStatus v 0)
    else if off = 0x2004 then s.host (irqMask v)
    else if off = 0x4004 then registerSnapshot v s
    else if 0x8000 ≤ off && off < 0x8200 then s.host (tableWord off v)
    else s.host (plainRegister off v)
/-- The bytes of a write that lie in the inbound ring. -/
def ringWrite (off : Nat) (d : List Byte) (h : Hif) : Hif :=
  (List.range d.length).foldl (fun h i =>
    let a := off + i
    if 0x100000 ≤ a && a < 0x104000 then { h with inRing := Memory.set h.inRing (a - 0x100000) (nth d i) } else h) h
/-- REGISTER_WRITE. -/
def barWrite (off : Nat) (d : List Byte) (s : State) : State :=
  if off < 0x100000 then registerWord off d s else s.host (ringWrite off d)

/-- PCIE_CONFIG_WRITE. -/
def configWrite (x : PcieCfg) (s : State) : State :=
  if !hpUp s.chip then s
  else
    match x with
    | .busMaster on => { s with chip := { s.chip with pcie := { s.chip.pcie with busMaster := on } } }
    | .powerState d3 => { s with chip := { s.chip with pcie := { s.chip.pcie with d3hot := d3 } } }
    | .msixEnable on => { s with hif := sendPending { s.hif with msixEnable := on } }
    | .functionMask on => { s with hif := sendPending { s.hif with functionMask := on } }

/-! ## The BAR2 aperture (R436 to R438) -/

/-- The aperture is open. -/
def bar2Open (c : Chip) : Bool := running c && !(c.start.st = .shuttingDown && c.start.shutStep = 6)
/-- The space that the mode addresses; none for a region that is not defined. -/
def bar2Bound (s : State) : Option Nat :=
  if s.hif.aptMode1 then (memRegion? s.chip s.hif.aptRegion).map (·.size) else some (s.hif.linearSize.toNat * 2 ^ 20)
/-- The status that an access sets by where it lies (a region that is not defined sets both bits: log 99), A, and how many of its bytes lie within the bound. -/
def bar2Check (s : State) (off len : Nat) : Hif × Nat × Nat :=
  let a := s.hif.aptBase + off
  if !bar2Open s.chip then (setAptStatus s.hif 4 a, a, 0)
  else
    match bar2Bound s with
    | none => (setAptStatus (setAptStatus s.hif 0 a) 1 a, a, 0)
    | some b => if a + len ≤ b then (s.hif, a, len) else (setAptStatus s.hif 0 a, a, b - a)

/-- The parts of a range by 4 KiB page: start and length. -/
def pageParts (a n : Nat) : List (Nat × Nat) :=
  if n = 0 then []
  else (List.range ((a + n - 1) / 4096 - a / 4096 + 1)).map (fun i =>
    let lo := max a ((a / 4096 + i) * 4096)
    (lo, min (a + n) ((a / 4096 + i + 1) * 4096) - lo))
/-- Place of a linear address: a twin-track word is read and written as such (R333). -/
def linearWordPlace (c : Chip) (l : Nat) : Place :=
  let p := linearPlace c l
  if twinPage c p.mc (p.loc / 4096) then { p with mc := p.mc / 2 * 2, twin := true } else p
/-- The reserved area that a linear address lies in. -/
def linearArea (c : Chip) (l : Nat) : Option Area := areaOfPage c (linearPlace c l).mc ((linearPlace c l).loc / 4096)
/-- The memory region and offset that a linear address lies at; none in check pages. -/
def linearRegion (c : Chip) (l : Nat) : Option (MemRegion × Nat) :=
  let p := linearPlace c l
  (regionOfPage c p.mc (p.loc / 4096)).bind (fun r =>
    let page := p.loc / 4096 - r.base
    if r.pages ≤ page then none
    else (r.mcs.findIdx? (fun m => m = p.mc || (r.twin && m + 1 = p.mc))).map (fun k =>
      (r, (page * r.mcs.length + k) * 4096 + p.loc % 4096)))
/-- A linear address lies in area 7, the logs and the Stationmaster's data. -/
def hiddenArea (c : Chip) (l : Nat) : Bool := match linearArea c l with
  | some r => r.code = 7
  | none => false
/-- Read a linear range: area 7 returns zeros. -/
def linearRead (c : Chip) (a n : Nat) : List Byte × Nat × Chip :=
  (pageParts a n).foldl (fun x q =>
    if hiddenArea x.2.2 q.1 then (x.1 ++ List.replicate q.2 0#8, x.2)
    else
      let y := readThrough x.2.2 (linearWordPlace x.2.2) q.1 q.2 true
      (x.1 ++ y.1, x.2.1 + y.2.1, y.2.2)) ([], 0, c)
/-- Read in the mode of the aperture. -/
def apertureRead (s : State) (a n : Nat) : List Byte × Nat × Chip :=
  if s.hif.aptMode1 then
    match memRegion? s.chip s.hif.aptRegion with
    | some r => readThrough s.chip (regionPlace r) a n true
    | none => ([], 0, s.chip)
  else linearRead s.chip a n
/-- BAR2_READ. -/
def bar2Read (off len : Nat) (s : State) : State :=
  if !hpReach s.chip then s
  else
    let k := bar2Check s off len
    let x := apertureRead s k.2.1 k.2.2
    let h := if x.2.1 = 0 then k.1 else setAptStatus k.1 3 k.2.1
    { s with chip := x.2.2, hif := { h with readData := slice x.1 0 len } }

/-- The guarded surface that a write touches, with the offset of the write in its region; a write of which no byte is performed
touches none (R438). -/
def guardHit (s : State) (a n : Nat) : Option (Surface × Nat) :=
  let c := s.chip
  if n = 0 then none
  else if s.hif.aptMode1 then (memRegion? c s.hif.aptRegion).bind (fun r => (guardedSurface c r a n).map (fun x => (x, a)))
  else (pageParts a n).findSome? (fun q =>
    (linearRegion c q.1).bind (fun r => (guardedSurface c r.1 r.2 q.2).map (fun x => (x, r.2))))
/-- A write that the guard discards is counted, flagged and reported. -/
def guardDiscard (x : Surface × Nat) (a : Nat) (s : State) : State :=
  let h := { s.hif with guardCount := s.hif.guardCount + 1, guardLast := BitVec.ofNat 16 x.1.id }
  ({ s with hif := setAptStatus h 5 a }).run (fun c =>
    raiseLimitedOwn c x.1.owner 0x4005 x.1.id ms10 1 2 [w x.1.id, w (x.2 - x.1.offset), 1])
/-- Write one part of a linear range, with the check bytes of a strong region kept. -/
def linearWrite (c : Chip) (a : Nat) (d : List Byte) : Chip :=
  match linearRegion c a with
  | some r => writeRegion c r.1 r.2 d
  | none => writeThrough c (linearWordPlace c) a d
/-- Perform a write in the mode of the aperture. -/
def apertureWrite (s : State) (a : Nat) (d : List Byte) : Chip :=
  if s.hif.aptMode1 then
    match memRegion? s.chip s.hif.aptRegion with
    | some r => writeRegion s.chip r a d
    | none => s.chip
  else (pageParts a d.length).foldl (fun c q => linearWrite c q.1 (slice d (q.1 - a) q.2)) s.chip
/-- A MODE 0 write touches a reserved area. -/
def touchesArea (s : State) (a n : Nat) : Bool := !s.hif.aptMode1 && (pageParts a n).any (fun q => (linearArea s.chip q.1).isSome)
/-- BAR2_WRITE. -/
def bar2Write (off : Nat) (d : List Byte) (s : State) : State :=
  if !hpReach s.chip then s
  else
    let k := bar2Check s off d.length
    let a := k.2.1
    let d := d.take k.2.2
    let s := { s with hif := k.1 }
    let reserved := touchesArea s a d.length
    let s := if reserved then { s with hif := setAptStatus s.hif 2 a } else s
    match guardHit s a d.length with
    | some x => guardDiscard x a s
    | none => if reserved then s else { s with chip := apertureWrite s a d }

/-! ## Commands -/

/-- ENDPOINT_RESET (R43, R426): the three kinds reset the same. -/
def execEndpointReset (_k : EndpointResetKind) (s : State) : Host.Outcome State Fault Refusal := .next (resetEndpoint s)
/-- HIF_MBX_DOORBELL (R67). -/
def execHifMbxDoorbell (v : U32) (s : State) : Host.Outcome State Fault Refusal := .next (s.host (doorbell v))
/-- HIF_MBX_RSP_CONSUMED (R430). -/
def execHifMbxRspConsumed (v : U32) (s : State) : Host.Outcome State Fault Refusal := .next (s.host (rspConsumed v))
/-- HIF_EVT_CONSUMED (R70, R430). -/
def execHifEvtConsumed (v : U32) (s : State) : Host.Outcome State Fault Refusal := .next (s.host (evtConsumed v))
/-- HIF_IRQ_STATUS (R8, R433). -/
def execHifIrqStatus (v arriving : U32) (s : State) : Host.Outcome State Fault Refusal := .next (s.host (irqStatus v arriving))
/-- HIF_IRQ_MASK (R433). -/
def execHifIrqMask (v : U32) (s : State) : Host.Outcome State Fault Refusal := .next (s.host (irqMask v))
/-- HOLDOFF_END (R434). -/
def execHoldoffEnd (vec : Fin 32) (s : State) : Host.Outcome State Fault Refusal :=
  .next (flush { s with hif := holdoffEnds vec.val s.hif })
/-- HIF_PRF_SNAPSHOT (R420, R440). -/
def execHifPrfSnapshot (v : U32) (s : State) : Host.Outcome State Fault Refusal := .next (registerSnapshot v s)
/-- PCIE_CONFIG_WRITE (R424, R425, R433). -/
def execPcieConfigWrite (w : PcieCfg) (s : State) : Host.Outcome State Fault Refusal := .next (configWrite w s)
/-- MSIX_TABLE_WRITE (R433). -/
def execMsixTableWrite (vec : Fin 32) (addr : U64) (data : U32) (masked : Bool) (s : State) : Host.Outcome State Fault Refusal :=
  .next (s.host (setEntry vec.val (addr, data, masked)))
/-- BAR2_READ (R329, R335, R436, R437). -/
def execBar2Read (off : U32) (len : Nat) (s : State) : Host.Outcome State Fault Refusal := .next (bar2Read off.toNat len s)
/-- BAR2_WRITE (R214, R436 to R438). -/
def execBar2Write (off : U32) (data : List Byte) (s : State) : Host.Outcome State Fault Refusal := .next (bar2Write off.toNat data s)

end Sys2Proof.Machine
end

