-- ==== Sys2Proof/Machine/Start.lean ====
section
/-!
DEFINITION. Start and shutdown: POR_N and the start stages (R41 to R57), images and slots (R49 to R52), release (R58, R59), the
orderly shutdown (R60 to R63), `fw_update` (R85), the restart by HIF_RESET (R439).
-/

namespace Sys2Proof.Machine

def updStart (c : Chip) (f : Start → Start) : Chip := { c with start := f c.start }

/-! ## POR_N and restarts (R41 to R43) -/

/-- Everything behind the host interface as stage S1 finds it: the flash, the drives, host memory, the fused floor and the
outputs sent stay; an erase of the record log that is cut off leaves it empty (R62). -/
def freshChip (c : Chip) : Chip :=
  let erased := c.start.shutStep = 5 && 256 ≤ c.flash.records.length
  let r := State.resetChip (if erased then { c.flash with records := [] } else c.flash)
  { r with
    store := { drive0 := { c.store.drive0 with up := false }, drive1 := { c.store.drive1 with up := false } }
    pcie := { hostMem := c.pcie.hostMem }
    out := c.out
    free := c.free
    power := { r.power with good := c.power.good }
    start := { strapBoot := c.start.strapBoot, strapI2c := c.start.strapI2c, bootOverride := c.start.bootOverride } }
/-- The controller at its reset values; MSI-X messages sent stay sent. -/
def freshState (s : State) : State :=
  { s with chip := freshChip s.chip, hif := { State.resetHif with sent := s.hif.sent }, evt := { nextSeq := 1 } }
/-- POR_N_FALL: a low pulse of 1 µs or longer. -/
def porFall (pulseNs : Nat) (s : State) : State := if s.chip.porLow || pulseNs < 1000 then s else freshState s
/-- A record of the start log that is no event: its DATA is a strap value. -/
def strapRecord (boot : BitVec 2) : Event := { data := [w boot.toNat] }
/-- The reserved strap value 0b11 is logged (Table 2-2). -/
def logStrap (boot : BitVec 2) (v : Evt) : Evt :=
  if boot = 3 then { v with startLog := [strapRecord boot], startCount := 1 } else v
/-- STRAP_BOOT as the start takes it. -/
def strapOf (c : Chip) : BitVec 2 := if c.start.bootOverride then 0 else c.start.strapBoot
/-- POR_N_RISE: the straps are sampled, and stage S1 begins. -/
def porRise (boot : BitVec 2) (i2c : BitVec 3) (s : State) : State :=
  if !s.chip.porLow then s
  else
    let c := updStart { s.chip with porLow := false } (fun x => { x with
      strapBoot := boot, strapI2c := i2c, bootOverride := false, stage := .s1 })
    { s with chip := c, evt := logStrap boot s.evt }
/-- A restart without POR_N: the straps are not sampled, and FAULT_N stays low after a fault outside the guarantee (R377). After a `fw_update` in RECOVERY STRAP_BOOT is taken as 0b00. -/
def restart (boot00 : Bool) (s : State) : State :=
  let held := s.chip.faults.outside
  let s := freshState s
  let c := updStart { s.chip with porLow := false, faults := { s.chip.faults with outside := held } } (fun x => { x with stage := .s1, bootOverride := x.bootOverride || boot00 })
  { s with chip := c, evt := logStrap (strapOf c) s.evt }

/-! ## Fuses (R45) -/

/-- The majority of three copies, bit by bit. -/
def major {n : Nat} (a b c : BitVec n) : BitVec n := (a &&& b) ||| (a &&& c) ||| (b &&& c)
def majorTrim (f : Fuses) (i : Nat) : Int :=
  let v := fun (a : FuseArray) => BitVec.ofInt 32 (look a.trim i 0)
  (major (v f.copy0) (v f.copy1) (v f.copy2)).toInt
def majorHash (f : Fuses) (k : Nat) : List Byte :=
  let v := fun (a : FuseArray) (i : Nat) => nth (nth a.keyHash k) i
  (List.range 32).map (fun i => major (v f.copy0 i) (v f.copy1 i) (v f.copy2 i))
def majorRepair (f : Fuses) : List Byte :=
  let v := fun (a : FuseArray) (i : Nat) => nth a.sramRepair i
  (List.range (max f.copy0.sramRepair.length (max f.copy1.sramRepair.length f.copy2.sramRepair.length))).map
    (fun i => major (v f.copy0 i) (v f.copy1 i) (v f.copy2 i))
/-- The shadow registers of Table 2-4. -/
def shadowOf (f : Fuses) : FuseArray :=
  { orderingCode := major f.copy0.orderingCode f.copy1.orderingCode f.copy2.orderingCode
    sizes := major f.copy0.sizes f.copy1.sizes f.copy2.sizes
    deviceId := major f.copy0.deviceId f.copy1.deviceId f.copy2.deviceId
    keyHash := (List.range 4).map (majorHash f)
    revoked := major f.copy0.revoked f.copy1.revoked f.copy2.revoked
    secFloor := major f.copy0.secFloor f.copy1.secFloor f.copy2.secFloor
    sramRepair := majorRepair f
    trim := ((f.copy0.trim ++ f.copy1.trim ++ f.copy2.trim).map (·.1)).eraseDups.map (fun i => (i, majorTrim f i)) }

/-- The security version that a thermometer stands for: how many of its bits are 1. -/
def floorOf (x : U64) : Nat := (List.range 64).countP x.getLsbD
/-- The thermometer of a security version. -/
def thermometer (v : Nat) : U64 := BitVec.ofNat 64 (2 ^ min v 64 - 1)
/-- Burn a floor into the three copies: a fuse that is 1 stays 1. -/
def burnFloor (x : U64) (f : Fuses) : Fuses :=
  let burn := fun (a : FuseArray) => { a with secFloor := a.secFloor ||| x }
  { f with copy0 := burn f.copy0, copy1 := burn f.copy1, copy2 := burn f.copy2 }

/-! ## Images and slots (R49 to R51) -/

def slotOf (c : Chip) (b : Bool) : Slot := if b then c.flash.slotB else c.flash.slotA
def setSlot (c : Chip) (b : Bool) (x : Slot) : Chip :=
  { c with flash := if b then { c.flash with slotB := x } else { c.flash with slotA := x } }
/-- The checks of R50 on the bytes of a slot. -/
def imageValid (c : Chip) (d : List Byte) : Bool :=
  let len := le32 d 0x08
  let key := le32 d 0x14 % 4
  let pub := slice d 0x20 32
  let sku := if fullPart c then 0 else 1
  le32 d 0 = 0x39364345 && le16 d 0x04 = 1 && len ≠ 0 && len % 4096 = 0 && len ≤ 0x02000000 && len ≤ d.length &&
    !c.shadow.revoked.getLsbD key && sha256 pub = nth c.shadow.keyHash key &&
    Config.ed25519Verify pub (slice d 0 0x40 ++ slice d 0x80 0x80) (slice d 0x40 64) &&
    slice d 0x80 32 = sha256 (slice d 0x100 (len - 0x100)) && floorOf c.shadow.secFloor ≤ le32 d 0x0C && (le32 d 0x18).testBit sku
def slotValid (c : Chip) (b : Bool) : Bool := !(slotOf c b).invalid && imageValid c (slotOf c b).bytes

/-- The copy of the boot control block in use: true is copy 1. Where both are good and their sequence numbers are equal, copy 0
is in use (DESIGN CHOICE, log 88). -/
def blockInUse (c : Chip) : Option Bool :=
  let a := c.flash.bcb0
  let b := c.flash.bcb1
  if a.good && b.good then some (decide (a.seq < b.seq)) else if a.good then some false else if b.good then some true else none
/-- The boot control block; none where neither copy has a correct CRC. -/
def bootBlock (c : Chip) : Option BootBlock := (blockInUse c).map (fun k => if k then c.flash.bcb1 else c.flash.bcb0)
/-- Write the boot control block into the older copy, and into copy 0 where neither is good (DESIGN CHOICE, log 88). -/
def writeBlock (c : Chip) (f : BootBlock → BootBlock) : Chip :=
  let b := (bootBlock c).getD {}
  let new := { f b with seq := b.seq + 1, good := true }
  { c with flash := if blockInUse c = some false then { c.flash with bcb1 := new } else { c.flash with bcb0 := new } }
/-- The slot tried first; slot A, without a trial, where neither copy of the block is good (DESIGN CHOICE, log 88). -/
def preferredSlot (c : Chip) : Bool := ((bootBlock c).getD {}).preferB
/-- R51 steps 3: two trial runs without a release (log 10). -/
def endTrial (c : Chip) : Chip :=
  let b := (bootBlock c).getD {}
  if b.trial && 2 ≤ b.trialCount then writeBlock c (fun b => { b with trial := false, preferB := !b.preferB }) else c
/-- R51 step 2: a trial run begins. -/
def countTrial (c : Chip) : Chip :=
  if ((bootBlock c).getD {}).trial then writeBlock c (fun b => { b with trialCount := b.trialCount + 1 }) else c
/-- The written slot is preferred, on trial. -/
def preferSlot (c : Chip) (b : Bool) : Chip := writeBlock c (fun x => { x with preferB := b, trial := true, trialCount := 0 })

/-! ## Stages (R44, Table 2-3) -/

/-- Place of a stage in Table 2-3, from 1. -/
def stageNumber : Stage → Nat
  | .off => 0
  | .s1 => 1
  | .s2 => 2
  | .s3 => 3
  | .s4 => 4
  | .s5 => 5
  | .s6 => 6
  | .s6b => 7
  | .s6c => 8
  | .s7 => 9
  | .s7b => 10
  | .s8 => 11
  | .s9 => 12
def enterStage (c : Chip) (g : Stage) (st : StartState) : Chip := setStart (updStart c (fun x => { x with stage := g })) st
/-- The start ends in a state of Table 2-7, or in RECOVERY. -/
def stopStart (c : Chip) (st : StartState) : Chip := enterStage c .off st
/-- The time of the stage, and whether its bound was exceeded. -/
def recordStage (c : Chip) (r : StageReport) : Chip :=
  let n := stageNumber c.start.stage
  updStart c (fun x => { x with
    times := put x.times n (look x.times n 0 + r.timeUs.toNat), overruns := if r.overran then x.overruns ++ [n] else x.overruns })

/-- A part is isolated from the start on, its junctions CLOSED, until the next start (R57). -/
def isolateAtStart (cls cause : Nat) (c : Chip) (unit : Nat) : Chip :=
  setIsolation c { cls := cls, unit := unit, cause := cause, junction := .closed, sinceNs := nowNs c, closedNs := nowNs c, forever := true }
/-- Regions that fail: the switch is opened. -/
def failRegions (c : Chip) (m : BitVec 16) : Chip :=
  (bitsOf m.toNat 16).foldl (fun c u =>
    if (region c u).inService then updRegion (isolateAtStart 2 4 c u) u (fun x => { x with off := true }) else c) c
/-- Controllers that fail. -/
def failMcs (c : Chip) (m : BitVec 16) : Chip :=
  (bitsOf m.toNat 16).foldl (fun c k =>
    if mcCount c ≤ k then c
    else updMc (isolateAtStart 3 6 c k) k (fun x => { x with isolated := true, selfRefresh := true })) c

/-- S1: the fuses are loaded (R45, R46). -/
def fusesLoaded (f : Fuses) (c : Chip) : Chip :=
  let c := { c with shadow := shadowOf f }
  if f.unsettled || (c.shadow.orderingCode ≠ 1 && c.shadow.orderingCode ≠ 2) then stopStart c .fuseFault
  else enterStage c .s2 .bootRom
/-- S2: the pair that passes serves, and the other stands by (R53). -/
def pairsChecked (p0 p1 : Bool) (c : Chip) : Chip :=
  if !p0 && !p1 then stopStart c .smFault
  else
    let c := { c with sm := { active := some (if p0 then 0 else 1), relief := if p0 && p1 then some 1 else none } }
    if strapOf c = 2 then stopStart c .recovery else enterStage (endTrial c) .s3 .image
/-- S3: a valid slot is chosen; a start that comes back from S4 has only the other slot left. -/
def slotLoaded (c : Chip) : Chip :=
  let pref := preferredSlot c
  let order := if c.start.firstRejected then [!pref] else [pref, !pref]
  match order.find? (slotValid c) with
  | none => stopStart c .recovery
  | some b =>
    let d := (slotOf c b).bytes
    enterStage (updStart (countTrial c) (fun x => { x with
      slotB := b, firstRejected := decide (b ≠ pref), digest := slice d 0x80 32, secVer := le32 d 0x0C, build := w (le32 d 0x10) })) .s4 .firmware
/-- The memory parameters lie in the ranges of Table 11-2 (R310). -/
def memoryParamsOk (f : ConfigBlock) : Bool :=
  decide (28 ≤ f.dataRate ∧ f.dataRate ≤ 36) && (f.density = 24 || f.density = 32) && decide (4 ≤ f.colBits ∧ f.colBits ≤ 6) &&
    f.hmask.all (fun m => m < 2 ^ 20) && decide (1 ≤ f.ageWorkUs ∧ f.ageWorkUs ≤ 64) && decide (4 ≤ f.ageBulkUs ∧ f.ageBulkUs ≤ 1000) &&
    decide (512 ≤ f.hammerThreshold ∧ f.hammerThreshold ≤ 16384) && (f.hammerDistance = 1 || f.hammerDistance = 2) &&
    decide (10 ≤ f.retrainMs ∧ f.retrainMs ≤ 1000)
/-- The newest shutdown record: the one with the highest SEQ. -/
def newestRecord (c : Chip) : Option ShutdownRecord :=
  (c.flash.records.map readRecord).foldl (fun best x => match best with
    | some b => if b.seq < x.seq then some x else some b
    | none => some x) none
/-- R54. -/
def quickStart (c : Chip) : Bool :=
  (strapOf c = 0 || strapOf c = 3) && !c.start.firstRejected &&
    match newestRecord c with
    | some r => r.crcGood && r.consumed = 0xFF && r.pass && r.imageDigest = c.start.digest && r.fuseId = c.shadow.deviceId && !r.fullNext
    | none => false
/-- R55: the newest record is used up. -/
def consumeRecord (c : Chip) : Chip :=
  match newestRecord c with
  | some r => { c with flash := { c.flash with records := c.flash.records.map (fun x => if (readRecord x).seq = r.seq then programConsumed x else x) } }
  | none => c
/-- S4: the firmware runs; a slot whose memory parameters are out of range is not valid. CS_REFCLK_OUT0 and CS_REFCLK_OUT1
run from S5 on (R447). -/
def firmwareStarted (c : Chip) : Chip :=
  let d := (slotOf c c.start.slotB).bytes
  let f := Config.imageBlock (slice d 0x100 (le32 d 0x08 - 0x100))
  if !memoryParamsOk f then
    let c := updStart c (fun x => { x with build := 0 })
    if c.start.firstRejected then stopStart c .recovery
    else enterStage (updStart c (fun x => { x with firstRejected := true })) .s3 .image
  else
    let c := updStart { c with cfg := f } (fun x => { x with full := !quickStart c })
    enterStage { consumeRecord c with pcie := { c.pcie with csRefclk := true } } .s5 .bringUp
/-- S5: the regions named are powered, and the PLLs run: T counts from here (R357). -/
def islandsUp (r : StageReport) (c : Chip) : Chip :=
  let c := { c with
    time := { c.time with runs := true, ref10m := c.cfg.time.ref10m }
    regions := (List.range 16).map (fun u =>
      let on := c.cfg.regions.getLsbD u
      { inService := on, off := !on, blocks := List.replicate 4 {}, mhz := c.cfg.regionMHz }) }
  enterStage (failRegions c r.failedRegions) .s6 .sramTest
/-- S6 and S6b: regions and cells are tested. -/
def logicTested (r : StageReport) (c : Chip) : Chip :=
  updStart (failRegions c r.failedRegions) (fun x => { x with
    failedBlocks := x.failedBlocks ++ r.failedBlocks.map (fun k => (k.1.val, k.2.val))
    failedCells := x.failedCells ++ r.failedCells.map (fun k => (k.1.val, k.2.1.val, k.2.2.val)) })
/-- S6c: the analogue self-test (R57, R410, R411). -/
def analogueTested (r : StageReport) (c : Chip) : Chip :=
  let bins := binsOf c r.results
  let sig := signatureOf c bins
  let good := !bins.contains 2
  let matched := signatureMatches c sig
  let c := if good then writeExpected c sig bins.length else c
  let c := selfTestEvent { c with start := { c.start with bins := bins } } bins false good matched good
  (badLanes c bins).foldl (fun c l => updLane c l (fun x => { x with unusable := true })) c
/-- S7: the controllers present are trained, and every page is unwritten (R56, R312, R339). -/
def memoryTrained (r : StageReport) (c : Chip) : Chip :=
  let mcs := (List.range 16).map (fun m => { mc c m with inService := decide (m < mcCount c) })
  failMcs { c with mcs := mcs, written := [], poison := [], ram := [] } r.failedMcs

/-! ## Release (R58) -/

/-- Coefficient sets 0 and 1 at release (R202). -/
def bilinear (taps at_ : Nat) : Nat × List Int :=
  (taps, (List.range 512).map (fun k => if k % 8 = at_ then 1024 - 16 * (k / 8 : Int) else if k % 8 = at_ + 1 then 16 * (k / 8 : Int) else 0))
/-- The areas of Table 11-4 that are reserved at release: the tap at linear 0, then the others in order of code. -/
def reserveAreas (c : Chip) : Chip :=
  let mcs := mcsInService c
  let values := maxColumns c * maxRows * 128 * 3
  let c := { c with linearMcs := mcs, areas := if mcs = [] then [] else
      [{ code := 6, mcs := mcs, pages := cdiv (256 * 2 ^ 20) (4096 * mcs.length) }] }
  let take := fun (c : Chip) (code size : Nat) (strong high : Bool) => (reserveArea c code 0 size false strong high).getD c
  take (take (take (take c 2 values true false) 3 (2 * values) true false) 5 (8 * 2 ^ 30) false true) 7 (64 * 2 ^ 20) true false
/-- The default state of what release sets up. -/
def releaseDefaults (c : Chip) : Chip :=
  let c := reserveAreas c
  let c := { c with
    sysReady := true
    mcs := c.mcs.map (fun m => { m with scrubS := 21600 })
    tables := { c.tables with coefs := [(0, bilinear 8 3), (1, bilinear 6 2)] }
    cci := { c.cci with cciKeys := put [] 0 c.cfg.cciKey0 } }
  applyTrims c (trimItems c)
/-- R51 steps 4 and 5. TJ_MAX begins below every reading: -32,768 stands where no sample comes before `shutdown` (DESIGN CHOICE,
log 89). -/
def settleTrial (c : Chip) : Chip :=
  let b := (bootBlock c).getD {}
  let c := if b.trial || b.trialCount ≠ 0 then writeBlock c (fun b => { b with trial := false, trialCount := 0 }) else c
  updStart { c with shadow := { c.shadow with secFloor := c.shadow.secFloor ||| thermometer c.start.secVer } } (fun x => { x with
    tjMax := -32768 })
/-- Time of a stage in 100 µs, rounded up, in 16 bits (DESIGN CHOICE, log 13). -/
def stageTime (c : Chip) (n : Nat) : Nat := cdiv (look c.start.times n 0) 100 % 65536
/-- DATA of START_RELEASED (DESIGN CHOICE, log 13): the times of S1 and S2 stand at 255 at most in 8 bits, the others in 16; bits [14:4] of its first word name the stages S1 to S8 that were over their bounds. -/
def releasedData (c : Chip) : List U32 :=
  let lanes := maskOf ((List.range (laneCount c)).filter (fun l => (lane c l).unusable))
  let regions := maskOf ((List.range 16).filter (fun u => (isolation? c 2 u).isSome))
  let mcs := maskOf ((List.range 16).filter (fun m => (mc c m).isolated))
  let first := b01 c.start.full + runningSlot c * 2 + reliefStands c * 4 + maskOf c.start.overruns % 4096 / 2 * 16
  let short := fun n => min (stageTime c n) 255
  [w (first + regions * 65536), c.start.build, w (mcs + lanes % 65536 * 65536), w (lanes / 65536),
    w (short 1 + short 2 * 256 + stageTime c 3 * 65536)] ++
    (List.range 4).map (fun k => w (stageTime c (4 + 2 * k) + stageTime c (5 + 2 * k) * 65536))
/-- Blocks and cells that failed self-test are handled as Table 1-6 states, and stay isolated until the next start (R57). -/
def releaseCells (c : Chip) : Chip :=
  let c := c.start.failedBlocks.foldl (fun c k => blockFault k.1 k.2 2 c) c
  let c := c.start.failedCells.foldl (fun c k => cellFault k.1 k.2.1 k.2.2 2 c) c
  { c with faults := { c.faults with isolated := c.faults.isolated.map (fun i =>
      if i.cls ≤ 1 then { i with junction := .closed, forever := true, closedNs := nowNs c } else i) } }
/-- Release: SYS_READY, RELEASED and START_RELEASED at once. -/
def releaseAll (c : Chip) : Chip :=
  let c := stopStart (releaseDefaults (settleTrial c)) .released
  releaseCells (raise c 0x0001 (releasedData c))

/-- START_STAGE_DONE. -/
def stageDone (f : Fuses) (r : StageReport) (c0 : Chip) : Chip :=
  let c := recordStage c0 r
  match c0.start.stage with
  | .off | .s9 => c0
  | .s1 => fusesLoaded f c
  | .s2 => pairsChecked r.pair0Pass r.pair1Pass c
  | .s3 => slotLoaded c
  | .s4 => firmwareStarted c
  | .s5 => islandsUp r c
  | .s6 =>
    let c := logicTested r c
    if c.start.full then enterStage c .s6b .selfTest else enterStage c .s7 .memory
  | .s6b => enterStage (logicTested r c) .s6c .selfTest
  | .s6c => enterStage (analogueTested r c) .s7 .memory
  | .s7 =>
    let c := memoryTrained r c
    if c.start.full then enterStage c .s7b .memory else enterStage c .s8 .opening
  | .s7b => enterStage (failMcs c r.failedMcs) .s8 .opening
  | .s8 => releaseAll c
/-- HIF_APT_LINEAR_SIZE is set at release, and the raised floor is burnt into the fuses (R51). -/
def settleRelease (before : Chip) (s : State) : State :=
  if before.start.st = .opening && s.chip.start.st = .released then
    { s with hif := { s.hif with linearSize := w (3072 * s.chip.linearMcs.length) }, fuses := burnFloor s.chip.shadow.secFloor s.fuses }
  else s

/-! ## Shutdown (R60 to R63) -/

def setShut (c : Chip) (k : Nat) : Chip := updStart c (fun x => { x with shutStep := k })
/-- The rails are up, or on their way. -/
def railsMoving (c : Chip) : Bool := c.power.railsUp || c.power.run ≠ .idle
/-- Step 2: the power-down sequence, where rails are up; an up job in progress ends
at its next step boundary (R295). -/
def lowerPanel (c : Chip) : Chip :=
  match c.power.run with
  | .down => c
  | .up => updPower c (fun p => { p with downWaits := p.downWaits.or (some 0) })
  | .idle => if c.power.railsUp then startDown c 0 else c
/-- The outputs of R42. -/
def holdOutputs (c : Chip) : Chip :=
  let c := updPower (idleGroups c) (fun p => { p with
    en := 0, irefOn := false, railsUp := false, driverUp := false, run := .idle, step := 0, waitOn := none, cmds := [] })
  { c with time := { c.time with ppsOut := false, ppsOutOn := false } }
/-- Step 2 has reached its bound: what is still up goes down. -/
def panelDown (c : Chip) : Chip :=
  if !railsMoving c then c
  else
    let p := c.power
    let c := if p.job = 0 then c else if p.run = .up then endJob c p.job .aborted 0 0 [] else endJob c p.job .completed 0 0 [w p.stuck.toNat]
    let c := if p.downWaits.getD 0 = 0 then c else endJob c (p.downWaits.getD 0) .completed 0 0 [w p.stuck.toNat]
    updPower (idleGroups c) (fun p => { p with
      en := 0, irefOn := false, railsUp := false, driverUp := false, run := .idle, step := 0, waitOn := none, job := 0, downWaits := none
      cmds := [] })
/-- Step 3. -/
def enterPersist (c : Chip) : Chip :=
  let c := updStart (setShut c 3) (fun x => { x with shutPersistFailed := true })
  if c.store.writing.isSome then c else startPersist c
/-- After step 2, 3 or 4: the next step that is not omitted. -/
def afterPanel (c : Chip) : Chip :=
  if !c.start.shutSkipPersist then enterPersist c else if !c.start.shutSkipTest then setShut c 4 else setShut c 5
def afterPersist (c : Chip) : Chip := if !c.start.shutSkipTest then setShut c 4 else setShut c 5
/-- Step 3 ends: a write still running is cut off. -/
def persistEnds (timedOut : Bool) (c : Chip) : Chip :=
  updStart { c with store := { c.store with writing := none } } (fun x => { x with shutPersistFailed := x.shutPersistFailed || timedOut })
/-- Step 4: the analogue self-test (R411). -/
def shutdownTested (r : StepReport) (c : Chip) : Chip :=
  let bins := binsOf c r.results
  let sig := signatureOf c bins
  let matched := signatureMatches c sig
  let pass := !bins.contains 2 && matched
  selfTestEvent (updStart c (fun x => { x with bins := bins, shutPass := pass, shutSignature := sig })) bins true pass matched false
/-- Step 5: a shutdown record is appended; a full log is erased first. SEQ of the first record of a log is 1 (DESIGN CHOICE,
log 89). -/
def appendRecord (c : Chip) : Chip :=
  let x := c.start
  let old := c.flash.records
  let seq := match newestRecord c with
    | some r => r.seq + 1
    | none => 1
  let new : ShutdownRecord :=
    { seq := seq, pass := x.shutPass, fullNext := x.shutFullNext, persistFailed := x.shutPersistFailed, fuseId := c.shadow.deviceId
      imageDigest := x.digest, signature := x.shutSignature, ptpSeconds := c.time.sec.toNat, tjMax := x.tjMax }
  { c with flash := { c.flash with records := if 256 ≤ old.length then [recordBytes new] else old ++ [recordBytes new] } }
/-- The one terminal event of the job of `shutdown`. -/
def shutdownComplete (c : Chip) : Chip :=
  match job? c c.start.shutJob with
  | none => raise c 0x0002 [0, 0x62, 0]
  | some j =>
    let c := { c with cci := { c.cci with
      jobs := c.cci.jobs.filter (fun x => x.id ≠ j.id)
      finished := ({ id := j.id, opcode := j.opcode, tag := j.tag } :: c.cci.finished).take 256 } }
    raiseFor c 0x0002 j.tag j.owner [w j.id, w j.opcode, 0]
/-- Step 6: GDDR7 refreshes itself, every debt repaid (R321), and the controller halts. -/
def halt (c : Chip) : Chip :=
  let c := { holdOutputs c with sysReady := false, banks := c.banks.map (fun (b : Bank) => { b with debt := 0 }) }
  let c := { c with mcs := c.mcs.map (fun (m : Mc) => { m with selfRefresh := m.inService }), cci := { c.cci with held := none } }
  setStart (shutdownComplete (setShut c 0)) .halted

/-- `shutdown`: step 1 begins. PERSIST_FAILED stays 0 where SKIP_PERSIST omits step 3 (DESIGN CHOICE, log 89). -/
def shutdownBody : Body := fun e c =>
  if jobsFull c then reject c stNO_SPACE
  else
    let n := newJob c 0x62 (tagOf e) (sid e) []
    let c := updStart n.2 (fun x => { x with
      shutStep := 1, shutJob := n.1, shutSkipPersist := bit e 0x10 0, shutSkipTest := bit e 0x10 1, shutFullNext := bit e 0x10 2
      shutPersistFailed := false, shutPass := false, shutSignature := [] })
    (abandonRuns (setStart c .shuttingDown), { status := stACCEPTED, result := [w n.1] })
/-- SHUTDOWN_STEP_DONE: while no pair serves, `shutdown` waits (R90). -/
def shutStepDone (r : StepReport) (c : Chip) : Chip :=
  if c.start.st ≠ .shuttingDown || !smServes c then c
  else
    match c.start.shutStep with
    | 1 => lowerPanel (setShut c 2)
    | 2 => afterPanel (panelDown c)
    | 3 => afterPersist (persistEnds r.timedOut c)
    | 4 => setShut (shutdownTested r c) 5
    | 5 => setShut (appendRecord c) 6
    | _ => halt c

/-! ## `fw_update` (R85) -/

/-- The slot that an image is written into. -/
def fwTarget (c : Chip) : Bool :=
  if c.start.st ≠ .recovery then !c.start.slotB
  else if !slotValid c false then false
  else if !slotValid c true then true
  else match bootBlock c with
    | some b => !b.preferB
    | none => true
/-- The checks on the written slot: it is preferred, or marked invalid. -/
def checkWritten (c : Chip) (b : Bool) : Chip × Bool :=
  if imageValid c (slotOf c b).bytes then (preferSlot c b, true) else (setSlot c b { slotOf c b with invalid := true }, false)
/-- In RECOVERY the response comes after the checks, and a restart follows it. -/
def recoveryChecks (c : Chip) (b : Bool) : Chip × Reply :=
  let x := checkWritten c b
  if x.2 then (updStart x.1 (fun y => { y with restartDue := true }), ok []) else (x.1, reply stINVALID_IMAGE)
/-- The job that checks the written slot. -/
def fwStart (c : Chip) (e : Env) (regions buf : List Nat) : Chip × Reply :=
  let n := newJob c 0x60 (tagOf e) (sid e) regions
  (updStart n.2 (fun x => { x with fwJob := n.1, fwBuf := buf, fwCut := false }), { status := stACCEPTED, result := [w n.1] })
/-- A whole image from a buffer of KIND 0 or 1. -/
def fwWhole (c : Chip) (e : Env) (b : Buf) : Chip × Reply :=
  let t := fwTarget c
  if c.start.st ≠ .recovery then
    fwStart (updStart (setSlot c t {}) (fun x => { x with fwNext := 0 })) e (bufHolds b) [b.lo, b.hi, b.len, b.kind]
  else
    let r := bufRead c e.inline b 0 b.len
    match r.2 with
    | none => reject r.1 stTRANSFER_FAULT
    | some d => recoveryChecks (setSlot r.1 t { bytes := d }) t
/-- A piece of inline data; the piece at OFFSET 0 erases the slot, and FINAL starts the checks. -/
def fwPiece (c : Chip) (e : Env) (off : Nat) (final : Bool) (d : List Byte) : Chip × Reply :=
  let t := fwTarget c
  let c := setSlot c t { bytes := if off = 0 then d else (slotOf c t).bytes ++ d }
  if !final then (updStart c (fun x => { x with fwNext := off + d.length }), ok [])
  else
    let c := updStart c (fun x => { x with fwNext := 0 })
    if c.start.st = .recovery then recoveryChecks c t else fwStart c e [] []
/-- `fw_update`. -/
def fwUpdateBody : Body := fun e c =>
  let b := bufAt e 0x10
  let off := mw e 0x20
  let final := bit e 0x24 0
  if !bufKindOk e b || (b.kind ≠ 2 && off ≠ 0) || (off ≠ 0 && off ≠ c.start.fwNext) || 0x02000000 < off + b.len then reject c stINVALID_FIELD
  else
    match bufFault c (sid e) false b with
    | some st => reject c st
    | none =>
      if c.start.st ≠ .recovery && (b.kind ≠ 2 || final) && jobsFull c then reject c stNO_SPACE
      else if c.start.fwJob ≠ 0 then reject c stIN_USE
      else if b.kind ≠ 2 then fwWhole c e b
      else if e.inline.length < b.len then reject c stTRANSFER_FAULT
      else fwPiece c e off final (e.inline.take b.len)
/-- FW_UPDATE_DONE: the flash is written, and the checks of R50 are made. -/
def fwDone (c : Chip) : Chip :=
  let job := c.start.fwJob
  if job = 0 then c
  else
    let t := fwTarget c
    let l := c.start.fwBuf
    let b : Buf := { lo := nth l 0, hi := nth l 1, len := nth l 2, kind := nth l 3 }
    let cut := c.start.fwCut
    let c := updStart c (fun x => { x with fwJob := 0, fwBuf := [], fwCut := false })
    let r := if cut then (c, none) else if l = [] then (c, some (slotOf c t).bytes) else bufRead c [] b 0 b.len
    match r.2 with
    | none => endJob r.1 job .failed stTRANSFER_FAULT 0 []
    | some d =>
      let x := checkWritten (setSlot r.1 t { bytes := d }) t
      if x.2 then endJob x.1 job .completed 0 0 [] else endJob x.1 job .failed stINVALID_IMAGE 0 []

/-! ## Restarts that a command leads to (R52, R439) -/

/-- A good `fw_update` in RECOVERY is followed by a restart. -/
def restartAfterUpdate (s : State) : State :=
  if s.chip.start.st = .recovery && s.chip.start.restartDue then restart true s else s
/-- The panel rails that HIF_RESET lowers are down: the restart follows. -/
def restartWhenDown (s : State) : State :=
  if s.chip.start.st = .released && s.chip.start.restartDue && !railsMoving s.chip then restart false s else s
/-- HIF_RESET. It also leaves HALTED: R439 names that state, and R63 is taken to speak of the pins (DEDUCED, log 90). -/
def hifResetWrite (v : U32) (s : State) : State :=
  let st := s.chip.start.st
  if !hpReach s.chip || fld v.toNat 7 0 ≠ 0xA5 || fld v.toNat 11 8 ≠ 1 then s
  else if st = .recovery || st = .halted then restart (st = .recovery && s.chip.start.restartDue) s
  else if st = .released && s.chip.cfg.hostRestart then
    restartWhenDown (s.run (fun c => lowerPanel (updStart c (fun x => { x with restartDue := true }))))
  else s

/-! ## Commands -/

/-- POR_N_FALL (R42, R43). -/
def execPorNFall (pulseNs : Nat) (s : State) : Host.Outcome State Fault Refusal := .next (porFall pulseNs s)
/-- POR_N_RISE (R40, R41, R44). -/
def execPorNRise (strapBoot : BitVec 2) (strapI2cAddr : BitVec 3) (s : State) : Host.Outcome State Fault Refusal :=
  .next (porRise strapBoot strapI2cAddr s)
/-- START_STAGE_DONE (R44 to R58): in RECOVERY after a good `fw_update` it is the restart of R52, which follows the
response (log 37). -/
def execStartStageDone (r : StageReport) (s : State) : Host.Outcome State Fault Refusal :=
  .next (restartAfterUpdate (settleRelease s.chip (s.run (stageDone s.fuses r))))
/-- HIF_RESET (R439). -/
def execHifReset (v : U32) (s : State) : Host.Outcome State Fault Refusal := .next (hifResetWrite v s)
/-- REGISTER_WRITE (R427): HIF_RESET too takes its own effect. -/
def execRegisterWrite (off : Nat) (data : List Byte) (s : State) : Host.Outcome State Fault Refusal :=
  .next (if off = 0x4000 && data.length = 4 then hifResetWrite (w (ofLe data)) s else barWrite off data s)
/-- SHUTDOWN (R60). -/
def execShutdown (via : Via) (s : State) : Host.Outcome State Fault Refusal := .next (cciCommand 0x62 neverBusy shutdownBody via s)
/-- SHUTDOWN_STEP_DONE (R60, R61). -/
def execShutdownStepDone (r : StepReport) (s : State) : Host.Outcome State Fault Refusal := .next (s.run (shutStepDone r))
/-- FW_UPDATE (R52, R85). -/
def execFwUpdate (via : Via) (s : State) : Host.Outcome State Fault Refusal :=
  .next (cciCommand 0x60 neverBusy fwUpdateBody via s)
/-- FW_UPDATE_DONE (R85). -/
def execFwUpdateDone (s : State) : Host.Outcome State Fault Refusal := .next (s.runLive fwDone)
/-- POWER_SEQUENCE_STEP (R292, R293, R439). -/
def execPowerSequenceStep (s : State) : Host.Outcome State Fault Refusal := .next (restartWhenDown (s.runLive sequenceStep))
/-- PWR_FAULT (R294, R439). -/
def execPwrFault (n : Fin 4) (s : State) : Host.Outcome State Fault Refusal := .next (restartWhenDown (s.runLive (powerFault n.val)))
/-- THERMAL_SAMPLE (R455, R439). -/
def execThermalSample (halfDegrees : List Int) (s : State) : Host.Outcome State Fault Refusal :=
  .next (restartWhenDown (s.runLive (thermalSample halfDegrees)))

end Sys2Proof.Machine
end

