-- ==== Sys2Proof/Machine/Relief.lean ====
section
/-!
DEFINITION. The relief pair takes over (R390 to R392), and `fault_inject` (R394).
-/

namespace Sys2Proof.Machine

/-! ## The journal (R390) -/

/-- What the journal in the relief's memory holds: the sessions with their response caches and the highest UDP counters, and the
job table (`cci`); what resources are owned and which commits are pending; the table versions; the rail state and the step of a
`shutdown` that was reached. -/
structure Journal where
  cci : Cci
  streams : List Stream
  ports : List Port
  layers : List Layer
  surfs : List Surface
  mems : List MemRegion
  tables : Tables
  tableGen : Nat
  power : Power
  start : Start
deriving DecidableEq, Repr

/-- The journal between two commands: a record stands, acknowledged, before the effect it records, and each command is one step
(log 81). -/
def journalOf (c : Chip) : Journal :=
  { cci := c.cci, streams := c.streams, ports := c.ports, layers := c.layers, surfs := c.surfs, mems := c.mems,
    tables := c.tables, tableGen := c.tableGen, power := c.power, start := c.start }
/-- The relief replays the journal into its own memory. -/
def replay (j : Journal) (c : Chip) : Chip :=
  { c with
    cci := j.cci, streams := j.streams, ports := j.ports, layers := j.layers, surfs := j.surfs, mems := j.mems,
    tables := j.tables, tableGen := j.tableGen, power := j.power, start := j.start }

/-! ## Takeover (R391, R392) -/

/-- Step 6: a running `shutdown` goes on with the step reached, from its start; where the record of step 5 was already appended,
the repeated step appends one further. -/
def resumeShutdown (appended : Bool) (c : Chip) : Chip :=
  if c.start.st ≠ .shuttingDown then c
  else
    match c.start.shutStep with
    | 2 => lowerPanel c
    | 3 => enterPersist { c with store := { c.store with writing := none } }
    | 5 => if appended then appendRecord c else c
    | _ => c
/-- FLT_TAKEOVER, steps 1 to 6; `anew` messages had been taken and left no record. Without a relief no pair serves (R393). -/
def takeover (cause anew : Nat) (appended : Bool) (c : Chip) : Chip :=
  match c.sm.active with
  | none => c
  | some a =>
    if !running c then c
    else
      let c := beginIsolation c 11 a cause
      match c.sm.relief with
      | none => noStationmaster { c with sm := { c.sm with active := none } } cause a
      | some r =>
        let c := replay (journalOf c) { c with sm := { c.sm with active := some r, relief := none } }
        let c := raiseKey c 0xC010 11 cause a 0 [w r, w (carried c).length, w anew]
        resumeShutdown appended (interruptJobs c)

/-- The meaning of a command that a message names, by its OPCODE (R82). -/
def byOpcode (op : Nat) (via : Via) (s : State) : State :=
  let run := fun body => cciCommand op neverBusy body via s
  match op with
  | 0x01 => run sessionOpenBody
  | 0x02 => run sessionCloseBody
  | 0x03 => run resyncBody
  | 0x04 => run logReadBody
  | 0x10 => run streamBindBody
  | 0x11 => run timetableSetBody
  | 0x12 => run frameCommitBody
  | 0x13 => run (andDeal layerDefineBody)
  | 0x14 => run (andDeal layerCommitBody)
  | 0x15 => run crcWindowSetBody
  | 0x16 => run tableLoadBody
  | 0x20 => run memRegionDefineBody
  | 0x21 => run surfaceAllocBody
  | 0x22 => run surfaceFreeBody
  | 0x23 => run moverSubmitBody
  | 0x24 => run moverAbortBody
  | 0x25 => run scrubSetBody
  | 0x26 => run memWriteBody
  | 0x27 => run memReadBody
  | 0x30 => cciCommand op storeBusy storePutBody via s
  | 0x31 => cciCommand op storeBusy storeDeleteBody via s
  | 0x32 => cciCommand op storeBusy storeScheduleBody via s
  | 0x33 => run storeListBody
  | 0x34 => run storeAbortBody
  | 0x40 => run laneStatusBody
  | 0x41 => cciCommand op (fun e c => calBusy c (mf e 0x10 7 0)) calibRunBody via s
  | 0x42 => run powerSequenceBody
  | 0x50 => run perfConfigBody
  | 0x51 => run perfSnapshotBody
  | 0x60 => run fwUpdateBody
  | 0x62 => run shutdownBody
  | 0x63 => run keyLoadBody
  | 0x64 => run timeSetBody
  | _ => s

/-! ## `fault_inject` (R394) -/

/-- The unit fails, as its own fault command makes it fail. -/
def failUnit (cls unit kind : Nat) (c : Chip) : Chip :=
  let u := fld unit 15 8
  let b := fld unit 7 5
  match cls with
  | 0 => cellFault u b (fld unit 4 0) kind c
  | 1 => blockFault u b kind c
  | 2 => regionFault u kind c
  | 3 => mcFault unit kind c
  | 4 => decoderFault unit kind c
  | 5 => moverFault unit kind c
  | 6 => portFault unit c
  | 7 => loseLane c unit 4 (nowNs c)
  | 8 => returnLost unit 0 c
  | 9 => pathDown unit c
  | 10 => driveDown unit c
  | 11 => if c.sm.active = some unit then takeover kind 0 false c else if c.sm.relief = some unit then reliefFault kind c else c
  | 12 => trunkFault (fld unit 4 0) (unit.testBit 8) c
  | 13 => schedulerFault c
  | 14 =>
    let d := drawFree c
    timeVote (nth d.2.time.copies (d.1 % max 1 d.2.time.copies.length)) d.2
  | _ => endpointFault c
/-- The action for the fault of a unit is still to come: its boundary is not CLOSED, its port or the scheduler has yet to begin
again, or its lane to be switched. -/
def actionPending (c : Chip) (cls unit : Nat) : Bool :=
  match cls with
  | 0 | 1 | 2 | 4 | 5 => match isolation? c cls (unitKey cls unit) with
    | some i => i.junction = .drain || i.junction = .withdraw
    | none => false
  | 6 => (port c unit).stopped
  | 7 => match portOfLane c unit with
    | some p => (port c p).switching.any (fun x => x.1 = unit)
    | none => false
  | 13 => c.faults.schedStopped.isSome
  | _ => false
/-- The unit fails with the injected flag; a fault that changes nothing, since the unit is out of use already, is no injection, and
the next may follow (DESIGN CHOICE, log 42). -/
def inject (cls unit kind : Nat) (c : Chip) : Chip :=
  let before := actionPending c cls unit
  let c := updFaults c (fun f => { f with injecting := true, injected := (cls, unit, kind, nowNs c) :: f.injected })
  let c := failUnit cls unit kind (raiseFault c 0xC030 cls kind unit 0 [w kind])
  let out := (isolation? c cls (unitKey cls unit)).isSome
  let pending := !before && actionPending c cls unit
  updFaults c (fun f => { f with
    injecting := pending
    injected := if out || pending then f.injected else f.injected.filter (fun x => !(x.1 = cls && x.2.1 = unit)) })
/-- `fault_inject`: the response gives the instant, and precedes the events. -/
def faultInjectBody : Body := fun e c =>
  let cls := mf e 0x10 7 0
  let unit := unitBits cls (mw e 0x14)
  let kind := mf e 0x18 7 0
  if 15 < cls || !(causesOf cls).contains kind then reject c stINVALID_FIELD
  else if !unitExists c cls unit then reject c stUNKNOWN_RESOURCE
  else (inject cls unit kind c, ok [w c.time.ns.toNat, w (w32 c.time.sec.toNat)])

/-- Steps 7 and 8: the message that the failed pair had taken and not yet carried out. -/
def carryOn (via : Via) (s : State) : State :=
  match front s via with
  | none => s
  | some m =>
    match opcodeOf m.msg with
    | none => unknownMessage via s
    | some 0x61 => cciCommand 0x61 (fun _ c => c.faults.injecting) faultInjectBody via s
    | some op => byOpcode op via s
/-- How many messages a takeover carries out anew: the one taken that left no record. -/
def anewOf (r : TakeoverReport) (s : State) : Nat := match r.inHand with
  | some (via, journaled) => b01 (!journaled && (front s via).isSome)
  | none => 0
/-- FLT_TAKEOVER. -/
def takeoverStep (r : TakeoverReport) (s : State) : State :=
  let t := s.run (whereListed 11 r.cause.val (takeover r.cause.val (anewOf r s) r.recordAppended))
  if t.chip.sm.active = s.chip.sm.active then t
  else match r.inHand with
    | some (via, _) => carryOn via t
    | none => t

/-- FLT_TAKEOVER (R391). -/
def execFltTakeover (r : TakeoverReport) (s : State) : Host.Outcome State Fault Refusal := .next (takeoverStep r s)
/-- FAULT_INJECT (R394). -/
def execFaultInject (via : Via) (s : State) : Host.Outcome State Fault Refusal :=
  .next (cciCommand 0x61 (fun _ c => c.faults.injecting) faultInjectBody via s)

end Sys2Proof.Machine
end

