-- ==== Sys2Proof/Machine/Dispatch.lean ====
section
/-!
DEFINITION. One arm per command: the meaning of each row of spec/opcode_table.json.
-/

namespace Sys2Proof.Machine

def exec (i : Instr) (s : State) : Host.Outcome State Fault Refusal :=
  match i with
  | .porNFall pulseNs => Sys2Proof.Machine.execPorNFall pulseNs s
  | .porNRise strapBoot strapI2cAddr => Sys2Proof.Machine.execPorNRise strapBoot strapI2cAddr s
  | .startStageDone r => Sys2Proof.Machine.execStartStageDone r s
  | .endpointReset k => Sys2Proof.Machine.execEndpointReset k s
  | .hifMbxDoorbell v => Sys2Proof.Machine.execHifMbxDoorbell v s
  | .hifMbxRspConsumed v => Sys2Proof.Machine.execHifMbxRspConsumed v s
  | .hifEvtConsumed v => Sys2Proof.Machine.execHifEvtConsumed v s
  | .hifIrqStatus v arriving => Sys2Proof.Machine.execHifIrqStatus v arriving s
  | .hifIrqMask v => Sys2Proof.Machine.execHifIrqMask v s
  | .holdoffEnd vec => Sys2Proof.Machine.execHoldoffEnd vec s
  | .hifReset v => Sys2Proof.Machine.execHifReset v s
  | .hifPrfSnapshot v => Sys2Proof.Machine.execHifPrfSnapshot v s
  | .registerWrite off data => Sys2Proof.Machine.execRegisterWrite off data s
  | .bar2Read off len => Sys2Proof.Machine.execBar2Read off len s
  | .bar2Write off data => Sys2Proof.Machine.execBar2Write off data s
  | .i2cSubmit msg => Sys2Proof.Machine.execI2cSubmit msg s
  | .i2cDataFull piece => Sys2Proof.Machine.execI2cDataFull piece s
  | .i2cDataRelease => Sys2Proof.Machine.execI2cDataRelease s
  | .i2cResponseRead => Sys2Proof.Machine.execI2cResponseRead s
  | .cciDatagramReceived ep src bytes => Sys2Proof.Machine.execCciDatagramReceived ep src bytes s
  | .sessionOpen via => Sys2Proof.Machine.execSessionOpen via s
  | .sessionClose via => Sys2Proof.Machine.execSessionClose via s
  | .resync via => Sys2Proof.Machine.execResync via s
  | .logRead via => Sys2Proof.Machine.execLogRead via s
  | .streamBind via => Sys2Proof.Machine.execStreamBind via s
  | .timetableSet via => Sys2Proof.Machine.execTimetableSet via s
  | .frameCommit via => Sys2Proof.Machine.execFrameCommit via s
  | .layerDefine via => Sys2Proof.Machine.execLayerDefine via s
  | .layerCommit via => Sys2Proof.Machine.execLayerCommit via s
  | .crcWindowSet via => Sys2Proof.Machine.execCrcWindowSet via s
  | .tableLoad via => Sys2Proof.Machine.execTableLoad via s
  | .memRegionDefine via => Sys2Proof.Machine.execMemRegionDefine via s
  | .surfaceAlloc via => Sys2Proof.Machine.execSurfaceAlloc via s
  | .surfaceFree via => Sys2Proof.Machine.execSurfaceFree via s
  | .moverSubmit via => Sys2Proof.Machine.execMoverSubmit via s
  | .moverAbort via => Sys2Proof.Machine.execMoverAbort via s
  | .scrubSet via => Sys2Proof.Machine.execScrubSet via s
  | .memWrite via => Sys2Proof.Machine.execMemWrite via s
  | .memRead via => Sys2Proof.Machine.execMemRead via s
  | .storePut via => Sys2Proof.Machine.execStorePut via s
  | .storeDelete via => Sys2Proof.Machine.execStoreDelete via s
  | .storeSchedule via => Sys2Proof.Machine.execStoreSchedule via s
  | .storeList via => Sys2Proof.Machine.execStoreList via s
  | .storeAbort via => Sys2Proof.Machine.execStoreAbort via s
  | .laneStatus via => Sys2Proof.Machine.execLaneStatus via s
  | .calibRun via => Sys2Proof.Machine.execCalibRun via s
  | .powerSequence via => Sys2Proof.Machine.execPowerSequence via s
  | .perfConfig via => Sys2Proof.Machine.execPerfConfig via s
  | .perfSnapshot via => Sys2Proof.Machine.execPerfSnapshot via s
  | .fwUpdate via => Sys2Proof.Machine.execFwUpdate via s
  | .faultInject via => Sys2Proof.Machine.execFaultInject via s
  | .shutdown via => Sys2Proof.Machine.execShutdown via s
  | .shutdownStepDone r => Sys2Proof.Machine.execShutdownStepDone r s
  | .keyLoad via => Sys2Proof.Machine.execKeyLoad via s
  | .timeSet via => Sys2Proof.Machine.execTimeSet via s
  | .sessionLapsed id => Sys2Proof.Machine.execSessionLapsed id s
  | .abortSettled r => Sys2Proof.Machine.execAbortSettled r s
  | .dstPacketReceived ep d => Sys2Proof.Machine.execDstPacketReceived ep d s
  | .holeDeclaredLost st seq => Sys2Proof.Machine.execHoleDeclaredLost st seq s
  | .dstPathSilent st ep => Sys2Proof.Machine.execDstPathSilent st ep s
  | .dstPathDown ep => Sys2Proof.Machine.execDstPathDown ep s
  | .dstPathUp ep rateGbs => Sys2Proof.Machine.execDstPathUp ep rateGbs s
  | .dstStreamLost st => Sys2Proof.Machine.execDstStreamLost st s
  | .dstAnchorRequested st => Sys2Proof.Machine.execDstAnchorRequested st s
  | .authTrailerTimeout st frame => Sys2Proof.Machine.execAuthTrailerTimeout st frame s
  | .dstCounters ep => Sys2Proof.Machine.execDstCounters ep s
  | .tileRowDecoded r => Sys2Proof.Machine.execTileRowDecoded r s
  | .decodeResume dd => Sys2Proof.Machine.execDecodeResume dd s
  | .tileComplete tile => Sys2Proof.Machine.execTileComplete tile s
  | .tileRunStopped tile => Sys2Proof.Machine.execTileRunStopped tile s
  | .tileRedispatch tile => Sys2Proof.Machine.execTileRedispatch tile s
  | .projection workBytesPerSecond => Sys2Proof.Machine.execProjection workBytesPerSecond s
  | .latestStartPassed tile => Sys2Proof.Machine.execLatestStartPassed tile s
  | .frameDeadline port => Sys2Proof.Machine.execFrameDeadline port s
  | .l3CopyDone tile => Sys2Proof.Machine.execL3CopyDone tile s
  | .frameBoundary port => Sys2Proof.Machine.execFrameBoundary port s
  | .lineInstant port => Sys2Proof.Machine.execLineInstant port s
  | .departureWindowClose port => Sys2Proof.Machine.execDepartureWindowClose port s
  | .junctionDrainEnd u => Sys2Proof.Machine.execJunctionDrainEnd u s
  | .junctionClosed u => Sys2Proof.Machine.execJunctionClosed u s
  | .cellFault region block cell cause => Sys2Proof.Machine.execCellFault region block cell cause s
  | .blockFault region block cause => Sys2Proof.Machine.execBlockFault region block cause s
  | .regionFault region cause => Sys2Proof.Machine.execRegionFault region cause s
  | .mcFault mc cause => Sys2Proof.Machine.execMcFault mc cause s
  | .mcHeartbeat mc failedTransfers => Sys2Proof.Machine.execMcHeartbeat mc failedTransfers s
  | .decoderFault dd cause => Sys2Proof.Machine.execDecoderFault dd cause s
  | .moverFault m cause => Sys2Proof.Machine.execMoverFault m cause s
  | .scanOutPortFault port => Sys2Proof.Machine.execScanOutPortFault port s
  | .trunkLinkFault stop south => Sys2Proof.Machine.execTrunkLinkFault stop south s
  | .schedulerFault => Sys2Proof.Machine.execSchedulerFault s
  | .fltTimeVote copy => Sys2Proof.Machine.execFltTimeVote copy s
  | .hpEndpointFault => Sys2Proof.Machine.execHpEndpointFault s
  | .stoDriveDown cs => Sys2Proof.Machine.execStoDriveDown cs s
  | .stoDriveUp cs r => Sys2Proof.Machine.execStoDriveUp cs r s
  | .fltTakeover r => Sys2Proof.Machine.execFltTakeover r s
  | .reliefFault cause => Sys2Proof.Machine.execReliefFault cause s
  | .commonRailLoss => Sys2Proof.Machine.execCommonRailLoss s
  | .fltRelocated mc => Sys2Proof.Machine.execFltRelocated mc s
  | .retest u => Sys2Proof.Machine.execRetest u s
  | .retestDone u pass code => Sys2Proof.Machine.execRetestDone u pass code s
  | .trainingPhaseEnd lane r => Sys2Proof.Machine.execTrainingPhaseEnd lane r s
  | .trainingTimeout lane phase => Sys2Proof.Machine.execTrainingTimeout lane phase s
  | .laneReport quad payload => Sys2Proof.Machine.execLaneReport quad payload s
  | .laneFault quad payload => Sys2Proof.Machine.execLaneFault quad payload s
  | .pointsSwitch port => Sys2Proof.Machine.execPointsSwitch port s
  | .laneRetry lane => Sys2Proof.Machine.execLaneRetry lane s
  | .lnkReturnLost quad cause => Sys2Proof.Machine.execLnkReturnLost quad cause s
  | .lnkReturnUp quad => Sys2Proof.Machine.execLnkReturnUp quad s
  | .tapAdapt lane => Sys2Proof.Machine.execTapAdapt lane s
  | .laneWake lane => Sys2Proof.Machine.execLaneWake lane s
  | .drvHello quad payload => Sys2Proof.Machine.execDrvHello quad payload s
  | .cmdAck quad payload => Sys2Proof.Machine.execCmdAck quad payload s
  | .cmdRepeat cmdSeq => Sys2Proof.Machine.execCmdRepeat cmdSeq s
  | .drvStatus quad payload => Sys2Proof.Machine.execDrvStatus quad payload s
  | .pseqGoodRise n => Sys2Proof.Machine.execPseqGoodRise n s
  | .powerSequenceStep => Sys2Proof.Machine.execPowerSequenceStep s
  | .pseqGoodTimeout n => Sys2Proof.Machine.execPseqGoodTimeout n s
  | .pwrFault n => Sys2Proof.Machine.execPwrFault n s
  | .mapRestoreDone => Sys2Proof.Machine.execMapRestoreDone s
  | .persistenceTimer => Sys2Proof.Machine.execPersistenceTimer s
  | .stoPersisted written => Sys2Proof.Machine.execStoPersisted written s
  | .storePutDone job => Sys2Proof.Machine.execStorePutDone job s
  | .storeReadAhead st => Sys2Proof.Machine.execStoreReadAhead st s
  | .itemEnd st r => Sys2Proof.Machine.execItemEnd st r s
  | .memTemperatureRead mc halfDegrees => Sys2Proof.Machine.execMemTemperatureRead mc halfDegrees s
  | .refreshDue mc ch bank passOrStreamWaits => Sys2Proof.Machine.execRefreshDue mc ch bank passOrStreamWaits s
  | .refreshWindowStart mc => Sys2Proof.Machine.execRefreshWindowStart mc s
  | .rowActivation mc ch bank row => Sys2Proof.Machine.execRowActivation mc ch bank row s
  | .retrainDue mc ch linkRetries failedTransfers => Sys2Proof.Machine.execRetrainDue mc ch linkRetries failedTransfers s
  | .retrainPauseEnd mc ch pass => Sys2Proof.Machine.execRetrainPauseEnd mc ch pass s
  | .scrubVisit mc word f => Sys2Proof.Machine.execScrubVisit mc word f s
  | .memRepaired mc word => Sys2Proof.Machine.execMemRepaired mc word s
  | .strongFillDone region => Sys2Proof.Machine.execStrongFillDone region s
  | .moverLineComplete m => Sys2Proof.Machine.execMoverLineComplete m s
  | .ptpMessage ep m => Sys2Proof.Machine.execPtpMessage ep m s
  | .announceTimeout => Sys2Proof.Machine.execAnnounceTimeout s
  | .syncSend ep => Sys2Proof.Machine.execSyncSend ep s
  | .ppsInEdge => Sys2Proof.Machine.execPpsInEdge s
  | .ppsInLost => Sys2Proof.Machine.execPpsInLost s
  | .ref10mLost => Sys2Proof.Machine.execRef10mLost s
  | .ref10mRestored => Sys2Proof.Machine.execRef10mRestored s
  | .wholeSecond => Sys2Proof.Machine.execWholeSecond s
  | .ppsOutPulseEnd => Sys2Proof.Machine.execPpsOutPulseEnd s
  | .holdoverLimit => Sys2Proof.Machine.execHoldoverLimit s
  | .timStatus => Sys2Proof.Machine.execTimStatus s
  | .calAutoRun domain => Sys2Proof.Machine.execCalAutoRun domain s
  | .calRunDone domain r => Sys2Proof.Machine.execCalRunDone domain r s
  | .trimEvaluate halfDegrees => Sys2Proof.Machine.execTrimEvaluate halfDegrees s
  | .calRecord => Sys2Proof.Machine.execCalRecord s
  | .perfConfigApply => Sys2Proof.Machine.execPerfConfigApply s
  | .readerPass => Sys2Proof.Machine.execReaderPass s
  | .snapshotLatch => Sys2Proof.Machine.execSnapshotLatch s
  | .prfSnapshotDone => Sys2Proof.Machine.execPrfSnapshotDone s
  | .thermalSample halfDegrees => Sys2Proof.Machine.execThermalSample halfDegrees s
  | .islandClockStep region => Sys2Proof.Machine.execIslandClockStep region s
  | .unknownCommand via => Sys2Proof.Machine.execUnknownCommand via s
  | .fwUpdateDone => Sys2Proof.Machine.execFwUpdateDone s
  | .pseqGoodFall n => Sys2Proof.Machine.execPseqGoodFall n s
  | .referenceClockLoss islandPll => Sys2Proof.Machine.execReferenceClockLoss islandPll s
  | .railOrClockGoodAgain u => Sys2Proof.Machine.execRailOrClockGoodAgain u s
  | .pcieConfigWrite w => Sys2Proof.Machine.execPcieConfigWrite w s
  | .msixTableWrite vec addr data masked => Sys2Proof.Machine.execMsixTableWrite vec addr data masked s
  | .networkControlFrame ep f => Sys2Proof.Machine.execNetworkControlFrame ep f s
  | .delayReqSend crossing => Sys2Proof.Machine.execDelayReqSend crossing s
  | .bulkCopyPage mc page => Sys2Proof.Machine.execBulkCopyPage mc page s

end Sys2Proof.Machine
end

