-- ==== Sys2Proof/Machine/Tick.lean ====
section
/-!
DEFINITION. One tick of the 500 MHz clock of the time unit (R357, R358).
-/

namespace Sys2Proof.Machine

/-- The counter after one tick: INCREMENT is added, and a carry out of the nanoseconds advances the seconds. -/
def addIncrement (t : Time) : Time :=
  let v := t.ns.toNat * 2 ^ 44 + t.frac.toNat + t.inc.toNat
  let ns := v / 2 ^ 44
  { t with sec := if 1000000000 ≤ ns then t.sec + 1 else t.sec
           ns := BitVec.ofNat 30 (ns % 1000000000), frac := BitVec.ofNat 44 v }
/-- Some stream holds a loss that DST_LOSS has not reported. -/
def lossWaits (c : Chip) : Bool := c.streams.any (fun s => s.lossPackets + s.lossRows ≠ 0)
/-- DST_LOSS of every stream whose 10 ms have passed (R107). -/
def reportLosses (c : Chip) : Chip := (List.range 16).foldl reportLoss c

/-- The counter of a running clock takes INCREMENT, and the lanes' count the 56.25 UI of a tick (log 84). -/
def advanceClock (c : Chip) : Chip := if c.time.runs then countUi { c with time := addIncrement c.time } 450 else c
/-- The clock ticks: the counter runs from stage S5, and a loss held back for its 10 ms is reported once they have passed. -/
def clockTick (s : State) : State :=
  let s := { s with chip := advanceClock s.chip }
  if lossWaits s.chip then s.runLive reportLosses else s

end Sys2Proof.Machine
end

