-- ==== Sys2Proof/Machine/Wire.lean ====
section
/-!
DEFINITION. What the panel lanes carry (R246 to R253, R257, R262, R272, R273, R278 to R284): the packets, blocks, codewords and
symbols that the outputs of a state come to. They are functions of the state: a far end reads them, and no command changes them.
-/

namespace Sys2Proof.Machine

/-! ## Blocks and the scrambler (R248, R249, R251, R253) -/

/-- A byte, bit 7 first. -/
def byteBits (b : Byte) : List Bool := (List.range 8).map (fun i => b.toNat.testBit (7 - i))
/-- The sync header of a data block and of a control block. -/
def dataHeader : List Bool := [false, true]
def controlHeader : List Bool := [true, false]
/-- One bit of the scrambler: the bit, and its state advanced. -/
def scrambler (s : Nat) : Bool × Nat :=
  let b := s.testBit 30 ^^ s.testBit 27
  (b, (2 * s + b01 b) % 2 ^ 31)
/-- Payload bits scrambled from a state, which is returned advanced; descrambling is the same operation. -/
def scrambleBits : List Bool → Nat → List Bool × Nat
  | [], s => ([], s)
  | x :: l, s =>
    let r := scrambleBits l (scrambler s).2
    ((x ^^ (scrambler s).1) :: r.1, r.2)
/-- The state that slot 1 of a superframe is seeded with. -/
def scramblerSeed (laneId : Nat) : Nat := 0x7FFFFF00 ||| laneId
/-- The comma block (Table 9-2). -/
def commaBlock (laneId stripe sf : Nat) : List Byte :=
  beBytes 0x4E8B1D72 4 ++ beBytes 0xB4E12D87 4 ++ beBytes 0x5AC3369C 4 ++ beBytes (laneId * 2 ^ 24 + stripe * 65536 + sf % 65536) 4
/-- The control blocks of Table 9-3. -/
def tsBlock (phase at_ stripe n : Nat) : List Byte :=
  controlBlock (0x01 * 2 ^ 24 + phase * 65536 + at_) (stripe * 2 ^ 24 + n * 65536)
def idleBlock : List Byte := controlBlock (0x02 * 2 ^ 24) 0
def lpEnterBlock (deep : Bool) (wakeSf : Nat) : List Byte := controlBlock (0x03 * 2 ^ 24 + (1 + b01 deep) * 65536) (wakeSf * 65536)
/-- The slots of a superframe after its comma, data or control, each with its payload scrambled. -/
def scrambledSlots : List (Bool × List Byte) → Nat → List Bool
  | [], _ => []
  | x :: l, s =>
    let r := scrambleBits (x.2.flatMap byteBits) s
    (if x.1 then controlHeader else dataHeader) ++ r.1 ++ scrambledSlots l r.2
/-- The 534,560 message bits of a superframe: its comma, then its slots 1 to 4,111. -/
def superframeBits (laneId stripe sf : Nat) (slots : List (Bool × List Byte)) : List Bool :=
  controlHeader ++ (commaBlock laneId stripe sf).flatMap byteBits ++ scrambledSlots slots (scramblerSeed laneId)
/-- A return superframe has 256 slots and no FEC (R259). -/
def returnBits (quad sf : Nat) (messages : List (List Byte)) : List Bool :=
  superframeBits (0x80 + quad) 0xFF sf (messages.map (fun m => (true, m)))

/-! ## The code of a lane (R250) -/

/-- GF(2¹⁰) by x¹⁰ + x³ + 1: the double of an element, products, and the powers of α. -/
def gfDouble (x : Nat) : Nat := if x.testBit 9 then (2 * x) ^^^ 0x409 else 2 * x
def gfMul (x y : Nat) : Nat :=
  (List.range 10).foldl (fun acc i => gfDouble acc ^^^ (if y.testBit (9 - i) then x else 0)) 0
def gfPower : Nat → Nat
  | 0 => 1
  | j + 1 => gfDouble (gfPower j)
/-- g(x), the product of x − αʲ for j below n, its highest coefficient first. -/
def rsGenerator : Nat → List Nat
  | 0 => [1]
  | n + 1 => List.zipWith (· ^^^ ·) (rsGenerator n ++ [0]) (0 :: (rsGenerator n).map (gfMul (gfPower n)))
/-- The 30 parity symbols of a message. -/
def rsParity (m : List Nat) : List Nat :=
  let g := (rsGenerator 30).tail
  m.foldl (fun rem s =>
    let f := s ^^^ rem.headD 0
    List.zipWith (· ^^^ ·) (rem.tail ++ [0]) (g.map (gfMul f))) (List.replicate 30 0)
/-- Symbol k of a bit stream: ten bits, bit 9 first. -/
def symbolAt (b : List Bool) (k : Nat) : Nat := ((b.drop (10 * k)).take 10).foldl (fun n x => 2 * n + b01 x) 0
def symbolBits (s : Nat) : List Bool := (List.range 10).map (fun i => s.testBit (9 - i))
/-- A codeword of 5,440 bits from 5,140 message bits. -/
def codeword (b : List Bool) : List Bool :=
  let m := (List.range 514).map (symbolAt b)
  (m ++ rsParity m).flatMap symbolBits
/-- The 104 codewords of a superframe (R251). -/
def superframeCode (b : List Bool) : List Bool := (List.range 104).flatMap (fun k => codeword ((b.drop (5140 * k)).take 5140))

/-! ## Symbols (R247) -/

/-- The PAM4 level of two bits, the first sent first (Table 9-1). -/
def pam4 (first second : Bool) : Int := if first then (if second then 1 else 3) else (if second then -1 else -3)
/-- The symbols of a bit stream. -/
def pam4Symbols : List Bool → List Int
  | x :: y :: l => pam4 x y :: pam4Symbols l
  | _ => []

/-! ## What a lane sends (R246, R257, R261, R271, R272) -/

/-- What a panel lane sends. -/
inductive LaneSignal where
  /-- the transmitter is off -/
  | electricalIdle
  /-- alternating +3 and −3 symbols (Table 9-4, WAKE) -/
  | clockPattern
  /-- superframes with TS of a phase in slot 1 and IDLE elsewhere -/
  | training (phase : Nat)
  /-- superframes that carry a stripe, with IDLE in every slot that no block fills -/
  | service (stripe : Nat)
  /-- comma and IDLE blocks, STRIPE 0xFE -/
  | siding
deriving DecidableEq, Repr

/-- What a lane sends in a state; a lane that wakes sends clock pattern until S, and LP-deep until one superframe before S, which
then is of comma and IDLE (R273). -/
def laneSignal (c : Chip) (l : Nat) : LaneSignal :=
  let x := lane c l
  let left := (x.wakeUi.map (untilUi c)).getD 0
  if (portOfLane c l).isNone || x.unusable || x.asleep || (burstUi x.deep < left && left < 32768 * superframeUi) then .electricalIdle
  else if 0 < left && left ≤ burstUi x.deep && (!x.deep || superframeUi < left) then .clockPattern
  else match x.st with
    | .idle | .lost => .electricalIdle
    | .wake => .clockPattern
    | .align => .training 1
    | .eq => .training 2
    | .check => .training 3
    | .active => .service x.stripe
    | .siding => .siding
/-- STRIPE of the commas of a signal. -/
def commaStripe : LaneSignal → Nat
  | .service s => s
  | .siding => 0xFE
  | .electricalIdle | .clockPattern | .training _ => 0xFF
/-- The slots 1 to 4,111 of a superframe of a lane that no data block and no other control block fills. -/
def quietSlots (g : LaneSignal) (stripe n : Nat) : List (Bool × List Byte) :=
  match g with
  | .training k => (true, tsBlock k 0 stripe n) :: List.replicate 4110 (true, idleBlock)
  | _ => List.replicate 4111 (true, idleBlock)
/-- Alternating +3 and −3 symbols (Table 9-4, R273). -/
def clockSymbols (n : Nat) : List Int := (List.range n).map (fun k => if k % 2 = 0 then 3 else -3)
/-- The symbols that a lane sends from now on for one superframe's time, a wake burst up to its end (R273), where no data block fills a slot; none from a
transmitter that is off. -/
def quietSuperframe (c : Chip) (l : Nat) : List Int :=
  let g := laneSignal c l
  let all := superframeUi / 8
  let y := lane c l
  let left := (y.wakeUi.map (untilUi c)).getD 0
  let burst := if y.wakeUi.isNone || left = 0 then all else min all ((if y.deep then left - superframeUi else left) / 8)
  let x := match portOfLane c l with
    | some p => trainingStripe c p l
    | none => (0xFF, 0)
  match g with
  | .electricalIdle => []
  | .clockPattern => clockSymbols burst ++ (pam4Symbols (superframeCode (superframeBits l 0xFF (sfCount c)
      (quietSlots .siding x.1 x.2)))).take (all - burst)
  | _ => pam4Symbols (superframeCode (superframeBits l (commaStripe g) (sfCount c) (quietSlots g x.1 x.2)))

/-! ## Blocks in slots (R251, R262) -/

/-- The stripe and the slot of data block j of a line, on a stripes, from the first slot at the line's transmit instant on. -/
def blockPlace (a first j : Nat) : Nat × Nat := (j % a, dataSlot first (j / a))
/-- The blocks of a line that are sent, by their numbers: its row, and what follows it. -/
def lineBlocks (c : Chip) (p k i : Nat) (t : Timetable) (pd : Panel) : List (Nat × List Byte) :=
  let numbered := fun (first : Nat) (l : List (List Byte)) => (List.range l.length).map (fun j => (first + j, nth l j))
  (match c.out.rows.find? (fun r => r.1 = p && r.2.1 = w32 k && r.2.2.1 = t.firstRow + i) with
    | some r => numbered 0 (sentRow pd r)
    | none => []) ++
  (c.out.items.filter (fun x => x.port = p && x.boundary = k && x.line = i && x.switchLane.isNone)).flatMap
    (fun x => numbered x.first (blocks16 x.data))
/-- The slots that a line fills on a lane: its stripe's blocks, and before them its SWITCH (R265). -/
def lineSlots (c : Chip) (p l k i : Nat) (t : Timetable) (pd : Panel) : List (Nat × Bool × List Byte) :=
  let a := (activeLanes c p).length
  let first := firstSlot (placeNs c (lineNs (port c p) t i))
  (c.out.items.filter (fun x => x.port = p && x.boundary = k && x.line = i && x.switchLane = some l)).map
    (fun x => (slotBefore (dataSlot first 0), true, x.data)) ++
  ((lineBlocks c p k i t pd).filter (fun b => a ≠ 0 && b.1 % a = (lane c l).stripe)).map
    (fun b => ((blockPlace a first b.1).2, false, b.2))
/-- Slots 1 to 4,111 of a superframe: what fills them, and IDLE elsewhere. -/
def filledSlots (sf : Nat) (fill : List (Nat × Bool × List Byte)) : List (Bool × List Byte) :=
  (List.range 4111).map (fun i => match fill.find? (fun x => x.1 = 4112 * sf + i + 1) with
    | some x => x.2
    | none => (true, idleBlock))
/-- The symbols of superframe sf of an active lane: what every line of the front frame that begins in it, or before it, fills of
its slots. -/
def laneSuperframe (c : Chip) (l sf : Nat) : List Int :=
  let fill := match portOfLane c l with
    | some p => match (port c p).tt, rowPanel c (port c p) with
      | some t, some pd => (List.range (t.active + t.blank)).flatMap (fun i => lineSlots c p l (port c p).cur i t pd)
      | _, _ => []
    | none => []
  pam4Symbols (superframeCode (superframeBits l (commaStripe (laneSignal c l)) sf (filledSlots sf fill)))

end Sys2Proof.Machine
end

