-- ==== Sys2Proof/Safety.lean ====
section
/-!
DEFINITION. The terms that claims use: what it means that a command does what its rule says, that a CCI message is
admitted and answered, that the rings and logs of the host interface stay within their sizes, and what delivery leaves alone.
-/

namespace Sys2Proof.Machine

/-- In state `s` the command `i` brings the chip to `c`, the events that `c` has waiting are delivered (R70), and the
response of an abort that this settled is written (R89). Nothing else changes. -/
def Does (i : Instr) (s : State) (c : Chip) : Prop := exec i s = .next (settleAborts (flush { s with chip := c }))

/-- In state `s` the command `i` brings the host interface to `h`, with what waits delivered. Nothing else changes. -/
def DoesHif (i : Instr) (s : State) (h : Hif) : Prop := exec i s = .next (flush { s with hif := h })

/-- In state `s` the command `i` changes nothing. -/
def Ignores (i : Instr) (s : State) : Prop := exec i s = .next s

/-- The message `m` as the checks and the command see it, once it is off its transport. -/
def envAt (s : State) (via : Via) (m : Waiting) : Env := envOf (popFront s via) via m

/-- The chip when the checks are made: the message is off its transport and its session has been heard (R81). -/
def chipAt (s : State) (via : Via) (m : Waiting) : Chip := heard (popFront s via).chip (sid (envAt s via m))

/-- The message `m` waits at the front of its transport, names the command `op`, and passes checks 1 to 7 of Table 3-7;
`consume` says whether its SEQ is consumed. -/
abbrev Admitted (s : State) (via : Via) (m : Waiting) (op : Nat) (consume : Bool) : Prop :=
  front s via = some m ∧ opcodeOf m.msg = some op ∧ (s.chip.start.st ≠ .halted ∨ op = 0x03 ∨ op = 0x04) ∧
    verdict (chipAt s via m) (envAt s via m) op false = .carryOut consume

/-- In state `s` the command `i` carries out the message `m` of command `op`: the chip becomes `c`, the response `r`
is written with the message's SEQ consumed where `consume` says so, and the events that `c` has waiting follow (R71). -/
def Answered (i : Instr) (s : State) (via : Via) (m : Waiting) (op : Nat) (consume : Bool) (c : Chip) (r : Reply) : Prop :=
  exec i s = .next (flush (finish { popFront s via with chip := c } (envAt s via m) op r
    (consume && decide (sid (envAt s via m) ≠ 0))))

/-- The commands of the data plane and of the management agents: those that only happen in RELEASED and SHUTTING_DOWN. -/
def liveCommand : Instr → Bool
  | .abortSettled .. | .dstPacketReceived .. | .holeDeclaredLost .. | .dstPathSilent .. | .dstPathDown .. | .dstPathUp ..
  | .dstStreamLost .. | .dstAnchorRequested .. | .authTrailerTimeout .. | .dstCounters .. | .tileRowDecoded ..
  | .decodeResume .. | .tileComplete .. | .tileRunStopped .. | .tileRedispatch .. | .projection .. | .latestStartPassed ..
  | .frameDeadline .. | .l3CopyDone .. | .frameBoundary .. | .lineInstant .. | .departureWindowClose .. | .stoDriveDown ..
  | .stoDriveUp .. | .trainingPhaseEnd .. | .trainingTimeout .. | .laneReport .. | .laneFault .. | .pointsSwitch ..
  | .laneRetry .. | .lnkReturnLost .. | .lnkReturnUp .. | .tapAdapt .. | .laneWake .. | .drvHello .. | .cmdAck ..
  | .cmdRepeat .. | .drvStatus .. | .powerSequenceStep | .pwrFault .. | .mapRestoreDone | .persistenceTimer
  | .stoPersisted .. | .storePutDone .. | .storeReadAhead .. | .itemEnd .. | .memTemperatureRead .. | .refreshDue ..
  | .refreshWindowStart .. | .rowActivation .. | .retrainDue .. | .retrainPauseEnd .. | .scrubVisit .. | .memRepaired ..
  | .strongFillDone .. | .moverLineComplete .. | .calAutoRun .. | .calRunDone .. | .trimEvaluate .. | .calRecord
  | .perfConfigApply | .snapshotLatch | .thermalSample .. | .islandClockStep .. | .fwUpdateDone | .networkControlFrame .. => true
  | _ => false

/-- The CCI messages that are carried out, each with its OPCODE and its command. -/
def messageCommands : List (Nat × (Via → Instr)) :=
  [(0x01, .sessionOpen), (0x02, .sessionClose), (0x03, .resync), (0x04, .logRead), (0x10, .streamBind),
   (0x11, .timetableSet), (0x12, .frameCommit), (0x13, .layerDefine), (0x14, .layerCommit), (0x15, .crcWindowSet),
   (0x16, .tableLoad), (0x20, .memRegionDefine), (0x21, .surfaceAlloc), (0x22, .surfaceFree), (0x23, .moverSubmit),
   (0x24, .moverAbort), (0x25, .scrubSet), (0x26, .memWrite), (0x27, .memRead), (0x30, .storePut), (0x31, .storeDelete),
   (0x32, .storeSchedule), (0x33, .storeList), (0x34, .storeAbort), (0x40, .laneStatus), (0x41, .calibRun),
   (0x42, .powerSequence), (0x50, .perfConfig), (0x51, .perfSnapshot), (0x60, .fwUpdate), (0x61, .faultInject),
   (0x62, .shutdown), (0x63, .keyLoad), (0x64, .timeSet)]

/-- The rings, the hold queue and the logs stay within the sizes of R65, R70, R84 and R395, and the inbound ring's
bytes are in canonical form. -/
structure RingsWithin (s : State) : Prop where
  inbound : ringUsed s.hif.inAccepted s.hif.inConsumed ≤ 256
  responses : ringUsed s.hif.rspProduced s.hif.rspConsumed ≤ 256
  events : ringUsed s.hif.evtProduced s.hif.evtConsumed ≤ 1024
  responseSlots : s.hif.rspRing.length ≤ 256
  eventSlots : s.hif.evtRing.length ≤ 1024
  held : s.evt.hold.length ≤ 256
  kept : s.evt.history.length ≤ 65536
  faults : s.evt.faultLog.length ≤ 4096
  ring : Memory.wf s.hif.inRing = true

/-- The chip without what delivery may change: the signals that wait, the records of what the limits of R70 hold back, the
datagrams that carry events (R96), and the words at which a read of this command fails (log 99). -/
def Chip.atRest (c : Chip) : Chip :=
  { c with signals := [], limits := [], crcBad := [], cci := { c.cci with udpSent := [] }, out := { c.out with udp := [] } }

end Sys2Proof.Machine
end

