-- ==== Sys2Proof/Certificates/Slice0/Obligations.lean ====
section
/-!
DEFINITION. The statements about the machine. `Does`, `DoesHif`, `Ignores` and `Answered` (Sys2Proof/Safety.lean) each say what
the next state of a command is, whole, so every one of them is also a frame: what the operation on its right-hand side does not
name is as it was.
-/

open Sys2Proof Sys2Proof.Machine

/-! ## The step, reset and the host interface -/

/-- The command at the front of the queue is carried out with the queue's rest, and with no command waiting the clock
ticks (log 4, the model's choice: 00_scope gives the block no instruction fetch). -/
def Obligations.StepCarriesOutFrontCommand : Prop :=
  (∀ (s : State) (c : Instr) (rest : List Instr),
    step { s with pending := c :: rest } = exec c { s with pending := rest }) ∧
  (∀ s : State, s.pending = [] → step s = .next (clockTick s))

/-- R2, R5, R51: every command of the table leads to a next state, in every state; the commands that wait stay as they are, and
so do the fuses, but for the floor that the end of the last start stage burns.
That a command which its rule does not admit changes nothing is the model's (log 2). -/
def Obligations.EveryCommandCompletes : Prop :=
  ∀ (i : Instr) (s : State), ∃ t, exec i s = .next t ∧ t.pending = s.pending ∧
    (t.fuses = s.fuses ∨ (s.chip.start.st = .opening ∧ (∃ r, i = .startStageDone r) ∧ ∃ x, t.fuses = burnFloor x s.fuses))

/-- What the spec gives the host interface, the time unit and the outputs at controller reset (R42, R43, R357, R358, Tables
17-3 to 17-7). -/
def Obligations.ResetValues : Prop :=
  let h := State.reset.hif
  let c := State.reset.chip
  (h.inAccepted = 0 ∧ h.inConsumed = 0 ∧ h.rspProduced = 0 ∧ h.rspConsumed = 0 ∧ h.evtProduced = 0 ∧ h.evtConsumed = 0 ∧
    h.doorbellBad = 0 ∧ h.discarded = 0 ∧ h.idxBad = 0) ∧
  (h.irqStatus = 0 ∧ h.irqMask = 0x7FFFFF#32 ∧ h.holdoff = 0 ∧ h.threshold = 64) ∧
  (h.aptRegion = 0 ∧ h.aptMode1 = false ∧ h.aptBase = 0 ∧ h.linearSize = 0 ∧ h.aptStatus = 0 ∧ h.aptFault = 0 ∧
    h.guardCount = 0 ∧ h.guardLast = 0) ∧
  (c.time.sec = 0 ∧ c.time.ns = 0 ∧ c.time.frac = 0 ∧ c.time.inc = 0x200000000000#48 ∧ c.time.st = .freerun) ∧
  (c.sysReady = false ∧ c.power.en = 0 ∧ c.power.irefOn = false ∧ c.time.ppsOut = false) ∧
  c.start.st = .fuses ∧ State.reset.evt.nextSeq = 1 ∧ State.reset.pending = []

/-- R67: bytes that the host writes into the inbound ring stand in their slots; a doorbell value d is accepted when both
conditions of R67 hold, one that covers 256 messages among them, and any other value is ignored and counted in
HIF_MBX_DOORBELL_BAD, with the HIF_ERROR cause of Table 17-8. -/
def Obligations.DoorbellsAreChecked : Prop :=
  (∀ (s : State) (off : Nat) (d : List Byte), hpReach s.chip = true → 0x100000 ≤ off → off + d.length ≤ 0x104000 →
    DoesHif (.registerWrite off d) s { s.hif with inRing := Memory.setBytes s.hif.inRing (off - 0x100000) d }) ∧
  (∀ (s : State) (d : U32), hpReach s.chip = true →
    ((d - s.hif.inConsumed).toNat ≤ 256 ∧ (d - s.hif.inAccepted).toNat < 2 ^ 31 →
      DoesHif (.hifMbxDoorbell d) s { s.hif with inAccepted := d }) ∧
    (¬((d - s.hif.inConsumed).toNat ≤ 256 ∧ (d - s.hif.inAccepted).toNat < 2 ^ 31) →
      DoesHif (.hifMbxDoorbell d) s (setCause { s.hif with doorbellBad := satInc s.hif.doorbellBad } 21)))

/-- R430: a host write of a consumer index is accepted only up to the producer index; any other keeps the field, counts in
HIF_IDX_BAD and sets the HIF_ERROR cause. A full ring is not written to, and host writes to the response and event rings are
ignored. -/
def Obligations.ConsumerIndicesAreChecked : Prop :=
  (∀ (s : State) (v : U32), hpReach s.chip = true →
    ((v - s.hif.rspConsumed).toNat ≤ (s.hif.rspProduced - s.hif.rspConsumed).toNat →
      DoesHif (.hifMbxRspConsumed v) s { s.hif with rspConsumed := v }) ∧
    (¬(v - s.hif.rspConsumed).toNat ≤ (s.hif.rspProduced - s.hif.rspConsumed).toNat →
      DoesHif (.hifMbxRspConsumed v) s (setCause { s.hif with idxBad := satInc s.hif.idxBad } 21)) ∧
    ((v - s.hif.evtConsumed).toNat ≤ (s.hif.evtProduced - s.hif.evtConsumed).toNat →
      DoesHif (.hifEvtConsumed v) s { s.hif with evtConsumed := v }) ∧
    (¬(v - s.hif.evtConsumed).toNat ≤ (s.hif.evtProduced - s.hif.evtConsumed).toNat →
      DoesHif (.hifEvtConsumed v) s (setCause { s.hif with idxBad := satInc s.hif.idxBad } 21))) ∧
  (∀ (s : State) (off : Nat) (d : List Byte), hpReach s.chip = true → 0x104000 ≤ off → off + d.length ≤ 0x118000 →
    DoesHif (.registerWrite off d) s s.hif) ∧
  (∀ (h : Hif) (e : Event), 1024 ≤ (h.evtProduced - h.evtConsumed).toNat → writeRing h e = h) ∧
  (∀ (s : State) (peer : Peer) (slot : Nat) (words : List U32) (data : List Byte),
    256 ≤ (s.hif.rspProduced - s.hif.rspConsumed).toNat → respondWords s .hp peer slot words data = s)

/-- R433, R434: a write of 1 clears a status bit, and a cause that arrives in the same cycle leaves it set; a write of
HIF_IRQ_MASK sends each unmasked vector whose status bit is 1; a holdoff ends with a message where the cause stands. That the
arriving causes are an operand of the write, and matter where the bit is written as 1, is the model's (log 70). The first
three clauses are about every value and every vector, in order of vectors; the others spell them out.
R433, R434: a cause whose status bit is 1 changes nothing; one whose bit is 0 sets it. Masked, or in its vector's holdoff, it
sends nothing; unmasked and held back by MSI-X, its message is left pending in the PBA and no holdoff begins; otherwise it sends one
message with the entry of its vector, and a holdoff that is not 0 begins. -/
def Obligations.InterruptsAreSent : Prop :=
  ((∀ (s : State) (v arriving : U32), hpReach s.chip = true →
    DoesHif (.hifIrqStatus v arriving) s
      ((bitsOf (arriving &&& v &&& irqBits).toNat 23).foldl setCause { s.hif with irqStatus := s.hif.irqStatus &&& ~~~v })) ∧
  (∀ (s : State) (v : U32), hpReach s.chip = true →
    DoesHif (.hifIrqMask v) s
      ((bitsOf (s.hif.irqStatus &&& ~~~v).toNat 23).foldl notify { s.hif with irqMask := v &&& irqBits })) ∧
  (∀ (s : State) (n : Fin 32),
    let h := { s.hif with inHoldoff := s.hif.inHoldoff.filter (· ≠ n.val) }
    DoesHif (.holdoffEnd n) s
      (if s.hif.inHoldoff.contains n.val && (s.hif.irqStatus.toNat.testBit n.val && !s.hif.irqMask.toNat.testBit n.val) then notify h n.val
       else h)) ∧
  (∀ (s : State) (v arriving : U32), hpReach s.chip = true → arriving &&& v &&& irqBits = 0 →
    DoesHif (.hifIrqStatus v arriving) s { s.hif with irqStatus := s.hif.irqStatus &&& ~~~v }) ∧
  (∀ (s : State) (v : U32) (n : Nat), hpReach s.chip = true → n < 23 → v.toNat.testBit n = true →
    DoesHif (.hifIrqStatus v (w (2 ^ n))) s (setCause { s.hif with irqStatus := s.hif.irqStatus &&& ~~~v } n)) ∧
  (∀ (s : State) (v : U32), hpReach s.chip = true → s.hif.irqStatus &&& ~~~v = 0 →
    DoesHif (.hifIrqMask v) s { s.hif with irqMask := v &&& irqBits }) ∧
  (∀ (s : State) (v : U32) (n : Nat), hpReach s.chip = true → n < 23 → s.hif.irqStatus &&& ~~~v = w (2 ^ n) →
    DoesHif (.hifIrqMask v) s (notify { s.hif with irqMask := v &&& irqBits } n)) ∧
  (∀ (s : State) (n : Fin 32), s.hif.inHoldoff.contains n.val = true →
    (s.hif.irqStatus.toNat.testBit n.val && !s.hif.irqMask.toNat.testBit n.val) = false →
    DoesHif (.holdoffEnd n) s { s.hif with inHoldoff := s.hif.inHoldoff.filter (· ≠ n.val) }) ∧
  (∀ (s : State) (n : Fin 32), s.hif.inHoldoff.contains n.val = true →
    (s.hif.irqStatus.toNat.testBit n.val && !s.hif.irqMask.toNat.testBit n.val) = true →
    DoesHif (.holdoffEnd n) s (notify { s.hif with inHoldoff := s.hif.inHoldoff.filter (· ≠ n.val) } n.val))) ∧
  (∀ (h : Hif) (v : Nat), v < 23 →
    let set := h.irqStatus ||| w (2 ^ v)
    let holds := 2 ≤ v ∧ v ≤ 15 ∧ v ∈ h.inHoldoff
    (h.irqStatus.toNat.testBit v = true → setCause h v = h) ∧
    (h.irqStatus.toNat.testBit v = false → h.irqMask.toNat.testBit v = true ∨ holds → setCause h v = { h with irqStatus := set }) ∧
    (h.irqStatus.toNat.testBit v = false → h.irqMask.toNat.testBit v = false → ¬holds → msixBlocked h v = true →
      setCause h v = { h with irqStatus := set, pba := h.pba ||| w (2 ^ v) }) ∧
    (h.irqStatus.toNat.testBit v = false → h.irqMask.toNat.testBit v = false → ¬holds → msixBlocked h v = false →
      setCause h v =
        { h with
          irqStatus := set
          sent := (v, (nth h.msixTable v).1, (nth h.msixTable v).2.1) :: h.sent
          pba := h.pba &&& ~~~(w (2 ^ v))
          inHoldoff := if 2 ≤ v ∧ v ≤ 15 ∧ h.holdoff ≠ 0 then v :: h.inHoldoff else h.inHoldoff }))

/-- R424, R425, R433: configuration writes; the MSI-X table. A message that nothing holds back any more is sent,
and begins the holdoff of its vector.
R426: an endpoint reset of any kind returns the registers of Tables 17-5 and 17-6, MSI-X and the configuration
space to their reset values, fails the transfers that a running store_put or fw_update makes from a host buffer (KIND 0), and leaves
the mailbox registers, the rings and everything else behind the interface. That LINEAR_SIZE, GUARD_COUNT and GUARD_LAST are among
those registers is the model's reading (log 28). -/
def Obligations.ConfigurationAndEndpointReset : Prop :=
  ((∀ (s : State) (on : Bool), hpUp s.chip = true →
    exec (.pcieConfigWrite (.busMaster on)) s =
        .next { s with chip := { s.chip with pcie := { s.chip.pcie with busMaster := on } } } ∧
    exec (.pcieConfigWrite (.powerState on)) s =
        .next { s with chip := { s.chip with pcie := { s.chip.pcie with d3hot := on } } } ∧
    (s.hif.pba = 0 →
      exec (.pcieConfigWrite (.msixEnable on)) s = .next { s with hif := { s.hif with msixEnable := on } } ∧
      exec (.pcieConfigWrite (.functionMask on)) s = .next { s with hif := { s.hif with functionMask := on } })) ∧
  (∀ (s : State) (vec : Fin 32) (addr : U64) (data : U32) (masked : Bool), hpReach s.chip = true → s.hif.pba = 0 →
    DoesHif (.msixTableWrite vec addr data masked) s
      { s.hif with msixTable := s.hif.msixTable.modify vec.val (fun _ => (addr, data, masked)) }) ∧
  (∀ (s : State) (vec : Fin 32) (addr : U64) (data : U32), hpReach s.chip = true → vec.val < s.hif.msixTable.length →
    s.hif.pba = w (2 ^ vec.val) → s.hif.msixEnable = true → s.hif.functionMask = false → vec.val ∉ s.hif.inHoldoff →
    DoesHif (.msixTableWrite vec addr data false) s
      { s.hif with
        msixTable := s.hif.msixTable.modify vec.val (fun _ => (addr, data, false))
        sent := (vec.val, addr, data) :: s.hif.sent
        pba := 0
        inHoldoff := if 2 ≤ vec.val ∧ vec.val ≤ 15 ∧ s.hif.holdoff ≠ 0 then vec.val :: s.hif.inHoldoff else s.hif.inHoldoff })) ∧
  (∀ (k : EndpointResetKind) (s : State),
    exec (.endpointReset k) s = .next
      { s with
        hif := { s.hif with
          irqStatus := 0, irqMask := 0x7FFFFF#32, holdoff := 0, threshold := 64, inHoldoff := []
          aptRegion := 0, aptMode1 := false, aptBase := 0, linearSize := 0, aptStatus := 0, aptFault := 0
          guardCount := 0, guardLast := 0
          msixTable := List.replicate 32 (0, 0, true), pba := 0, msixEnable := false, functionMask := false }
        chip := { s.chip with
          pcie := { s.chip.pcie with busMaster := false, d3hot := false }
          store := { s.chip.store with
            puts := s.chip.store.puts.map (fun x => if nth x.buf 3 = 0 then { x with failure := stTRANSFER_FAULT } else x) }
          start := { s.chip.start with
            fwCut := s.chip.start.fwCut || (s.chip.start.fwJob ≠ 0 && s.chip.start.fwBuf ≠ [] && nth s.chip.start.fwBuf 3 = 0) } } })

/-- R427, R434: a register takes an aligned write of 4 bytes and no other; HIF_IRQ_HOLDOFF and the aperture registers take their
fields, the write-one-to-clear HIF_APT_STATUS loses the bits written 1, each register with a command of its own takes that command,
the MSI-X table takes words, and any other offset takes nothing. A write of HIF_IRQ_STATUS this way has no cause arriving with it
(log 70, the model's). -/
def Obligations.RegisterWrites : Prop :=
  (∀ (s : State) (off : Nat) (d : List Byte), off < 0x100000 → d.length ≠ 4 ∨ off % 4 ≠ 0 → Ignores (.registerWrite off d) s) ∧
  (∀ (s : State) (d : List Byte), hpReach s.chip = true → d.length = 4 →
    let v := w (ofLe d)
    DoesHif (.registerWrite 0x2008 d) s { s.hif with holdoff := fld v.toNat 31 16, threshold := fld v.toNat 9 0 } ∧
    DoesHif (.registerWrite 0x3000 d) s { s.hif with aptRegion := fld v.toNat 13 8, aptMode1 := v.toNat.testBit 0 } ∧
    DoesHif (.registerWrite 0x3004 d) s { s.hif with aptBase := fld s.hif.aptBase 39 32 * 2 ^ 32 + fld v.toNat 31 16 * 65536 } ∧
    DoesHif (.registerWrite 0x3008 d) s { s.hif with aptBase := fld v.toNat 7 0 * 2 ^ 32 + fld s.hif.aptBase 31 0 } ∧
    DoesHif (.registerWrite 0x3010 d) s { s.hif with aptStatus := s.hif.aptStatus &&& ~~~v } ∧
    exec (.registerWrite 0x1000 d) s = exec (.hifMbxDoorbell v) s ∧
    exec (.registerWrite 0x1010 d) s = exec (.hifMbxRspConsumed v) s ∧
    exec (.registerWrite 0x1018 d) s = exec (.hifEvtConsumed v) s ∧
    exec (.registerWrite 0x2000 d) s = exec (.hifIrqStatus v 0) s ∧
    exec (.registerWrite 0x2004 d) s = exec (.hifIrqMask v) s ∧
    exec (.registerWrite 0x4000 d) s = exec (.hifReset v) s ∧
    exec (.registerWrite 0x4004 d) s = exec (.hifPrfSnapshot v) s ∧
    (∀ n < 32, DoesHif (.registerWrite (0x8008 + 16 * n) d) s
      (setEntry n ((nth s.hif.msixTable n).1, v, (nth s.hif.msixTable n).2.2) s.hif)) ∧
    (∀ off, off < 0x100000 → off % 4 = 0 → off < 0x8000 ∨ 0x8200 ≤ off →
      off ∉ [0x1000, 0x1010, 0x1018, 0x2000, 0x2004, 0x2008, 0x3000, 0x3004, 0x3008, 0x3010, 0x4000, 0x4004] →
      DoesHif (.registerWrite off d) s s.hif))

/-- R436, R437: a BAR2 read before release, or of a region that is not defined, gives zeros and sets its status bits (for such a
region both: log 99); a read
inside a region gives the region's bytes, counts poisoned and unwritten words, and sets POISONED where it met one.
R214, R436 to R438: a BAR2 write in MODE 1 performs the bytes that lie inside the region and sets RANGE where some do not; one
that touches a guarded surface with a byte that it performs is discarded, counted and flagged, and GUARD_VIOLATION names the surface,
with the surface's owner as its SESSION and at most one event in its interval (logs 15 and 19, the model's). While the aperture is
shut the write performs nothing. -/
def Obligations.AperturesReadAndWrite : Prop :=
  ((∀ (s : State) (off : U32) (len : Nat), hpReach s.chip = true → bar2Open s.chip = false →
    exec (.bar2Read off len) s = .next { s with hif :=
      { setAptStatus s.hif 4 (s.hif.aptBase + off.toNat) with readData := List.replicate len 0#8 } }) ∧
  (∀ (s : State) (off : U32) (len : Nat), hpReach s.chip = true → bar2Open s.chip = true → s.hif.aptMode1 = true →
    memRegion? s.chip s.hif.aptRegion = none →
    exec (.bar2Read off len) s = .next { s with hif :=
      { setAptStatus (setAptStatus s.hif 0 (s.hif.aptBase + off.toNat)) 1 (s.hif.aptBase + off.toNat) with
        readData := List.replicate len 0#8 } }) ∧
  (∀ (s : State) (off : U32) (len : Nat) (r : MemRegion), hpReach s.chip = true → bar2Open s.chip = true →
    s.hif.aptMode1 = true → memRegion? s.chip s.hif.aptRegion = some r → s.hif.aptBase + off.toNat + len ≤ r.size →
    let a := s.hif.aptBase + off.toNat
    let words := (wordStarts a len).map (regionPlace r)
    let met := words.map (wordAt s.chip)
    (countReads s.chip words true).poisonReads = s.chip.poisonReads + met.count .poisoned ∧
    (countReads s.chip words true).unwrittenReads = s.chip.unwrittenReads + met.count .unwritten ∧
    exec (.bar2Read off len) s = .next
      { s with
        chip := countReads s.chip words true
        hif := { (if met.count .poisoned = 0 then s.hif else setAptStatus s.hif 3 a) with
          readData := (List.range len).map (fun i => byteAt s.chip (regionPlace r (a + i))) } })) ∧
  ((∀ (s : State) (off : U32) (d : List Byte), hpReach s.chip = true → bar2Open s.chip = false →
    exec (.bar2Write off d) s = .next { s with hif := setAptStatus s.hif 4 (s.hif.aptBase + off.toNat) }) ∧
  (∀ (s : State) (off : U32) (d : List Byte) (r : MemRegion), hpReach s.chip = true → bar2Open s.chip = true →
    s.hif.aptMode1 = true → memRegion? s.chip s.hif.aptRegion = some r →
    let a := s.hif.aptBase + off.toNat
    let inside := d.take (r.size - a)
    let h := if a + d.length ≤ r.size then s.hif else setAptStatus s.hif 0 a
    (inside = [] ∨ guardedSurface s.chip r a inside.length = none →
      exec (.bar2Write off d) s = .next { s with hif := h, chip := writeRegion s.chip r a inside }) ∧
    (∀ x, inside ≠ [] → guardedSurface s.chip r a inside.length = some x →
      exec (.bar2Write off d) s = .next (settleAborts (flush
        { s with
          hif := setAptStatus { h with guardCount := h.guardCount + 1, guardLast := BitVec.ofNat 16 x.id } 5 a
          chip := raiseLimitedOwn s.chip x.owner 0x4005 x.id ms10 1 2 [w x.id, w (a - x.offset), 1] })))))

/-- R334, R335, R337: a whole word written on a controller in service reads back byte for byte, whatever was written,
unwritten or poisoned there before, where its link reads it without a CRC failure (R326); no other byte of memory, of the same page or
of another, changes what it reads as. -/
def Obligations.WordsReadBack : Prop :=
  ∀ (c : Chip) (m loc : Nat) (d : List Byte), mcOk c m = true → lostPage c m (loc / 4096) = false → loc % 64 = 0 →
    d.length = 64 → loc + 64 ≤ 2 ^ 32 → Memory.wf c.ram = true → c.crcBad.contains (wordKey m (loc / 64)) = false →
    let place : Nat → Place := fun o => { mc := m, loc := o }
    let c' := writeThrough c place loc d
    (∀ i, i < 64 → byteAt c' { mc := m, loc := loc + i } = nth d i) ∧
    (∀ m' loc', loc' < 2 ^ 32 → m' ≠ m ∨ loc' < loc ∨ loc + 64 ≤ loc' →
      byteAt c' { mc := m', loc := loc' } = byteAt c { mc := m', loc := loc' })

/-! ## Invariants, events and messages -/

/-- R65, R67, R69, R70, R84, R395, R430: whatever command or tick comes, the rings never hold more than their slots, the
hold queue and the logs never outgrow their sizes, and the inbound ring's bytes stay in canonical form. -/
def Obligations.EveryStepKeepsRingsWithin : Prop :=
  ∀ (s t : State), RingsWithin s → step s = .next t → RingsWithin t

/-- The invariant of `EveryStepKeepsRingsWithin` holds after reset. -/
def Obligations.ResetRingsWithin : Prop :=
  RingsWithin State.reset

/-- R70, R71, R89: delivery takes every signal, and changes nothing of the chip but the datagrams that carry events and the
records of what the limits of R70 hold back, of which it raises what is due; where no abort waits for its job, nothing follows it.
That events gather in the step and are delivered at its end, and how the limits hold back, are the model's (logs 14 and 15). -/
def Obligations.DeliveryLeavesTheChip : Prop :=
  (∀ s : State, (flush s).chip.atRest = s.chip.atRest ∧ (flush s).chip.signals = [] ∧ (flush s).fuses = s.fuses ∧
    (flush s).pending = s.pending ∧ (flush s).chip.limits = (raiseHeld s.chip).limits) ∧
  (∀ s : State, s.chip.cci.held = none → settleAborts s = s)

/-- R70: while the ring has room, nothing is held and nothing was lost, an event takes the next number, enters the
history and the logs, and is written to the ring.
R65, R430, R433, Table 17-8: writing an event fills the next slot with its 16 words, advances the producer index, and then
sets the cause of its class, and cause 1 where the free entries are at or below the threshold; a full ring takes nothing.
R70: while the ring is full, a keep event waits in the hold queue while that has room, any other event is not written,
and one that is not written counts towards EVENTS_LOST; each takes a number and enters the history all the same. -/
def Obligations.EventsReachTheRing : Prop :=
  (∀ (x : Writer) (e : Event), evtFree x.hif ≠ 0 → x.evt.hold = [] → x.evt.lostFirst = none →
    let e' := { e with seq := x.evt.nextSeq }
    deliver true x e =
      { hif := writeRing x.hif e', evt := enterLogs { x.evt with nextSeq := x.evt.nextSeq + 1 } e' }) ∧
  (∀ (h : Hif) (e : Event),
    (evtFree h = 0 → writeRing h e = h) ∧
    (evtFree h ≠ 0 →
      let h1 := { h with evtRing := (eventWords e :: h.evtRing).take 1024, evtProduced := h.evtProduced + 1 }
      let h2 := setCause h1 (if e.code = 0x4010 then 16 else e.code / 4096 + 2)
      writeRing h e = if evtFree h1 ≤ h.threshold then setCause h2 1 else h2)) ∧
  (∀ (x : Writer) (e : Event), evtFree x.hif = 0 →
    let e' := { e with seq := x.evt.nextSeq }
    let v := enterLogs { x.evt with nextSeq := x.evt.nextSeq + 1 } e'
    (e.keep = true → x.evt.hold.length < 256 →
      deliver true x e = { hif := x.hif, evt := { v with hold := x.evt.hold ++ [e'] } }) ∧
    (e.keep = false →
      deliver true x e = { hif := x.hif, evt := { v with
        lostFirst := some (x.evt.lostFirst.getD x.evt.nextSeq)
        lostCount := x.evt.lostCount + 1
        notWritten := w32 (x.evt.notWritten + 1) } }) ∧
    (e.keep = true → 256 ≤ x.evt.hold.length →
      deliver true x e = { hif := x.hif, evt := { v with
        lostFirst := some (x.evt.lostFirst.getD x.evt.nextSeq)
        lostCount := x.evt.lostCount + 1
        keepLost := true
        notWritten := w32 (x.evt.notWritten + 1)
        keepNotWritten := w32 (x.evt.keepNotWritten + 1) } }))

/-- R70: each of the events that a step raises takes the next sequence number, in the order in which they were raised. -/
def Obligations.EventsAreNumberedInOrder : Prop :=
  ∀ (c : Chip) (x : Writer) (l : List Event),
    ((l.map Signal.event).foldl deliverSignal (c, x)).2.evt.nextSeq = x.evt.nextSeq + BitVec.ofNat 32 l.length ∧
    (x.evt.history.length + l.length ≤ 65536 →
      ((l.map Signal.event).foldl deliverSignal (c, x)).2.evt.history.map (·.seq) =
        ((List.range l.length).map (fun i => x.evt.nextSeq + BitVec.ofNat 32 i)).reverse ++ x.evt.history.map (·.seq))

/-- R70: when space returns after a loss, EVENTS_LOST goes first, with the next number, the first number not written, the
count and KEEP_LOST, and then the held events in order.
The order of DATA words that the spec lists only by name is the model's (log 13). -/
def Obligations.EventsLostComesFirst : Prop :=
  ∀ (c : Chip) (x : Writer) (f : U32), ringOpen c = true → evtFree x.hif ≠ 0 → x.evt.lostFirst = some f →
    let e : Event := { mkEvent c 0x0020 0 0xFFFF [f, w x.evt.lostCount, w (b01 x.evt.keepLost)] with seq := x.evt.nextSeq }
    let v := enterLogs { x.evt with nextSeq := x.evt.nextSeq + 1, lostFirst := none, lostCount := 0, keepLost := false } e
    (spaceReturns (c, x)).2 = drainHold 256 { hif := writeRing x.hif e, evt := v }

/-- Checks 1 and 2: a message whose CHECK is wrong is answered BAD_CHECK, and one whose opcode or header version is not
known UNKNOWN_COMMAND; neither consumes a SEQ.
R77, Table 3-7: what checks 3 and 4 say of a message with SESSION ≠ 0, outside RECOVERY. That a SEQ lies above or below NEXT_SEQ
by the signed 32-bit difference is the model's (log 91).
R78, Table 3-7: checks 5 to 7 in their order: the start state, BUSY, and DENIED.
R77, R78: in RECOVERY no command but `fw_update`, `log_read` and `resync` is offered, whatever its SESSION.
That such a message does not restart the KEEPALIVE of its session (log 108) and that a cached response carries no
inline data (log 105) are the model's readings. -/
def Obligations.MessagesAreChecked : Prop :=
  (∀ (s : State) (via : Via) (m : Waiting), front s via = some m → opcodeOf m.msg = none → s.chip.start.st ≠ .halted →
    exec (.unknownCommand via) s = .next (flush (respondWords (popFront s via) via m.peer (signSlot (envAt s via m))
      (responseWords m.msg (reply (if checkGood m.msg then 0x0100 else 0x0105))) []))) ∧
  (∀ (c : Chip) (e : Env) (op : Nat) (busy : Bool), c.start.st ≠ .recovery → fld (nth e.msg 3).toNat 15 0 ≠ 0 →
    (sessionFor c e.via e.peer (fld (nth e.msg 3).toNat 15 0) = none → verdict c e op busy = .early (reply 0x0108)) ∧
    (∀ x, sessionFor c e.via e.peer (fld (nth e.msg 3).toNat 15 0) = some x →
      (nth e.msg 1 = x.nextSeq → verdict c e op busy = lateVerdict c e op busy true) ∧
      (2 ^ 31 ≤ (x.nextSeq - nth e.msg 1).toNat →
        verdict c e op busy = .early { status := 0x0106, result := [x.nextSeq] }) ∧
      (16 < (x.nextSeq - nth e.msg 1).toNat → (x.nextSeq - nth e.msg 1).toNat < 2 ^ 31 →
        verdict c e op busy = .early (reply 0x0107)) ∧
      (nth e.msg 1 ≠ x.nextSeq → (x.nextSeq - nth e.msg 1).toNat ≤ 16 →
        (∀ k ∈ x.cache, ¬(k.seq = nth e.msg 1 ∧ k.opcode = op ∧ k.tag = nth e.msg 2)) →
        verdict c e op busy = .early (reply 0x0107)) ∧
      (∀ k, nth e.msg 1 ≠ x.nextSeq → (x.nextSeq - nth e.msg 1).toNat ≤ 16 →
        x.cache.find? (fun k => k.seq = nth e.msg 1 && k.opcode = op && k.tag = nth e.msg 2) = some k →
        (op ≠ 0x03 → op ≠ 0x04 → op ≠ 0x27 → op ≠ 0x33 → verdict c e op busy = .cached k.words) ∧
        (op = 0x03 ∨ op = 0x04 ∨ op = 0x27 ∨ op = 0x33 → verdict c e op busy = lateVerdict c e op busy false)))) ∧
  (∀ (c : Chip) (e : Env) (op : Nat) (busy consume : Bool),
    (running c = false → c.start.st ≠ .halted → lateVerdict c e op busy consume = .rejected (reply 0x0103) consume) ∧
    (c.start.st = .shuttingDown → op ≠ 0x03 → op ≠ 0x04 → lateVerdict c e op busy consume = .rejected (reply 0x0104) consume) ∧
    (c.start.st = .released → busy = true → lateVerdict c e op busy consume = .rejected (reply 0x0104) consume) ∧
    (c.start.st = .released → busy = false → denied c e op = true →
      lateVerdict c e op busy consume = .rejected (reply 0x010A) consume) ∧
    (c.start.st = .released → busy = false → denied c e op = false → lateVerdict c e op busy consume = .carryOut consume)) ∧
  (∀ (c : Chip) (e : Env) (op : Nat) (busy : Bool), c.start.st = .recovery →
    (op ≠ 0x60 → op ≠ 0x04 → op ≠ 0x03 → verdict c e op busy = .early (reply 0x0103)) ∧
    (op = 0x60 ∨ op = 0x04 ∨ op = 0x03 → fld (nth e.msg 3).toNat 15 0 ≠ 0 → verdict c e op busy = .early (reply 0x0108)) ∧
    (op = 0x60 ∨ op = 0x04 ∨ op = 0x03 → fld (nth e.msg 3).toNat 15 0 = 0 → verdict c e op busy = .carryOut false))

/-- R65, R71, R77: an answer over HP whose SEQ is consumed writes the response into the next slot of the response ring,
advances its producer index and then sets cause 0; NEXT_SEQ of the session advances by one and the response is its newest
cached one; no other session changes, and nothing else of the chip.
R63, R83: in HALTED every message, on every transport, but `resync` and `log_read` is taken and counted, without a response; over
HP the count is HIF_MBX_DISCARDED. -/
def Obligations.MessagesAreAnsweredOrCounted : Prop :=
  (∀ (s : State) (e : Env) (op : Nat) (r : Reply), e.via = .hp → r.held = none → rspFull s.hif = false →
    finish s e op r true =
      { s with
        hif := setCause { s.hif with
          rspRing := (responseWords e.msg r :: s.hif.rspRing).take 256, rspProduced := s.hif.rspProduced + 1 } 0
        chip := { s.chip with cci := { s.chip.cci with sessions := s.chip.cci.sessions.map (fun x =>
          if x.id = sid e then
            { x with
              nextSeq := x.nextSeq + 1
              cache := ({ seq := nth e.msg 1, opcode := op, tag := nth e.msg 2, words := responseWords e.msg r } :: x.cache).take 16 }
          else x) } } }) ∧
  ((∀ (s : State) (via : Via) (m : Waiting), front s via = some m → s.chip.start.st = .halted →
    (opcodeOf m.msg = none → exec (.unknownCommand via) s = .next (discardMessage (popFront s via) via)) ∧
    (∀ p ∈ messageCommands, p.1 ≠ 0x03 → p.1 ≠ 0x04 → opcodeOf m.msg = some p.1 →
      exec (p.2 via) s = .next (discardMessage (popFront s via) via))) ∧
  (∀ s : State, discardMessage (popFront s .hp) .hp =
    { s with hif := { s.hif with
      inConsumed := s.hif.inConsumed + 1
      discarded := if s.hif.discarded = 0xFFFFFFFF#32 then s.hif.discarded else s.hif.discarded + 1 } }))

/-- R58, R63: outside RELEASED and SHUTTING_DOWN the data plane and the management agents do nothing: none of their commands, which
`liveCommand` lists, changes anything, and a pass of the counter reader does nothing while no `perf_snapshot` waits. That such a
command still leads to a next state, and that HALTED stops these agents, are the model's (logs 2 and 69). -/
def Obligations.NothingLiveOutsideRelease : Prop :=
  ∀ s : State, running s.chip = false →
    (∀ i : Instr, liveCommand i = true → Ignores i s) ∧ (s.chip.cci.held = none → Ignores .readerPass s)

/-- R357, R358: at each tick of a running clock T grows by INCREMENT, exactly, with the fraction and the nanoseconds in
range; a clock that does not run holds. Nothing but T and the lanes' count of UI changes, while no stream holds back a loss
report; that the count takes the 56.25 UI of a tick is the model's (R251, log 84).
That an idle step is one tick is the model's (log 4). -/
def Obligations.ClockTickAddsIncrement : Prop :=
  ∀ s : State, s.pending = [] → lossWaits s.chip = false → s.chip.time.ns.toNat < 1000000000 →
    s.chip.time.sec.toNat < 2 ^ 48 - 1 →
    let value : Time → Nat := fun t => (t.sec.toNat * 1000000000 + t.ns.toNat) * 2 ^ 44 + t.frac.toNat
    ∃ (t : Time) (u : Nat), step s = .next { s with chip := { s.chip with time := t, laneUi := u } } ∧
      t = { s.chip.time with sec := t.sec, ns := t.ns, frac := t.frac } ∧
      t.ns.toNat < 1000000000 ∧
      (s.chip.time.runs = true → value t = value s.chip.time + s.chip.time.inc.toNat ∧
        u = (s.chip.laneUi + 450) % (65536 * superframeUi)) ∧
      (s.chip.time.runs = false → t = s.chip.time ∧ u = s.chip.laneUi)

/-! ## Start, shutdown and jobs -/

/-- R41 to R43: a fall of POR_N of 1 µs or longer brings the controller to its reset state, with POR_N low and every output
of R42 at its value, and keeps the flash and the drives' content; a shorter pulse does nothing. Its rise samples the straps and
begins stage S1; the reserved strap value 0b11 is logged (as a record whose first word is the value: log 60).
R439: HIF_RESET with its key and kind restarts a controller in RECOVERY or HALTED at stage S1 without POR_N, and in
RELEASED where the image allows it and no panel rail is up; it takes the straps as they were sampled, but STRAP_BOOT as 0b00 where
a good `fw_update` in RECOVERY waits for the restart or came before (R41), logs a reserved strap value again, and leaves FAULT_N low
after a fault outside the guarantee (R377); any other value, and RELEASED without that leave, do nothing. That R439 leaves HALTED,
which R63 gives to POR_N, is the model's reading (log 90). -/
def Obligations.ResetsAndRestarts : Prop :=
  ((∀ (s : State) (n : Nat), n < 1000 → Ignores (.porNFall n) s) ∧
  (∀ (s : State) (n : Nat), 1000 ≤ n → s.chip.porLow = false → ∃ t, exec (.porNFall n) s = .next t ∧
    t.chip.porLow = true ∧ t.chip.start.st = .fuses ∧ t.chip.start.stage = .off ∧
    t.chip.sysReady = false ∧ t.chip.power.en = 0 ∧ t.chip.power.irefOn = false ∧ t.chip.time.ppsOut = false ∧
    t.chip.time.sec = 0 ∧ t.chip.time.ns = 0 ∧ t.chip.time.frac = 0 ∧ t.chip.time.inc = 0x200000000000#48 ∧
    t.chip.cci.sessions = [] ∧ t.chip.cci.jobs = [] ∧ t.chip.surfs = [] ∧ t.chip.mems = [] ∧
    (∀ p ∈ t.chip.ports, p.tt = none) ∧ (∀ l ∈ t.chip.lanes, l.st = .idle) ∧
    t.hif = { State.resetHif with sent := s.hif.sent } ∧ t.evt = { nextSeq := 1 } ∧
    t.chip.store.drive0 = { s.chip.store.drive0 with up := false } ∧
    t.chip.store.drive1 = { s.chip.store.drive1 with up := false } ∧ t.fuses = s.fuses ∧ t.pending = s.pending ∧
    (s.chip.start.shutStep ≠ 5 → t.chip.flash = s.chip.flash)) ∧
  (∀ (s : State) (boot : BitVec 2) (i2c : BitVec 3), s.chip.porLow = true → boot ≠ 3 →
    exec (.porNRise boot i2c) s = .next { s with chip := { s.chip with
      porLow := false
      start := { s.chip.start with strapBoot := boot, strapI2c := i2c, bootOverride := false, stage := .s1 } } }) ∧
  (∀ (s : State) (i2c : BitVec 3), s.chip.porLow = true →
    exec (.porNRise 3 i2c) s = .next { s with
      chip := { s.chip with
        porLow := false
        start := { s.chip.start with strapBoot := 3, strapI2c := i2c, bootOverride := false, stage := .s1 } }
      evt := { s.evt with startLog := [strapRecord 3], startCount := 1 } })) ∧
  (∀ (s : State) (v : U32), hpReach s.chip = true →
    (¬(fld v.toNat 7 0 = 0xA5 ∧ fld v.toNat 11 8 = 1) → Ignores (.hifReset v) s) ∧
    (s.chip.start.st = .released → s.chip.cfg.hostRestart = false → Ignores (.hifReset v) s) ∧
    (fld v.toNat 7 0 = 0xA5 → fld v.toNat 11 8 = 1 →
      s.chip.start.st = .recovery ∨ s.chip.start.st = .halted ∨
        (s.chip.start.st = .released ∧ s.chip.cfg.hostRestart = true ∧ s.chip.power.railsUp = false ∧ s.chip.power.run = .idle) →
      ∃ t, exec (.hifReset v) s = .next t ∧ t.chip.start.st = .fuses ∧ t.chip.start.stage = .s1 ∧ t.chip.porLow = false ∧
        t.chip.sysReady = false ∧ t.chip.start.strapBoot = s.chip.start.strapBoot ∧
        t.chip.start.strapI2c = s.chip.start.strapI2c ∧ t.chip.cci.sessions = [] ∧ t.chip.faults.outside = s.chip.faults.outside ∧
        t.chip.start.bootOverride = (s.chip.start.bootOverride || (s.chip.start.st = .recovery && s.chip.start.restartDue)) ∧
        t.evt = logStrap (if t.chip.start.bootOverride then 0 else s.chip.start.strapBoot) { nextSeq := 1 } ∧
        t.hif.inAccepted = 0 ∧ t.hif.irqMask = 0x7FFFFF#32))

/-- R44 to R46, R53, R54, Table 2-3: how stages S1, S2 and S6 end, each with START_STATE set and cause 22 raised: the
fuses settle with a known ordering code, or not; both Stationmaster pairs pass, or none; a quick start skips S6b and S6c.
R58, R435: with the last stage the controller is RELEASED, SYS_READY is high, the linear space covers the controllers
in service, HIF_APT_LINEAR_SIZE gives its size, and the fuses take the security version that runs as their floor.
When a trial run ends (log 10), what STRAP_BOOT 0b10 and 0b11 do (log 60), the causes of parts that fail at start (log
67), PASS of the analogue self-test (log 68) and equal sequence numbers of the boot control block (log 88) are the
model's readings. -/
def Obligations.StartRunsToRelease : Prop :=
  (∀ (s : State) (r : StageReport),
    let c := recordStage s.chip r
    let m := shadowOf s.fuses
    (s.chip.start.stage = .s1 → s.chip.start.st = .fuses → s.fuses.unsettled = false →
      m.orderingCode = 1 ∨ m.orderingCode = 2 →
      Does (.startStageDone r) s
        (signal { c with shadow := m, start := { c.start with stage := .s2, st := .bootRom } } 22)) ∧
    (s.chip.start.stage = .s1 → s.chip.start.st = .fuses → s.fuses.unsettled = true →
      Does (.startStageDone r) s
        (signal { c with shadow := m, start := { c.start with stage := .off, st := .fuseFault } } 22)) ∧
    (s.chip.start.stage = .s2 → s.chip.start.st = .bootRom → r.pair0Pass = false → r.pair1Pass = false →
      Does (.startStageDone r) s (signal { c with start := { c.start with stage := .off, st := .smFault } } 22)) ∧
    (s.chip.start.stage = .s2 → s.chip.start.st = .bootRom → r.pair0Pass = true → r.pair1Pass = true →
      strapOf s.chip ≠ 2 → ((bootBlock s.chip).getD {}).trial = false →
      Does (.startStageDone r) s
        (signal { c with
          sm := { active := some 0, relief := some 1 }, start := { c.start with stage := .s3, st := .image } } 22)) ∧
    (s.chip.start.stage = .s6 → s.chip.start.st = .sramTest → r.failedRegions = 0 → r.failedCells = [] → r.failedBlocks = [] →
      Does (.startStageDone r) s
        (if s.chip.start.full then signal { c with start := { c.start with stage := .s6b, st := .selfTest } } 22
        else signal { c with start := { c.start with stage := .s7, st := .memory } } 22))) ∧
  (∀ (s : State) (r : StageReport), s.chip.start.stage = .s8 → s.chip.start.st = .opening → s.chip.start.failedCells = [] →
    s.chip.start.failedBlocks = [] →
    ∃ t, exec (.startStageDone r) s = .next t ∧ t.chip.start.st = .released ∧ t.chip.start.stage = .off ∧
      t.chip.sysReady = true ∧ t.chip.linearMcs = mcsInService s.chip ∧
      t.hif.linearSize = w (3072 * (mcsInService s.chip).length) ∧
      t.fuses = burnFloor (s.chip.shadow.secFloor ||| thermometer s.chip.start.secVer) s.fuses)

/-- R60, R61: `shutdown` enters a job and SHUTTING_DOWN at step 1, with what its flags skip, and abandons the runs of calibration.
PERSIST_FAILED stands at 0 until step 3 (log 89, the model's).
R60 to R63, R321, Table 2-9: a shutdown step whose part is done leads to the next: step 1 to step 2, in which the rails go
down, an up that runs at its next step boundary (R295); step 2, with the panel down, to step 3 or past it; step 3, its write cut off
where it still runs, to step 4 or 5; step 4 records the self-test; step 5 appends a shutdown record of 256 bytes, in an erased log
where the log is full; step 6 halts: the outputs of R42 are held, with the lanes of every group in electrical idle, SYS_READY is low,
GDDR7 is in self-refresh with no debt, the job leaves the unfinished ones, and its one terminal event SHUTDOWN_COMPLETE follows, with
cause 22 for HALTED. What TJ_MAX, the first SEQ and PERSIST_FAILED hold where the spec gives no value, and that a response held back
is dropped, are the model's (logs 89 and 69). -/
def Obligations.ShutdownRunsItsSteps : Prop :=
  (∀ (s : State) (via : Via) (m : Waiting) (k : Bool), Admitted s via m 0x62 k →
    let e := envAt s via m
    let c := chipAt s via m
    c.start.st = .released → c.cci.jobs.length < 192 →
      let d := (newJob c 0x62 (tagOf e) (sid e) []).2
      Answered (.shutdown via) s via m 0x62 k
        (abandonRuns (signal { d with start := { d.start with
          st := .shuttingDown
          shutStep := 1, shutJob := c.cci.nextJob, shutSkipPersist := (mw e 0x10).testBit 0
          shutSkipTest := (mw e 0x10).testBit 1, shutFullNext := (mw e 0x10).testBit 2
          shutPersistFailed := false, shutPass := false, shutSignature := [] } } 22))
        { status := 0x0001, result := [w c.cci.nextJob] }) ∧
  (∀ (s : State) (r : StepReport), s.chip.start.st = .shuttingDown → smServes s.chip = true →
    (s.chip.start.shutStep = 1 →
      Does (.shutdownStepDone r) s (lowerPanel { s.chip with start := { s.chip.start with shutStep := 2 } })) ∧
    (s.chip.start.shutStep = 1 → s.chip.power.run = .idle → s.chip.power.railsUp = false →
      Does (.shutdownStepDone r) s { s.chip with start := { s.chip.start with shutStep := 2 } }) ∧
    (s.chip.start.shutStep = 1 → s.chip.power.run = .up →
      Does (.shutdownStepDone r) s { s.chip with
        start := { s.chip.start with shutStep := 2 }
        power := { s.chip.power with downWaits := s.chip.power.downWaits.or (some 0) } }) ∧
    (s.chip.start.shutStep = 2 →
      let c := panelDown s.chip
      Does (.shutdownStepDone r) s
        (if c.start.shutSkipPersist = false then enterPersist c
        else { c with start := { c.start with shutStep := if c.start.shutSkipTest then 5 else 4 } })) ∧
    (s.chip.start.shutStep = 3 →
      Does (.shutdownStepDone r) s { s.chip with
        store := { s.chip.store with writing := none }
        start := { s.chip.start with
          shutPersistFailed := s.chip.start.shutPersistFailed || r.timedOut
          shutStep := if s.chip.start.shutSkipTest then 5 else 4 } }) ∧
    (s.chip.start.shutStep = 4 →
      let c := shutdownTested r s.chip
      Does (.shutdownStepDone r) s { c with start := { c.start with shutStep := 5 } }) ∧
    (s.chip.start.shutStep = 5 →
      let x := s.chip.start
      let new : ShutdownRecord :=
        { seq := (match newestRecord s.chip with | some r => r.seq + 1 | none => 1)
          consumed := 0xFF, pass := x.shutPass, fullNext := x.shutFullNext, persistFailed := x.shutPersistFailed
          fuseId := s.chip.shadow.deviceId, imageDigest := x.digest, signature := x.shutSignature
          ptpSeconds := s.chip.time.sec.toNat, tjMax := x.tjMax, crcGood := false }
      Does (.shutdownStepDone r) s { s.chip with
        flash := { s.chip.flash with records :=
          if 256 ≤ s.chip.flash.records.length then [recordBytes new] else s.chip.flash.records ++ [recordBytes new] }
        start := { x with shutStep := 6 } }) ∧
    (s.chip.start.shutStep = 6 →
      let c := { idleGroups s.chip with
        power := { (idleGroups s.chip).power with
          en := 0, irefOn := false, railsUp := false, driverUp := false, run := .idle, step := 0, waitOn := none, cmds := [] }
        time := { (idleGroups s.chip).time with ppsOut := false, ppsOutOn := false } }
      let d := { c with
        sysReady := false
        banks := s.chip.banks.map (fun (b : Bank) => { b with debt := 0 })
        mcs := c.mcs.map (fun (m : Mc) => { m with selfRefresh := m.inService })
        start := { c.start with shutStep := 0, st := .halted } }
      (∀ p < 4, ∀ l ∈ groupLanes s.chip p, (lane c l).st = .idle) ∧
      (job? s.chip s.chip.start.shutJob = none →
        Does (.shutdownStepDone r) s
          (signal (raise { d with cci := { d.cci with held := none } } 0x0002 [0, 0x62, 0]) 22)) ∧
      (∀ j, job? s.chip s.chip.start.shutJob = some j →
        Does (.shutdownStepDone r) s (signal (raiseFor { d with cci := { d.cci with
            held := none
            jobs := s.chip.cci.jobs.filter (fun x => x.id ≠ j.id)
            finished := ({ id := j.id, opcode := j.opcode, tag := j.tag, terminal := .completed, lastLine := 0 } ::
              s.chip.cci.finished).take 256 } }
          0x0002 j.tag j.owner [w j.id, w j.opcode, 0]) 22))))

/-- R85, R49, R52: `fw_update` writes the slot that does not run. A piece of inline data, after the erase where it is the first,
is appended; the final one starts the checks: a job, and in RECOVERY the checks at once. A whole image in a buffer starts a job
that writes and checks it; in RECOVERY it is written and checked at once. Which slot is written in RECOVERY, and how pieces follow one
another, are the model's (log 61).
R50, R51, R85: the checks on a written slot end its job: a good image makes its slot the preferred one, on trial, and
the job is complete; a bad one marks the slot invalid, and the job fails with INVALID_IMAGE. An image in a buffer is written
first; where it cannot be read, or an endpoint reset cut its transfer (R426), the job fails with TRANSFER_FAULT.
When the restart after an update in RECOVERY happens is the model's reading (log 37). -/
def Obligations.FirmwareIsUpdated : Prop :=
  (∀ (s : State) (via : Via) (m : Waiting) (k : Bool), Admitted s via m 0x60 k →
    let e := envAt s via m
    let c := chipAt s via m
    let b := bufAt e 0x10
    let off := mw e 0x20
    let final := (mw e 0x24).testBit 0
    let slot := fwTarget c
    c.start.fwJob = 0 → bufKindOk e b = true → bufFault c (sid e) false b = none → off = 0 ∨ off = c.start.fwNext →
    off + b.len ≤ 0x02000000 →
    (b.kind = 2 → b.len ≤ e.inline.length →
      let d := setSlot c slot { bytes := (if off = 0 then [] else (slotOf c slot).bytes) ++ e.inline.take b.len }
      (final = false →
        Answered (.fwUpdate via) s via m 0x60 k { d with start := { d.start with fwNext := off + b.len } } { status := 0 }) ∧
      (final = true →
        let d := { d with start := { d.start with fwNext := 0 } }
        (c.start.st ≠ .recovery → c.cci.jobs.length < 192 →
          let d := (newJob d 0x60 (tagOf e) (sid e) []).2
          Answered (.fwUpdate via) s via m 0x60 k
            { d with start := { d.start with fwJob := c.cci.nextJob, fwBuf := [], fwCut := false } }
            { status := 0x0001, result := [w c.cci.nextJob] }) ∧
        (c.start.st = .recovery →
          Answered (.fwUpdate via) s via m 0x60 k (recoveryChecks d slot).1 (recoveryChecks d slot).2))) ∧
    (b.kind ≠ 2 → off = 0 →
      (c.start.st ≠ .recovery → c.cci.jobs.length < 192 →
        let d := (newJob (setSlot c slot {}) 0x60 (tagOf e) (sid e) (bufHolds b)).2
        Answered (.fwUpdate via) s via m 0x60 k
          { d with start := { d.start with
            fwNext := 0, fwJob := c.cci.nextJob, fwBuf := [b.lo, b.hi, b.len, b.kind], fwCut := false } }
          { status := 0x0001, result := [w c.cci.nextJob] }) ∧
      (∀ img, c.start.st = .recovery → (bufRead c e.inline b 0 b.len).2 = some img →
        let x := recoveryChecks (setSlot (bufRead c e.inline b 0 b.len).1 slot { bytes := img }) slot
        Answered (.fwUpdate via) s via m 0x60 k x.1 x.2))) ∧
  (∀ s : State, running s.chip = true → s.chip.start.fwJob ≠ 0 →
    let c := { s.chip with start := { s.chip.start with fwJob := 0, fwBuf := [], fwCut := false } }
    let b := !s.chip.start.slotB
    let l := s.chip.start.fwBuf
    let job := s.chip.start.fwJob
    (s.chip.start.fwCut = true → Does .fwUpdateDone s (endJob c job .failed 0x0111 0 [])) ∧
    (s.chip.start.fwCut = false → l = [] →
      let d := (slotOf s.chip b).bytes
      Does .fwUpdateDone s (if imageValid s.chip d
        then endJob (preferSlot (setSlot c b { bytes := d }) b) job .completed 0 0 []
        else endJob (setSlot c b { bytes := d, invalid := true }) job .failed 0x0110 0 [])) ∧
    (s.chip.start.fwCut = false → l ≠ [] →
      let x := bufRead c [] { lo := nth l 0, hi := nth l 1, len := nth l 2, kind := nth l 3 } 0 (nth l 2)
      (x.2 = none → Does .fwUpdateDone s (endJob x.1 job .failed 0x0111 0 [])) ∧
      (∀ d, x.2 = some d →
        Does .fwUpdateDone s (if imageValid x.1 d
          then endJob (preferSlot (setSlot x.1 b { bytes := d }) b) job .completed 0 0 []
          else endJob (setSlot x.1 b { bytes := d, invalid := true }) job .failed 0x0110 0 []))))

/-- R88, R89, R70: a job ends once: it leaves the unfinished jobs, becomes the newest finished one, and its terminal event
carries its TAG, its owner, JOB_ID, opcode and status. A job that is not there raises nothing. -/
def Obligations.JobsEndOnce : Prop :=
  ∀ (c : Chip) (id status line : Nat) (result : List U32),
    (∀ t, job? c id = none → endJob c id t status line result = c) ∧
    (∀ j, job? c id = some j →
      let gone (t : Terminal) : Chip := { c with cci := { c.cci with
        jobs := c.cci.jobs.filter (fun x => x.id ≠ id)
        finished := ({ id := id, opcode := j.opcode, tag := j.tag, terminal := t, lastLine := line } :: c.cci.finished).take 256 } }
      let data := [w id, w (j.opcode + status * 65536), w line] ++ result
      endJob c id .completed status line result = raiseFor (gone .completed) 0x0010 j.tag j.owner data ∧
      endJob c id .failed status line result = raiseFor (gone .failed) 0x0011 j.tag j.owner data ∧
      endJob c id .aborted status line result = raiseFor (gone .aborted) 0x0012 j.tag j.owner data ∧
      endJob c id .completedBeforeAbort status line result =
        raiseFor (gone .completedBeforeAbort) 0x0013 j.tag j.owner data ∧
      (∀ t, job? (endJob c id t status line result) id = none))

/-! ## Sessions, logs and transports -/

/-- R76, R81: `session_open` without TAKEOVER enters a session with the roles asked, the path that it came by and NEXT_SEQ 1,
and answers its identifier and the newest event number; `session_close` closes the session and leaves its resources;
a session closes with SESSION_LAPSED at the instant at which its KEEPALIVE has been served since its last message.
R86: `key_load` sets a CCI key slot 1 to 3 or a DST key slot 0 to 7 to its 32 bytes, or clears it; nothing else of the
chip changes. A slot out of range is INVALID_FIELD.
The instant of an event (log 3), the lowest free identifier and its wrap (logs 18 and 73) and the counters of a slot
that is loaded anew (log 65) are the model's. -/
def Obligations.SessionsAndKeys : Prop :=
  ((∀ (s : State) (via : Via) (m : Waiting) (k : Bool), Admitted s via m 0x01 k →
    let e := envAt s via m
    let c := chipAt s via m
    let x := mw e 0x10
    let id := freeSession c 8 c.cci.nextSession
    fld x 1 0 ≤ 1 → x.testBit 3 = false → fld x 31 16 ≤ 600 → (x.testBit 2 = true → via ≠ .udp ∨ e.slot = 0) →
    sameNonce c e (mw e 0x18 + mw e 0x1C * 2 ^ 32) = none → c.cci.sessions.length < 8 →
    Answered (.sessionOpen via) s via m 0x01 k
      { c with cci := { c.cci with
        sessions := c.cci.sessions ++ [{
          id := id, via := e.via, peer := if e.via = .udp then e.peer else {}, control := fld x 1 0 = 1, admin := x.testBit 2
          keySlot := if e.via = .udp then e.slot else 0, keepalive := fld x 31 16, mask := mf e 0x20 15 0
          evtPort := mf e 0x24 15 0, nextSeq := 1, nonce := mw e 0x18 + mw e 0x1C * 2 ^ 32, openedNs := nowNs c, lastNs := nowNs c }]
        lapsed := c.cci.lapsed.filter (· ≠ id)
        nextSession := if 0xFFFE ≤ id then 1 else id + 1 } }
      { status := 0, result := [w id, 1, e.evt.nextSeq - 1], session := some id }) ∧
  (∀ (s : State) (via : Via) (m : Waiting) (k : Bool), Admitted s via m 0x02 k →
    let c := chipAt s via m
    let id := sid (envAt s via m)
    Answered (.sessionClose via) s via m 0x02 k
      { c with cci := { c.cci with
        sessions := c.cci.sessions.filter (fun y => y.id ≠ id), lapsed := id :: c.cci.lapsed.filter (· ≠ id) } }
      { status := 0 }) ∧
  (∀ (s : State) (id : U16) (x : Session), session? s.chip id.toNat = some x → x.keepalive ≠ 0 → smServes s.chip = true →
    let c := advanceTo s.chip (x.lastNs + x.unservedNs + x.keepalive * 1000000000)
    Does (.sessionLapsed id) s (raiseFor { c with cci := { c.cci with
        sessions := c.cci.sessions.filter (fun y => y.id ≠ id.toNat)
        lapsed := id.toNat :: c.cci.lapsed.filter (· ≠ id.toNat) } } 0x0021 0 id.toNat []))) ∧
  (∀ (s : State) (via : Via) (m : Waiting) (k : Bool), Admitted s via m 0x63 k →
    let e := envAt s via m
    let c := chipAt s via m
    let slot := mf e 0x10 7 4
    let key := if (mw e 0x10).testBit 8 then [] else bytesOf ((List.range 8).map (fun i => nth e.msg (5 + i)))
    ((mw e 0x10).testBit 0 = true → 1 ≤ slot → slot ≤ 3 →
      Answered (.keyLoad via) s via m 0x63 k { c with cci := { c.cci with cciKeys := put c.cci.cciKeys slot key } } { status := 0 }) ∧
    ((mw e 0x10).testBit 0 = false → slot ≤ 7 →
      Answered (.keyLoad via) s via m 0x63 k { c with cci := { c.cci with dstKeys := put c.cci.dstKeys slot key } } { status := 0 }) ∧
    ((mw e 0x10).testBit 0 = true → slot = 0 ∨ 3 < slot → Answered (.keyLoad via) s via m 0x63 k c { status := 0x0101 }))

/-- R75, R84, R458: `log_read` gives the records from the index asked on, oldest first, as many as the buffer holds, with the
index that follows; a log that holds none of them gives none. Inline data comes with the response; a buffer that cannot be
written is a TRANSFER_FAULT.
R75, R91: `resync` gives the summary as it stands, its length and the newest event number: with the response as inline data,
or into its buffer, whose bytes alone change; a buffer that cannot be written is a TRANSFER_FAULT, and one that is too short is answered with the length needed.
When the aperture reports NO_REGION (log 49), log_read at its edges (log 71) and an empty firmware log (log 106) are
the model's. -/
def Obligations.LogsAndSummaryAreRead : Prop :=
  (∀ (s : State) (via : Via) (m : Waiting) (k : Bool), Admitted s via m 0x04 k →
    let e := envAt s via m
    let c := chipAt s via m
    let log := mf e 0x10 7 0
    let b := bufAt e 0x18
    let all := logRecords s.evt log
    let oldest := all.2 - w all.1.length
    let skip := (seqDiff (mw e 0x14) oldest.toNat).toNat
    log ≤ 3 → bufKindOk e b = true → bufFault c (sid e) true b = none → (c.start.st = .recovery → log = 3) →
    (all.1.length ≤ skip → Answered (.logRead via) s via m 0x04 k c { status := 0, result := [0, all.2, oldest] }) ∧
    (skip < all.1.length → 64 ≤ b.len →
      let given := (all.1.drop skip).take (b.len / 64)
      let d := given.flatMap (fun x => bytesOf (eventWords x))
      let x := bufWrite c b d
      (b.kind = 2 → x = (c, d, true)) ∧
      (x.2.2 = true → Answered (.logRead via) s via m 0x04 k x.1
        { status := 0, result := [w given.length, oldest + w (skip + given.length), oldest], data := x.2.1 }) ∧
      (x.2.2 = false → Answered (.logRead via) s via m 0x04 k c { status := 0x0111 }))) ∧
  (∀ (s : State) (via : Via) (m : Waiting) (k : Bool), Admitted s via m 0x03 k →
    let e := envAt s via m
    let c := chipAt s via m
    let b := bufAt e 0x10
    bufKindOk e b = true → bufFault c (sid e) true b = none →
    ((summary e c).length ≤ b.len →
      let x := bufWrite c b (summary e c)
      (b.kind = 2 → x = (c, summary e c, true)) ∧
      (x.2.2 = true → Answered (.resync via) s via m 0x03 k x.1
        { status := 0, result := [w (summary e c).length, s.evt.nextSeq - 1], data := x.2.1 }) ∧
      (x.2.2 = false → Answered (.resync via) s via m 0x03 k c { status := 0x0111 })) ∧
    (b.len < (summary e c).length → Answered (.resync via) s via m 0x03 k c
      { status := 0x010C, result := [w (summary e c).length] }))

/-- R97: the I²C target while MSG_BUSY is clear: a message is taken with its 64 bytes and sets MSG_BUSY; a data window, of which
what was not written anew stands, is gathered; a release gives the next 64 bytes of a response's data, or the rest, or clears
DATA_READY; a read of the response clears
RSP_READY. While MSG_BUSY is set or POR_N is low nothing written is taken.
What the bytes that an I2C window write leaves out become (log 72) and small points of the interface (log 91) are the
model's. -/
def Obligations.I2cTransport : Prop :=
  ∀ s : State,
    let i := s.chip.cci.i2c
    let set : I2c → Chip := fun x => { s.chip with cci := { s.chip.cci with i2c := x } }
    (s.chip.porLow = false → i.msgBusy = false →
      (∀ msg, msg.length = 64 → Does (.i2cSubmit msg) s (set { i with window := msg, msgBusy := true })) ∧
      (∀ d, d.length = 64 → Does (.i2cDataFull d) s (set { i with dataWin := d, inData := i.inData ++ d, dataTaken := true })) ∧
      (∀ d, d.length ≤ 64 → i.dataWin.length = 64 →
        let win := d ++ i.dataWin.drop d.length
        Does (.i2cDataFull d) s (set { i with dataWin := win, inData := i.inData ++ win, dataTaken := true })) ∧
      (i.dataReady = true → i.outData = [] → Does .i2cDataRelease s (set { i with dataReady := false })) ∧
      (i.dataReady = true → 64 ≤ i.outData.length →
        Does .i2cDataRelease s (set { i with dataWin := i.outData.take 64, outData := i.outData.drop 64 })) ∧
      (i.dataReady = true → i.outData.length < 64 → i.outData ≠ [] → i.dataWin.length = 64 →
        Does .i2cDataRelease s (set { i with dataWin := i.outData ++ i.dataWin.drop i.outData.length, outData := [] }))) ∧
    Does .i2cResponseRead s (set { i with rspReady := false }) ∧
    (s.chip.porLow = true ∨ i.msgBusy = true → ∀ msg d, Does (.i2cSubmit msg) s s.chip ∧ Does (.i2cDataFull d) s s.chip)

/-- R93, R94: a datagram that passes every check waits last in the inbox, and its counter becomes the highest of its peer
and slot; one that fails a check, or comes before release, is dropped and counted.
That a received frame shows its link (log 74) and that a datagram of a wrong form is dropped and counted too (log 107)
are the model's readings. -/
def Obligations.DatagramsAreChecked : Prop :=
  (∀ (s : State) (ep : Fin 2) (src : Peer) (d : List Byte),
    (running s.chip || s.chip.start.st = .halted) = false → (eth s.chip ep.val).isolated = false →
    Does (.cciDatagramReceived ep src d) s
      { s.chip with cci := { s.chip.cci with udpDropped := s.chip.cci.udpDropped + 1 } }) ∧
  ∀ (s : State) (ep : Fin 2) (src : Peer) (d : List Byte),
    (running s.chip || s.chip.start.st = .halted) = true → (eth s.chip ep.val).isolated = false →
    let c := updEth s.chip ep.val (fun x => { x with link := true })
    (checkDatagram s.chip src d = none → Does (.cciDatagramReceived ep src d) s
      { c with cci := { c.cci with udpDropped := c.cci.udpDropped + 1 } }) ∧
    (∀ counter u, checkDatagram s.chip src d = some (counter, u) → Does (.cciDatagramReceived ep src d) s
      { c with cci := { c.cci with
        udpCounters := (src, u.slot, counter) :: c.cci.udpCounters.filter (fun y => !(y.1 = src && y.2.1 = u.slot))
        udp := c.cci.udp ++ [{ u with ep := ep.val }] } })

/-! ## Ingest and decoders -/

/-- R98, R103, R115: a datagram that no stream takes is discarded and counted on its port, saturating, by its first cause:
the frame is one that the port does not support, no stream matches, a header check fails, or the STREAM_ID is another.
A packet that a bound stream takes is merged (R104), and frames, decoders and tiles follow.
R100, R104: the place of a packet's PKT_SEQ decides what becomes of it. The first packet after a bind sets H and is
accepted; one above H is accepted, moves H and opens a hole for each number between; one that fills an open hole is accepted;
any other within the record is a duplicate (3) or late (4), discarded and counted; one outside counts towards a restart.
That a received frame shows its link is the model's reading (log 74). -/
def Obligations.PacketsAreSortedAndMerged : Prop :=
  (∀ (s : State) (ep : Fin 2) (d : Datagram), running s.chip = true → (eth s.chip ep.val).isolated = false →
    let c := updEth s.chip ep.val (fun e => { e with link := true })
    let hits := (List.range 16).filter (fun i => matchesStream c ep.val d (stream c i))
    let drop := fun k => updEth c ep.val (fun e => { e with drops :=
      (if e.drops = [] then List.replicate 8 0 else e.drops).modify k (fun n => min (n + 1) 0xFFFFFFFF) })
    (frameFault d = true → Does (.dstPacketReceived ep d) s (drop 7)) ∧
    (frameFault d = false →
      (hits = [] → Does (.dstPacketReceived ep d) s (drop 0)) ∧
      (hits ≠ [] → parsePacket ep.val d.payload = none → Does (.dstPacketReceived ep d) s (drop 1)) ∧
      (∀ id p, hits ≠ [] → parsePacket ep.val d.payload = some (id, p) → (∀ i ∈ hits, (stream c i).streamId ≠ id) →
        Does (.dstPacketReceived ep d) s (drop 2)) ∧
      (∀ id p i, hits = [i] → parsePacket ep.val d.payload = some (id, p) → (stream c i).streamId = id →
        Does (.dstPacketReceived ep d) s (afterIngest (mergePacket c i ep.val d.src p) i)))) ∧
  (∀ (c : Chip) (i ep : Nat) (src : Peer) (p : Packet),
    let heard := updPath (settleHoles c i) i ep (fun q => { q with heard := true, lastNs := nowNs c, silent := false })
    let fresh := updPath heard i ep (fun q => { q with staleRun := 0 })
    ((stream heard i).high = none → mergePacket c i ep src p = release releaseFuel
      (acceptPacket (updStream fresh i (fun s => { s with high := some p.seq, nextOut := some p.seq })) i src p) i) ∧
    (∀ h, (stream heard i).high = some h →
      let d := seqDiff p.seq h
      (0 < d → d ≤ 65536 →
        mergePacket c i ep src p = settleHoles (acceptPacket (updStream (passOver fresh i ep p.seq) i (fun s =>
          { s with
            high := some p.seq
            holes := s.holes ++ (List.range (d.toNat - 1)).map (fun k =>
              (w32 (h + 1 + k), nowNs (passOver fresh i ep p.seq), [ep])) })) i src p) i) ∧
      (-65536 < d → d ≤ 0 → (stream (passOver fresh i ep p.seq) i).holes.any (fun x => x.1 = p.seq) = true →
        mergePacket c i ep src p = settleHoles (acceptPacket (updStream (passOver fresh i ep p.seq) i (fun s =>
          { s with holes := s.holes.filter (fun x => x.1 ≠ p.seq) })) i src p) i) ∧
      (-65536 < d → d ≤ 0 → (stream (passOver fresh i ep p.seq) i).holes.any (fun x => x.1 = p.seq) = false →
        mergePacket c i ep src p = settleHoles (countDrop (passOver fresh i ep p.seq) ep
          (if (stream (passOver fresh i ep p.seq) i).lostHoles.contains p.seq then 4 else 3)) i) ∧
      (d ≤ -65536 ∨ 65536 < d → mergePacket c i ep src p = stalePacket heard i ep p.seq)))

/-- R105, R108, R114: when MERGE_WINDOW has elapsed for an open hole, at that instant, the holes that are lost by R105 are
declared so; a stream whose network packets stop for 16 ms shows its fallback, with DST_STREAM_LOST; a stream without anchor
asks again; a frame, live or stored, whose trailer is late fails.
R93, R98, R99, R105, R115: paths and ports: a path on which nothing comes for 10 ms, while the other delivers, is silent; a
link that goes or comes back is reported; the discard counters are reported and cleared; control frames for an address of the
port are answered, queries for the groups joined, echoes at most 100 a second; a PAUSE does nothing, and what Table 4-1 does
not support is counted.
The instants (log 3), a second stream lost on one port (log 19), which frames a port answers (log 92) and the REASON
of the anchor request after a fallback (log 109) are the model's. The order of DATA words that the spec lists only by
name is the model's (log 13). -/
def Obligations.StreamsAndPortsTimeOut : Prop :=
  (∀ (s : State) (i : Fin 16), running s.chip = true →
    let x := stream s.chip i.val
    (∀ (n : U32) (h : Nat × Nat × List Nat), x.holes.find? (fun h => h.1 = n.toNat) = some h →
      let c := advanceTo s.chip (h.2.1 + x.mergeWindow * 20000)
      let lost := holeLost c (stream c i.val)
      Does (.holeDeclaredLost i n) s (afterIngest (release releaseFuel
        (updStream c i.val (fun s =>
          { s with
            holes := s.holes.filter (fun h => !lost h)
            lostHoles := ((s.holes.filter lost).map (·.1) ++ s.lostHoles).take 65536 })) i.val) i.val)) ∧
    (x.fromStore = false → x.st = .unanchored ∨ x.st = .anchored → Does (.dstStreamLost i) s
      (raiseOwn (updStream (advanceTo s.chip (x.heardNs + 16000000)) i.val (fun s => { s with st := .fallback, reason := 0 }))
        x.owner 0x1010 [w i.val, w x.lastSeq])) ∧
    (∀ peer, x.st = .unanchored → x.srcPeer = some peer → pathsInService s.chip x ≠ [] → Does (.dstAnchorRequested i) s
      (raiseOwn { updStream s.chip i.val (fun s => { s with requests := w32 (s.requests + 1) }) with
        out := { s.chip.out with anchors := (pathsInService s.chip x).map (fun ep => (ep, peer, anchorPacket s.chip x)) ++
          s.chip.out.anchors } } x.owner 0x1012 [w i.val, w x.reason])) ∧
    (∀ (f : U32) (fr : SceneFrame), x.authRequired = true → fr.closed = true → fr.verified = false →
      let c := advanceTo s.chip (fr.closedNs + trailerWindow x)
      (sceneFrame? (chan s.chip i.val false) f.toNat = some fr →
        Does (.authTrailerTimeout i f) s (afterIngest (authFail c i.val false f.toNat 2) i.val)) ∧
      (sceneFrame? (chan s.chip i.val false) f.toNat = none → sceneFrame? (chan s.chip i.val true) f.toNat = some fr →
        Does (.authTrailerTimeout i f) s
          (afterIngest (finishFrames 64 (authFail c i.val true f.toNat 2) i.val true) i.val)))) ∧
  (∀ (s : State) (ep : Fin 2), running s.chip = true →
    (∀ i : Fin 16,
      let x := stream s.chip i.val
      let c := advanceTo s.chip ((pathOf x ep.val).lastNs + 10000000)
      x.st ≠ .unbound → x.fromStore = false → x.paths.getLsbD ep.val = true → (eth s.chip ep.val).link = true →
      (pathOf x ep.val).silent = false → pathServes c x (1 - ep.val) = true → Does (.dstPathSilent i ep) s
        (afterIngest (settleHoles (raiseOwn (updPath c i.val ep.val (fun q => { q with silent := true }))
          x.owner 0x1003 [w i.val, w ep.val]) i.val) i.val)) ∧
    (let c := updEth s.chip ep.val (fun e => { e with up := false, link := false });
      Does (.dstPathDown ep) s (pathsChanged
        (if (eth s.chip ep.val).up then raise (actionDone c 9 ep.val) 0x1001 [w ep.val] else c))) ∧
    (∀ rate, (eth s.chip ep.val).up = false → (eth s.chip ep.val).isolated = false → Does (.dstPathUp ep rate) s
      (raise (updEth s.chip ep.val (fun e => { e with up := true, link := true, rateGbs := rate })) 0x1002 [w ep.val, w rate])) ∧
    ((eth s.chip ep.val).drops.all (· = 0) = false → Does (.dstCounters ep) s
      (raise (updEth s.chip ep.val (fun e => { e with drops := List.replicate 8 0 })) 0x1020
        (w ep.val :: (eth s.chip ep.val).drops.map w))) ∧
    ((eth s.chip ep.val).isolated = false →
      let mac := s.chip.cfg.macs.getD ep.val 0
      let n := if (eth s.chip ep.val).echoSecond = s.chip.time.sec.toNat then (eth s.chip ep.val).echoCount else 0
      (∀ from_ sender target, Does (.networkControlFrame ep (.arpRequest from_ sender target)) s
        (if ownAddress s.chip ep.val (0xFFFF#96 ++ target) then answer s.chip ep.val (.arpReply mac target from_ sender)
        else s.chip)) ∧
      (∀ from_ sender target, Does (.networkControlFrame ep (.neighborSolicitation from_ sender target)) s
        (if ownAddress s.chip ep.val target then answer s.chip ep.val (.neighborAdvertisement mac target from_ sender)
        else s.chip)) ∧
      (∀ v4, Does (.networkControlFrame ep (if v4 then .igmpQuery else .mldQuery)) s
        (if groupsOn s.chip ep.val v4 = [] then s.chip else answer s.chip ep.val (.groupReport (groupsOn s.chip ep.val v4)))) ∧
      (∀ sender target body, Does (.networkControlFrame ep (.icmpEcho sender target body)) s
        (if ownAddress s.chip ep.val target = true ∧ n < 100 then
          updEth (answer s.chip ep.val (.echoReply target sender body)) ep.val (fun e =>
            { e with echoSecond := s.chip.time.sec.toNat, echoCount := n + 1 })
        else s.chip)) ∧
      Does (.networkControlFrame ep .pause) s s.chip ∧
      Does (.networkControlFrame ep .unsupported) s (countDrop s.chip ep.val 7)))

/-- R108 to R111, R233: `stream_bind` with UNBIND ends the binding and frees what the stream held, and of a stream that is not
bound does nothing; a binding, network or content store, first or anew, takes the parameters of the message, leaves and joins
its groups, reads its loop item ahead, and the ports that follow the stream choose again.
The checks of an UNBIND (log 95) and what becomes of the items of a stream bound again (log 22) are the model's
readings. -/
def Obligations.StreamsAreBound : Prop :=
  ∀ (s : State) (via : Via) (m : Waiting) (k : Bool), Admitted s via m 0x10 k →
    let e := envAt s via m
    let c := chipAt s via m
    let i := mf e 0x10 3 0
    let x := stream c i
    let n := bindingOf e
    n.mergeWindow ≤ 200 → n.fallback ≠ 3 → n.vlan ≠ 4095 →
    ((mw e 0x10).testBit 8 = true → x.st ≠ .unbound → mayAct c (sid e) x.owner = true →
      Answered (.streamBind via) s via m 0x10 k (unbindStream c i) { status := 0 }) ∧
    ((mw e 0x10).testBit 8 = true → x.st = .unbound → Answered (.streamBind via) s via m 0x10 k c { status := 0 }) ∧
    ((mw e 0x10).testBit 8 = false → n.fromStore = true ∨ n.paths ≠ 0 →
      (n.fallback = 1 → storePresent c = true ∧ (storeItem? c n.fallbackItem).isSome = true) →
      (n.fromStore = true → storePresent c = true) → mayAct c (sid e) x.owner = true →
      ∀ d, (x.st = .unbound → reserveArea c 4 i (128 * 2 ^ 20) false false false = some d) → (x.st ≠ .unbound → d = c) →
        let d := forgetUsed (endItems (groupChange d i false) i false) i true
        let d := leaveWork (leaveWork d i false) i true
        let kept := x.sched.map (fun x => { x with left := [], readCount := 0 })
        let path : PathState := { lastNs := nowNs d }
        let ahead := if n.fallback = 1 then readItem d n.fallbackItem 0 (64 * 2 ^ 20) else []
        Answered (.streamBind via) s via m 0x10 k
          (schedule (dispatchDecoders (followersRenew (groupChange (updStream d i (fun _ =>
            { n with sched := kept, loopAhead := ahead, path0 := path, path1 := path, heardNs := nowNs d })) i true) i)))
          { status := 0 }) ∧
    ((mw e 0x10).testBit 8 = false → n.fromStore = false → n.paths = 0 →
      Answered (.streamBind via) s via m 0x10 k c { status := 0x0101 })

/-- R107, R126, R148, R150, R152, R154: a tile row whose bits are complete enters the history and is counted; one that is lost or in
error enters concealed, with its error reported; one whose bits are missing, or whose output buffer is full, suspends its
decoder, which keeps where it stood; a decoder that has nothing to do takes the piece of work that comes first. The words of history
that the row met poisoned or unwritten are counted (R329, R335).
When a scene frame counts as done (log 59), BIT_OFFSET of a decoder event (log 76) and the place of history buffers
(log 93) are the model's readings. -/
def Obligations.DecodersWork : Prop :=
  ∀ (s : State) (dd : Fin 8), running s.chip = true →
    (∀ i item f n y x (full : Option Nat), (nth s.chip.decs dd.val).isolated = false →
      (nth s.chip.decs dd.val).work = some (i, item, f, n, y) →
      sceneFrame? (chan s.chip i item) f = some x →
      let c := updDec s.chip dd.val (fun d => { d with work := none })
      let ch := chan s.chip i item
      let r := decodeRow c i ch x n y full
      let entered := fun (c' : Chip) (l : List (List Nat)) (concealed error : Bool) =>
        afterIngest (finishFrames 64 (nextRow (reportLate
          (count (count (enterRow (countRefs c' i item x r.1 y concealed) i item f r.1 y l r.2.1 concealed error) (108 + dd.val) 0x0501 l.length) (108 + dd.val) 0x0502 1)
          i item f n y (rowDue c i item f (n, y))) dd.val i item f n) i item) i
      (∀ l, r.2.2 = .elements l → Does (.tileRowDecoded ⟨dd, full⟩) s (entered c l false false)) ∧
      (r.2.2 = .lost → Does (.tileRowDecoded ⟨dd, full⟩) s
        (entered (if x.rows.any (fun d => d.array = n && d.row = y && d.counted) then c else loseRows c i 1)
          (concealedRow (seenArray c (stream c i) ch) ch r.1 y) true false)) ∧
      (∀ e, r.2.2 = .error e → Does (.tileRowDecoded ⟨dd, full⟩) s
        (entered (dcError c i e.code e.cause e.pos n y f) (concealedRow (seenArray c (stream c i) ch) ch r.1 y) true true)) ∧
      (∀ st out, r.2.2 = .starved st out → Does (.tileRowDecoded ⟨dd, full⟩) s (afterIngest (count (updDec
        (updFrame c i item f (fun x => { x with rows := x.rows.map (fun d =>
          if d.array = n && d.row = y then { d with tried := d.bytes.length, saved := some st, outputFull := out } else d) }))
        dd.val (fun d => { d with suspended := true })) (108 + dd.val) (if out then 0x0503 else 0x0504) 1) i))) ∧
    (∀ p, (nth s.chip.decs dd.val).work = none → (nth s.chip.decs dd.val).isolated = false →
      nextPiece s.chip true = some p → Does (.decodeResume dd) s
        (updDec s.chip dd.val (fun d => { d with work := some p, suspended := false })))

/-! ## Content store -/

/-- R75, R116, R117, R119, R120, R425: `store_put` accepts a job that reads its buffer; when the job is done both copies of the
directory of every drive in service switch to the item, in free extents of the drive, in one step, and the job completes; or it fails,
with TRANSFER_FAULT where the buffer cannot be read at that time or a drive is missing, with what cut the transfer, or with
INVALID_FIELD where the bytes are no item. `store_delete` takes a present, idle item out of both copies, and `store_list` gives the
directory. That an item takes the lowest free extents is the model's (log 96).
R89: `store_abort` of an unfinished job of this store holds its response; the abort settles at the boundary: a mover's job stops
at its line, an unwritten item leaves nothing, a schedule not yet begun goes with LAST_LINE all ones, and a playing item switches
back. -/
def Obligations.ItemsAreKeptAndAborted : Prop :=
  ((∀ (s : State) (via : Via) (m : Waiting) (k : Bool), Admitted s via m 0x30 k →
    let e := envAt s via m
    let c := chipAt s via m
    let id := mw e 0x10
    let b := bufAt e 0x14
    storeBusy e c = false → b.kind ≤ 1 → bufKindOk e b = true → storePresent c = true → bufFault c (sid e) false b = none →
      itemFree c (sid e) id = true → c.cci.jobs.length < 192 → storeItem? c id ≠ none ∨ itemsTaken c < 4096 → b.len ≤ freeBytes c →
      itemBusy c id = false →
      let n := newJob c 0x30 (tagOf e) (sid e) (bufHolds b)
      Answered (.storePut via) s via m 0x30 k
        (updStore n.2 (fun t => { t with puts :=
          { job := n.1, item := id, bytes := b.len, buf := [b.lo, b.hi, b.len, b.kind], failure := 0 } :: t.puts }))
        { status := 0x0001, result := [w n.1] }) ∧
  (∀ (s : State) (job : U32) (x : StorePut), running s.chip = true →
    s.chip.store.puts.find? (fun y => y.job = job.toNat) = some x →
    let b : Buf := { lo := nth x.buf 0, hi := nth x.buf 1, len := nth x.buf 2, kind := nth x.buf 3 }
    let r := bufRead (dropPut s.chip job.toNat) [] b 0 b.len
    let c := r.1
    (r.2 = none → Does (.storePutDone job) s (endJob c job.toNat .failed 0x0111 0 [])) ∧
    (∀ d, r.2 = some d →
      (x.failure ≠ 0 → Does (.storePutDone job) s (endJob c job.toNat .failed x.failure 0 [])) ∧
      (x.failure = 0 → itemPackets d = none → Does (.storePutDone job) s (endJob c job.toNat .failed 0x0101 0 [])) ∧
      (∀ y, x.failure = 0 → itemPackets d = some y → storePresent c = false →
        Does (.storePutDone job) s (endJob c job.toNat .failed 0x0111 0 [])) ∧
      (∀ y, x.failure = 0 → itemPackets d = some y → storePresent c = true →
        let it : Item := { id := x.item, frames := frameCount y.2, bytes := x.bytes, streamId := y.1,
                           created := w32 c.time.sec.toNat, packets := y.2 }
        let listed : Drive → Directory := fun d => { d.dir with
          items := d.dir.items.filter (fun z => z.id ≠ x.item) ++ [it]
          extents := d.dir.extents.filter (fun z => z.1 ≠ x.item) ++ [(x.item, extentsFor d x.bytes)] }
        Does (.storePutDone job) s (endJob (updDrivesUp c (fun d =>
          { d with dir := listed d, dirCopy := listed d, bad := d.bad.filter (· ≠ x.item) }))
          job.toNat (finishedAs c job.toNat) 0 0 [])))) ∧
  (∀ (s : State) (via : Via) (m : Waiting) (k : Bool), Admitted s via m 0x31 k →
    let e := envAt s via m
    let id := mw e 0x10
    let c := chipAt s via m
    storeBusy e c = false → storePresent c = true → storeItem? c id ≠ none → itemFree c (sid e) id = true → itemBusy c id = false →
      let left : Drive → Directory := fun d => { d.dir with
        items := d.dir.items.filter (fun x => x.id ≠ id), extents := d.dir.extents.filter (fun x => x.1 ≠ id) }
      Answered (.storeDelete via) s via m 0x31 k
        (updDrivesUp c (fun d => { d with dir := left d, dirCopy := left d, bad := d.bad.filter (· ≠ id) })) { status := 0 }) ∧
  (∀ (s : State) (via : Via) (m : Waiting) (k : Bool), Admitted s via m 0x33 k →
    let e := envAt s via m
    let c := chipAt s via m
    let b := bufAt e 0x10
    let d := storeListBytes c
    bufKindOk e b = true → storePresent c = true → bufFault c (sid e) true b = none →
      (d.length ≤ b.len →
        let x := bufWrite c b d
        (b.kind = 2 → x = (c, d, true)) ∧
        (x.2.2 = true → Answered (.storeList via) s via m 0x33 k x.1 { status := 0, result := [w d.length], data := x.2.1 }) ∧
        (x.2.2 = false → Answered (.storeList via) s via m 0x33 k c { status := 0x0111 })) ∧
      (b.len < d.length → Answered (.storeList via) s via m 0x33 k c { status := 0x010C, result := [w d.length] }))) ∧
  ((∀ (s : State) (via : Via) (m : Waiting) (k : Bool) (j : Job), Admitted s via m 0x34 k →
    let e := envAt s via m
    let c := chipAt s via m
    storePresent c = true → job? c (mw e 0x10) = some j → j.opcode = 0x30 ∨ j.opcode = 0x32 → mayAct c (sid e) j.owner = true →
      Answered (.storeAbort via) s via m 0x34 k c { status := 0, held := some j.id }) ∧
  (∀ (s : State) (job : U32) (good : Bool), running s.chip = true → (s.chip.cci.held.map (·.job)) = some job.toNat →
    let mover := s.chip.movers.find? (fun j => j.id = job.toNat)
    let waits := s.chip.store.puts.any (fun x => x.job = job.toNat)
    (∀ j, mover = some j → Does (.abortSettled ⟨job, good⟩) s (schedule (settleMoverAbort s.chip j))) ∧
    (mover = none → waits = true →
      Does (.abortSettled ⟨job, good⟩) s (endJob (dropPut s.chip job.toNat) job.toNat .aborted 0 0 [])) ∧
    (∀ i, mover = none → waits = false → streamOfJob s.chip job.toNat = some i →
      ((stream s.chip i).playing.map (·.job) ≠ some job.toNat → Does (.abortSettled ⟨job, good⟩) s (endJob (updStream s.chip i (fun t =>
        { t with sched := t.sched.filter (fun x => x.job ≠ job.toNat) })) job.toNat .aborted 0 0xFFFFFFFF [])) ∧
      ((stream s.chip i).playing.map (·.job) = some job.toNat → Does (.abortSettled ⟨job, good⟩) s
        (schedule (dispatchDecoders (switchBack (endJob s.chip job.toNat .aborted 0 0 []) i good)))))))

/-- R110, R116, R121 to R123, R158: `store_schedule` accepts a job for an item on a bound stream, in START order; its packets are
read ahead from 100 ms before START and while it plays, into the room of the stream's ring; at the last frame the stream switches
back and the job completes, and a LOOP item is read from its beginning again. A read that fails on a drive is taken from the
other; where none reads the item, a playing item fails and the stream switches back, a waiting one fails, and a loop stops.
The hand-over between live and stored content (log 34), the items of a stream bound again (log 22), the frame that
STO_ITEM_STARTED names (log 110) and an item at half rate (log 111) are the model's readings. -/
def Obligations.ItemsAreScheduled : Prop :=
  (∀ (s : State) (via : Via) (m : Waiting) (k : Bool), Admitted s via m 0x32 k →
    let e := envAt s via m
    let c := chipAt s via m
    let i := mf e 0x14 3 0
    let x := stream c i
    let start := fullSeconds c (mw e 0x1C) * 1000000000 + mw e 0x18
    let new : Schedule := { item := mw e 0x10, startNs := start.toNat, loop := bit e 0x20 0, owner := sid e,
                            late := decide (start < (nowNs c : Int) + 100000000) }
    storeBusy e c = false → mw e 0x18 < 1000000000 → storePresent c = true → storeItem? c (mw e 0x10) ≠ none → x.st ≠ .unbound →
      mayAct c (sid e) x.owner = true → c.cci.jobs.length < 192 → x.sched.any (overlaps c i new) = false →
      (∀ y, x.playing = some y → y.job ≠ 0 → overlaps c i new y = false) →
      Answered (.storeSchedule via) s via m 0x32 k
        (updStream (newJob c 0x32 (tagOf e) (sid e) []).2 i (fun t =>
          { t with sched := insertBy (fun a b => a.startNs < b.startNs) { new with job := c.cci.nextJob } t.sched }))
        { status := 0x0001, result := [w c.cci.nextJob] }) ∧
  (∀ (s : State) (i : Fin 16), running s.chip = true →
    Does (.storeReadAhead i) s (updStream s.chip i.val (fun t =>
      let playing := t.playing.map (fun x => readAhead s.chip (134217728 - waitingBytes x) x)
      { t with
        playing := playing
        sched := match t.sched with
          | x :: rest => (if x.startNs ≤ nowNs s.chip + 100000000
              then readAhead s.chip (134217728 - total (playing.toList.map waitingBytes) - waitingBytes x) x else x) :: rest
          | [] => [] }))) ∧
  (∀ (s : State) (i : Fin 16) (good : Bool), running s.chip = true →
    let st := stream s.chip i.val
    let settled := fun (c : Chip) => schedule (dispatchDecoders c)
    (∀ x, st.playing = some x → x.loop = true →
      let y := { x with left := if x.job = 0 then st.loopAhead else []
                        readCount := if x.job = 0 then st.loopAhead.length else 0, again := true }
      Does (.itemEnd i ⟨.lastFrame, good⟩) s (settled (updStream s.chip i.val (fun t =>
        { t with playing := some (readAhead s.chip (134217728 - waitingBytes y) y) })))) ∧
    (∀ x, st.playing = some x → x.loop = false → Does (.itemEnd i ⟨.lastFrame, good⟩) s (settled (switchBack
      (endJob s.chip x.job (finishedAs s.chip x.job) 0 0 []) i.val good))) ∧
    (∀ x cs0 cs1, itemRead s.chip st = some x →
      let c := markBad s.chip x.item cs0 cs1
      (itemReadable c x.item = true → Does (.itemEnd i ⟨.readFailed cs0 cs1, good⟩) s (settled c)) ∧
      (itemReadable c x.item = false → (stream c i.val).playing = some x → x.job ≠ 0 →
        Does (.itemEnd i ⟨.readFailed cs0 cs1, good⟩) s (settled (switchBack (endJob c x.job .failed 0x0111 0 []) i.val good))) ∧
      (itemReadable c x.item = false → (stream c i.val).playing = some x → x.job = 0 →
        Does (.itemEnd i ⟨.readFailed cs0 cs1, good⟩) s
          (settled (updStream (leaveWork c i.val true) i.val (fun t => { t with playing := none })))) ∧
      (itemReadable c x.item = false → (stream c i.val).playing ≠ some x →
        Does (.itemEnd i ⟨.readFailed cs0 cs1, good⟩) s (settled (endJob (updStream c i.val (fun t =>
          { t with sched := t.sched.filter (fun y => y.job ≠ x.job) })) x.job .failed 0x0111 0 [])))))

/-- R116, R118, R304, R305: a drive that meets the requirements comes up with STO_DRIVE_UP and what it holds, another is refused with
STO_DRIVE_REJECTED; one that goes down raises STO_DRIVE_DOWN. The persistence timer starts a write, on every drive in service, into
the copy that is not the newest, and a write that some drive took ends with the new copy's bytes there, numbered one above the
newest, and STO_PERSISTED; one that no drive took ends with STO_PERSIST_FAILED, as does one without a drive. A copy to restore
gives the map, the counters and the drive parameters.
The causes of STO_PERSIST_FAILED (log 44) and what a drive holds (log 96) are the model's readings. The order of DATA
words that the spec lists only by name is the model's (log 13). -/
def Obligations.DrivesAndCopies : Prop :=
  ∀ (s : State), running s.chip = true →
    (∀ (k : Fin 2) (r : DriveReport), (driveOf? s.chip k.val).up = false → k.val = 0 ∨ s.chip.cfg.csTwoPorts = true →
      (∀ f, r.missing = some f → Does (.stoDriveUp k r) s (raise s.chip 0xD003 [w k.val, f])) ∧
      (∀ d : Drive, r.missing = none →
        (r.content = none → d = { driveOf? s.chip k.val with up := true, capacity := r.capacity }) →
        (∀ x, r.content = some x →
          d = (contentItems x).foldl (fun d it => addItem it d)
            { up := true, capacity := r.capacity, copyA := x.copyA, copyB := x.copyB
              dir := { identity := x.identity }, dirCopy := { identity := x.identity } }) →
        Does (.stoDriveUp k r) s (raise (updStore s.chip (fun t =>
          if k.val = 0 then { t with drive0 := d } else { t with drive1 := d })) 0xD001
          [w k.val, w r.capacity, w (r.capacity / 2 ^ 32)]))) ∧
    (∀ k : Fin 2, (driveOf? s.chip k.val).up = true →
      Does (.stoDriveDown k) s (raise (updStore (actionDone s.chip 10 k.val) (fun t =>
        if k.val = 0 then { t with drive0 := { t.drive0 with up := false } } else { t with drive1 := { t.drive1 with up := false } }))
        0xD002 [w k.val])) ∧
    (s.chip.start.st = .released → smServes s.chip = true → s.chip.store.writing = none →
      (storePresent s.chip = true → ∀ second : Bool, second = ((newestCopy s.chip).map (·.1) == some false) →
        Does .persistenceTimer s (updStore (updDrivesUp s.chip (fun d =>
          if second then { d with copyB := [] } else { d with copyA := [] }))
          (fun t => { t with writing := some (second, s.chip.time.sec.toNat) }))) ∧
      (storePresent s.chip = false →
        Does .persistenceTimer s (raise (updStore s.chip (fun t => { t with noSource := true })) 0xD021 [0]))) ∧
    (∀ b start (written : BitVec 2), s.chip.store.writing = some (b, start) →
      let took : Nat → Bool := fun k => written.getLsbD k && (driveOf? s.chip k).up
      (took 0 = false → took 1 = false → Does (.stoPersisted written) s
        (raise (updStore s.chip (fun t => { t with writing := none, noSource := true })) 0xD021 [1])) ∧
      (took 0 = true ∨ took 1 = true →
        let c := updStore s.chip (fun t => { t with writing := none, noSource := false })
        let c := { c with start := { c.start with shutPersistFailed := false } }
        ∀ seq, (newestCopy s.chip = none → seq = 1) → (∀ x, newestCopy s.chip = some x → seq = w32 (x.2.seq + 1)) →
        let bytes := persistBytes (persistOf c seq start)
        let new : Nat → Drive → Drive := fun k d =>
          if took k then if b then { d with copyB := bytes } else { d with copyA := bytes } else d
        Does (.stoPersisted written) s (raise (updStore c (fun t =>
          { t with drive0 := new 0 t.drive0, drive1 := new 1 t.drive1 })) 0xD020 [w (if b then 1 else 0), w seq]))) ∧
    (∀ b pd x, s.chip.power.restoring = some b → s.chip.tables.panel = some pd →
      newestOf ((completeCopies s.chip).filter (fun x => x.1 = b)) = some (b, x) →
      let c := (List.range (valueCount pd)).foldl (fun c i => writeCount (writeMap c i (nth x.map i)) i (nth x.counters i)) s.chip
      let c := useParams (updPower c (fun p => { p with seeded := x.seeded, restoring := none })) x.params
      Does .mapRestoreDone s (raise c 0xB010 [w ((if b then 1 else 0) + 2 * (if allSeeded c then 1 else 0)), w x.seq]))

/-! ## Synthesis and presentation -/

/-- R177, R179, R181, R187, R189: a tile in hand of a port with a timetable. One that runs on a cell in service completes; one
whose run there was stopped returns to the head of its queue, to start no sooner than 10 µs later; one that waits out that time may start;
one whose latest start passes falls to L3, and the DMA of a region in service repeats it, with TILES_REPEATED where its frame's deadline has passed. The scheduler then deals on.
R187, R189, R192, R383: the projection takes the work rate, ends a restart of the scheduler and steps frames down until
no tile is late; at the deadline of a frame its tiles that are not complete fall to L3, with TILES_REPEATED.
The instants (log 3), when a failed scheduler serves again (log 24) and which region repeats a tile (log 29) are the
model's readings. -/
def Obligations.TilesMeetDeadlines : Prop :=
  (∀ (s : State) (n : U32) (p : Nat) (t : Tile), running s.chip = true → tileOf? s.chip n = some (p, t) →
    (t.st = .running → cellServes s.chip t = true → Does (.tileComplete n) s (schedule (completeTile s.chip p t))) ∧
    (t.st = .stopping → cellServes s.chip t = true → Does (.tileRunStopped n) s (schedule (updTile s.chip p t.band t.col (fun t =>
      { t with st := .queued, notBefore := nowNs s.chip + 10000 })))) ∧
    (t.st = .waiting ∨ t.st = .queued → t.notBefore ≠ 0 → Does (.tileRedispatch n) s (schedule (advanceTo s.chip t.notBefore))) ∧
    (t.st = .waiting ∨ t.st = .queued →
      let c := advanceTo s.chip (tileStartBy s.chip (port s.chip p) t)
      Does (.latestStartPassed n) s (schedule (fallTile c p t.band t.col (fallCause c p t)))) ∧
    (∀ u, t.st = .toRepeat → (List.range 16).find? (regionServes s.chip) = some u →
      let c := copyTile s.chip p t u
      Does (.l3CopyDone n) s (if tileDeadline c p ≤ nowNs c then reportRepeats c p else c))) ∧
  (∀ (s : State), running s.chip = true →
    (∀ rate, Does (.projection rate) s (schedule (project false (restartScheduler { s.chip with workRate := rate })))) ∧
    (∀ (p : Fin 4) (tt : Timetable), (port s.chip p.val).tt = some tt → (port s.chip p.val).running = true →
      let c := advanceTo s.chip (deadlineNs (port s.chip p.val) tt)
      Does (.frameDeadline p) s (schedule (reportRepeats ((port s.chip p.val).tiles.foldl (fun c t =>
        if t.st = .running ∨ t.st = .stopping then fallTile c p.val t.band t.col 3
        else if t.st = .waiting ∨ t.st = .queued then
          fallTile c p.val t.band t.col (fallCause c p.val t)
        else c) c) p.val))))

/-- R220, R221, R238: `timetable_set` gives a port without a timetable a feasible one at once, with its buffers reserved and
its group in training, and answers the first frame; where the port has one, the new one follows at the boundary where the
old one ends, with buffers of its own unless it keeps the geometry; with an empty LANE_MASK it ends the port's timetable there, and is
answered with the boundary at which it ends.
The buffers of a port under a new description (log 36), a pending commit across a change (log 53) and the lanes that a
new LANE_MASK keeps (log 54) are the model's readings. -/
def Obligations.TimetablesAreSet : Prop :=
  ∀ (s : State) (via : Via) (m : Waiting) (k : Bool), Admitted s via m 0x11 k →
    let e := envAt s via m
    let c := chipAt s via m
    let p := mf e 0x10 1 0
    let t := timetableOf e
    let x := port c p
    (∀ pd c', c.tables.panel = some pd → x.tt = none → t.laneMask ≠ 0 → timetableOk t pd.h = true →
      (∀ l ∈ lanesOf t.laneMask, l < laneCount c) → reserveBuffers c p t = some c' → feasible c p t = true →
      overlapsOthers c p t = false →
      Answered (.timetableSet via) s via m 0x11 k (schedule (firstTimetable c' p t (tagOf e)))
        { status := 0, result := [w ((port (firstTimetable c' p t (tagOf e)) p).cur + 1)] }) ∧
    (∀ pd old c', c.tables.panel = some pd → x.tt = some old → t.laneMask ≠ 0 → timetableOk t pd.h = true →
      (∀ l ∈ lanesOf t.laneMask, l < laneCount c) → mayAct c (sid e) old.owner = true →
      (if sameGeometry old t then some (releaseArea c 1 (p + 4)) else reserveBuffers (releaseArea c 1 (p + 4)) (p + 4) t) = some c' →
      feasible c p t = true → overlapsOthers c p t = false →
      let d := updPort c' p (fun y => { y with pendingTt := some (some t, endInstant x old, tagOf e) })
      Answered (.timetableSet via) s via m 0x11 k
        (schedule (if x.windowOpen && !sameGeometry old t then renewTiles d p (fun _ => true) else d))
        { status := 0, result := [w (boundaryAt t (endInstant x old))] }) ∧
    (∀ old, t.laneMask = 0 → x.tt = some old → mayAct c (sid e) old.owner = true →
      Answered (.timetableSet via) s via m 0x11 k
        (updPort (releaseArea c 1 (p + 4)) p (fun y => { y with pendingTt := some (none, endInstant x old, tagOf e) }))
        { status := 0, result := [w (endCount x)] }) ∧
    (t.laneMask = 0 → x.tt = none → Answered (.timetableSet via) s via m 0x11 k c { status := 0x0103 })

/-- R235 to R237, R240: `frame_commit` makes a content pending on every port of its mask, to take effect in frames that close
together, and answers the frame, with COMMIT_LATE where its target has passed; `crc_window_set` makes the settings of a window
of a port with a timetable pending.
CRC windows taken while a frame's window is open (log 58), the SESSION of an event about a resource (log 19) and the
reserved bits of a message (log 25) are the model's readings. -/
def Obligations.CommitsAndWindows : Prop :=
  (∀ (s : State) (via : Via) (m : Waiting) (k : Bool) (r : Nat) (more : List Nat) (rt : Timetable), Admitted s via m 0x12 k →
    let e := envAt s via m
    let c := chipAt s via m
    let id := fld (mw e 0x14) 31 24 * 2 ^ 24
    let ports := bitsOf (mf e 0x10 3 0) 4
    let target := mw e 0x18
    let f := enterFrame (port c r) target
    let d := commitAll { id := w id, tag := tagOf e, owner := sid e, ref := r, refEnters := f.1, target := target } ports c
    ports = r :: more → frameIdOk id = true → fld id 31 28 = 1 ∨ (stream c (fld id 27 24)).st ≠ .unbound →
      (∀ q ∈ ports, mayAct c (sid e) (portOwner c q) = true ∧ mayAct c (sid e) (commitOwner (port c q)) = true ∧
        (port c q).tt ≠ none) → target = 0 ∨ seqDiff target (dueFrame (port c r)) ≤ 2 ^ 24 → (port c r).tt = some rt →
      (f.2 = false → Answered (.frameCommit via) s via m 0x12 k (schedule d) { status := 0, result := [w f.1, 0] }) ∧
      (f.2 = true → Answered (.frameCommit via) s via m 0x12 k
        (schedule (raiseOwn (updPort d r (fun x => { x with commitLate := x.commitLate + 1 })) (sid e) 0x5003
          [w r, w target, w f.1, tagOf e])) { status := 0, result := [w f.1, 1] })) ∧
  (∀ (s : State) (via : Via) (m : Waiting) (k : Bool) (t : Timetable), Admitted s via m 0x15 k →
    let e := envAt s via m
    let c := chipAt s via m
    let p := mf e 0x10 1 0
    let n := mf e 0x10 11 8
    let old := look (port c p).windowsPending n (look (port c p).windowsDue n (nth (port c p).windows n))
    let v : CrcWin := { enabled := bit e 0x10 12, x0 := mf e 0x14 15 0, y0 := mf e 0x14 31 16, w := mf e 0x18 15 0
                        h := mf e 0x18 31 16, dirFirst := mf e 0x1C 7 0, dirCount := mf e 0x1C 15 8, expected := w (mw e 0x20)
                        expectFrame := mw e 0x24, owner := sid e }
    (port c p).tt = some t → mayAct c (sid e) old.owner = true →
      v.enabled = false ∨ (∃ pd, c.tables.panel = some pd ∧ 0 < v.w ∧ v.x0 + v.w ≤ pd.w ∧ 0 < v.h ∧ t.firstRow ≤ v.y0 ∧
        v.y0 + v.h ≤ t.firstRow + t.rowCount ∧ 0 < v.dirCount ∧ v.dirFirst + v.dirCount ≤ pd.dirs) →
      Answered (.crcWindowSet via) s via m 0x15 k
        (updPort c p (fun q => { q with windowsPending := put q.windowsPending n v })) { status := 0 })

/-- R226, R224, R234, R238: at a boundary of a port's timetable the next frame comes; where a change is due there, the
timetable ends or is replaced. Each line sends its row or blanks, and the close of the window settles what the frame uses.
The instants (log 3), the layers of a frame synthesised early (log 17) and CRC windows of an open window (log 58) are
the model's readings. -/
def Obligations.PortsPresentFrames : Prop :=
  ∀ (s : State) (p : Fin 4) (t : Timetable), running s.chip = true → (port s.chip p.val).tt = some t →
    let x := port s.chip p.val
    let k := x.cur + frameStep x
    let at_ := advanceTo s.chip (boundaryNs t k)
    (x.pendingTt = none → Does (.frameBoundary p) s (runBoundary at_ p.val k t)) ∧
    (∀ n e tag, x.pendingTt = some (n, e, tag) → boundaryNs t k < e → Does (.frameBoundary p) s (runBoundary at_ p.val k t)) ∧
    (∀ e tag, x.pendingTt = some (none, e, tag) → e ≤ boundaryNs t k →
      Does (.frameBoundary p) s (schedule (deleteTimetable at_ p.val t e tag))) ∧
    (∀ n e tag, x.pendingTt = some (some n, e, tag) → e ≤ boundaryNs t k →
      let c := replaceTimetable at_ p.val t n e tag
      let k := (port c p.val).cur + 1
      (nowNs c < boundaryNs n k → Does (.frameBoundary p) s (schedule c)) ∧
      (boundaryNs n k ≤ nowNs c → Does (.frameBoundary p) s (runBoundary c p.val k n))) ∧
    (x.running = true → x.rephase = false → x.line < t.active + t.blank →
      let c := advanceTo s.chip (lineNs x t x.line)
      let next := fun (c : Chip) => flushCommands (updPort c p.val (fun x => { x with line := x.line + 1 })) p.val
      (x.line + 1 < t.active → Does (.lineInstant p) s (next (activeLine c p.val x.line t))) ∧
      (x.line + 1 = t.active → Does (.lineInstant p) s (startPauses (next (activeLine c p.val x.line t)))) ∧
      (x.line = t.active → Does (.lineInstant p) s (sleepGroup (takeTrims (next c) p.val) p.val t)) ∧
      (t.active < x.line → Does (.lineInstant p) s (next c))) ∧
    (x.windowOpen = true →
      let f := dueCount x
      let c := commitInForce (advanceTo s.chip (windowOf x t k)) p.val f
      let c := if referencePort c = some p.val then settleLayers c f else c
      let uses := layersFor c (port c p.val)
      let c := tablesInForce ((uses.map (·.surf)).foldl showSurface c) p.val f
      Does (.departureWindowClose p) s (schedule (updPort (windowsInForce c p.val (w32 f)) p.val
        (fun x => { x with windowOpen := false, layers := uses }))))

/-! ## Lanes and panel drive -/

/-- R257, R258, R269, R273: a lane trains through WAKE, ALIGN, EQ (in a full training only) and CHECK: ALIGN ends once the lane
has reported its locks in it, EQ once every tap point is measured, with the best one, CHECK after 16 good windows or 4; the lane then takes
its stripe, and a lane that retried is siding and reported. A phase that does not end in its time begins the training again in
full, and the third attempt makes the lane lost, with LNK_TRAIN_FAILED; a timeout of a phase that the lane has left changes
nothing; a lost lane retries alone while a Stationmaster pair
serves; a sleeping lane wakes, with the superframes of its sleep counted.
The instants (log 3), where SF_COUNT begins (log 84) and trainings at their edges (log 98) are the model's. The order
of DATA words that the spec lists only by name is the model's (log 13). -/
def Obligations.LanesTrain : Prop :=
  ∀ (s : State) (l : Fin 48) (r : PhaseReport), running s.chip = true →
    let y := lane s.chip l.val
    let set := fun f => updLane s.chip l.val f
    (y.st = .wake → Does (.trainingPhaseEnd l r) s (enterPhase s.chip l.val .align)) ∧
    (y.st = .align → y.locked = true → Does (.trainingPhaseEnd l r) s (enterPhase s.chip l.val (if y.full then .eq else .check))) ∧
    (y.st = .align → y.locked = false → Does (.trainingPhaseEnd l r) s s.chip) ∧
    (∀ pre post fom, y.st = .eq → settledPoint r.points = some (pre, post, fom) →
      Does (.trainingPhaseEnd l r) s (enterPhase (set (fun x => { x with pre := pre, post := post })) l.val .check)) ∧
    (∀ p, y.st = .check → (if y.full then 16 else 4) ≤ y.checkRun → portOfLane s.chip l.val = some p →
      let stripe := (trainingStripe s.chip p l.val).1
      let c := set (fun x =>
        { x with
          st := if stripe = 0xFE then .siding else .active, stripe := stripe, everTrained := true, retrying := false
          lostSince := x.lostSince && !x.full, attempts := 0, lowRun := 0, marginRun := 0, window := [], trial := none })
      (y.retrying = true → Does (.trainingPhaseEnd l r) s
        (groupTrained (raiseOwn c (portOwner c p) 0x6004 [w (l.val + p * 256), w (y.fom % 256)]) p)) ∧
      (y.retrying = false → Does (.trainingPhaseEnd l r) s
        (groupTrained (updPort c p (fun x => { x with anyFull := x.anyFull || y.full })) p))) ∧
    (y.st = .check → y.checkRun < (if y.full then 16 else 4) → Does (.trainingPhaseEnd l r) s s.chip) ∧
    (∀ k : Fin 4, inTraining y = true → phaseNumber y.st = k.val →
      (y.attempts < 2 → Does (.trainingTimeout l k) s
        (enterPhase (set (fun x => { x with full := true, attempts := x.attempts + 1 })) l.val .wake)) ∧
      (2 ≤ y.attempts →
        let c := set (fun x => { x with st := .lost, stripe := 0xFF, lostSince := true, attempts := 0 })
        let c := raiseOwn c (laneOwner c l.val) 0x6003 [w (l.val + (y.attempts + 1) * 256), w (y.fom % 256 + phaseNumber y.st * 256)]
        (portOfLane c l.val = none → Does (.trainingTimeout l k) s c) ∧
        (∀ p, portOfLane c l.val = some p → Does (.trainingTimeout l k) s (groupTrained c p)))) ∧
    (∀ k : Fin 4, phaseNumber y.st ≠ k.val → Does (.trainingTimeout l k) s s.chip) ∧
    (y.st = .lost → y.unusable = false → s.chip.power.driverUp = true → smServes s.chip = true → portOfLane s.chip l.val ≠ none →
      Does (.laneRetry l) s (updLane (trainLane s.chip l.val) l.val (fun x =>
        { x with full := true, retrying := true, retries := x.retries + 1 }))) ∧
    (∀ u, y.asleep = true → y.wakeUi = some u →
      let left := untilUi s.chip u
      let awake := fun (c : Chip) => updLane (count c (96 + l.val / 4) 0x0406 (225 * (nowNs c - (lane c l.val).sleptNs) / superframeUi)) l.val
        (fun x => { x with asleep := false })
      (burstUi y.deep ≤ left → left < 32768 * superframeUi → Does (.laneWake l) s
        (awake (advanceTo s.chip (nowNs s.chip + (left - burstUi y.deep) / 225)))) ∧
      (left < burstUi y.deep ∨ 32768 * superframeUi ≤ left → Does (.laneWake l) s (awake s.chip))) ∧
    (y.asleep = false → Does (.laneWake l) s s.chip)

/-- R246, R259, R260, R264, R270, R274: a return message of a quad in use whose CHECK is right is taken: LANE_REPORT gives flags
and the figure of merit, and its counts once a window; LANE_FAULT sends its lane to the points, lost since its last good
codeword. A message that fails its check, or of a type that is reserved, is discarded and counted. A return lane that is lost or
comes back is reported, and while it is lost no message of its quad is taken. In blanking, once in a frame and while LANE_EQ is not
STALE, an adaptation that made the sum of the next four windows smaller is undone and another is kept, and the next is tried below
a figure of 128; `lane_status` reads a quad and clears its counts.
R265, R267: at the line instant the lost lanes of a port switch, in order of lane: a siding lane that is not lost itself takes
the stripe of a lost active lane; without one the port restripes; a lost siding lane needs nothing.
Trainings and adaptation at their edges (log 98), the segments of a lost lane (log 38) and where SF_COUNT begins (log
84) are the model's. The order of DATA words that the spec lists only by name is the model's (log 13). -/
def Obligations.LanesReportAndSwitch : Prop :=
  ((∀ (s : State) (q : Fin 12) (b : List Byte), running s.chip = true → quadInUse s.chip q.val = true →
    (quad s.chip q.val).returnUp = true →
    let sound := crc16 (slice b 0 14) = ofBe (slice b 14 2)
    let l := byteOf b 1
    let c0 := noteCheck s.chip q.val false
    (sound → byteOf b 0 = 0x10 → portOfLane c0 l ≠ none →
      let c := updLane c0 l (fun x => { x with flags := byteOf b 2, fom := byteOf b 3 })
      let c := updLane c l (fun x => { x with locked := x.locked || laneLock x })
      ((lane c0 l).windowSf = some (be16 b 4) → Does (.laneReport q b) s c) ∧
      ((lane c0 l).windowSf ≠ some (be16 b 4) →
        let c := updLane c l (fun x =>
          { x with
            windowSf := some (be16 b 4)
            checkRun := if x.st = .check && sfSince (be16 b 4) x.phaseSf then
              (if 64 ≤ byteOf b 3 && be16 b 6 = 0 then x.checkRun + 1 else 0) else x.checkRun })
        let c := updQuad c (l / 4) (fun x => { x with corrected := x.corrected + be32 b 8, uncorr := x.uncorr + be16 b 6 })
        Does (.laneReport q b) s
          (takeFom (count (count c (96 + l / 4) 0x0404 (be32 b 8)) (96 + l / 4) 0x0405 (be16 b 6)) l (byteOf b 3)))) ∧
    (∀ p, sound → byteOf b 0 = 0x11 → portOfLane c0 l = some p → (lane c0 l).st = .active ∨ (lane c0 l).st = .siding →
      (port c0 p).switching.any (fun x => x.1 = l) = false →
      Does (.laneFault q b) s (updPort c0 p (fun x =>
        { x with switching := x.switching ++ [(l, byteOf b 2, nowNs c0, codewordEnd c0 (be16 b 4) (byteOf b 6))] }))) ∧
    (sound → messageTypes.contains (byteOf b 0) = true → byteOf b 0 ≠ 0x10 → Does (.laneReport q b) s c0) ∧
    (sound → messageTypes.contains (byteOf b 0) = false → Does (.laneReport q b) s (discardReturn c0 q.val)) ∧
    (¬ sound → Does (.laneReport q b) s (discardReturn (noteCheck s.chip q.val true) q.val)) ∧
    (∀ cause : Fin 4, Does (.lnkReturnLost q cause) s
      (raise (actionDone (updQuad s.chip q.val (fun x => { x with returnUp := false, recent := [] })) 8 q.val) 0x6006
        [w (q.val + cause.val * 256)]))) ∧
  (∀ (s : State) (q : Fin 12) (b : List Byte), running s.chip = true → quadInUse s.chip q.val = true →
    (quad s.chip q.val).returnUp = false →
    Does (.laneReport q b) s s.chip ∧ Does (.laneFault q b) s s.chip ∧
    Does (.lnkReturnUp q) s
      (raise (updQuad s.chip q.val (fun x => { x with returnUp := true, recent := [] })) 0x6007 [w q.val])) ∧
  (∀ (s : State) (l : Fin 48), running s.chip = true →
    let y := lane s.chip l.val
    y.st = .active ∨ y.st = .siding → 4 ≤ y.window.length → mayStep s.chip l.val = true →
      (calDomain s.chip 3).stale = false ∨ eqRun s.chip l.val = true →
      (y.trial = none → Does (.tapAdapt l) s (nextStep s.chip l.val)) ∧
      (eqRun s.chip l.val = false → nextStep s.chip l.val =
        if y.fom < 128 then updLane (tryStep s.chip l.val) l.val (fun x => { x with stepFrame := stepNow s.chip l.val }) else s.chip) ∧
      (∀ t, y.trial = some t → y.after.length < 4 → Does (.tapAdapt l) s s.chip) ∧
      (∀ t, y.trial = some t → 4 ≤ y.after.length → y.before ≤ total y.after →
        Does (.tapAdapt l) s (nextStep (stepDone (updLane s.chip l.val (fun x => { x with trial := none })) l.val) l.val)) ∧
      (∀ post up, y.trial = some (post, up) → 4 ≤ y.after.length → total y.after < y.before →
        Does (.tapAdapt l) s (stepDone (updLane s.chip l.val (fun x =>
          { (stepTap post (!up) x).1 with trial := none, stepFrame := stepNow s.chip l.val })) l.val))) ∧
  (∀ (s : State) (via : Via) (m : Waiting) (k : Bool), Admitted s via m 0x40 k →
    let c := chipAt s via m
    let q := mf (envAt s via m) 0x10 3 0
    let x := quad c q
    q < quadCount c → Answered (.laneStatus via) s via m 0x40 k
      (updQuad c q (fun y => { y with checkFails := 0, corrected := 0, uncorr := 0 }))
      { status := 0, result := (List.range 4).map (fun i => laneWord (lane c (4 * q + i))) ++
        [w ((if x.returnUp then 1 else 0) + (if relayed c q then 1 else 0) * 2 + min x.checkFails 65535 * 65536), w x.corrected, w x.uncorr] })) ∧
  ((∀ (s : State) (p : Fin 4) (t : Timetable) (pd : Panel), running s.chip = true → (port s.chip p.val).tt = some t →
    rowPanel s.chip (port s.chip p.val) = some pd → (port s.chip p.val).switching ≠ [] →
    Does (.pointsSwitch p) s (switchPort p.val s.chip)) ∧
  (∀ (c : Chip) (p l cause ns since n : Nat) (lost : List Nat) (told : List LostLane),
    ((lane c l).st = .active → chooseSiding c p l lost = some n →
      switchLane p lost (c, told) (l, cause, ns, since) =
        (updLane (dropLane c l) n (fun z => { z with st := .active, stripe := (lane c l).stripe }),
         told ++ [{ lane := l, cause := cause, stripe := (lane c l).stripe, new := n, restripe := false }])) ∧
    ((lane c l).st = .active → chooseSiding c p l lost = none →
      switchLane p lost (c, told) (l, cause, ns, since) =
        (dropLane c l, told ++ [{ lane := l, cause := cause, stripe := (lane c l).stripe, new := 0xFF, restripe := true }])) ∧
    ((lane c l).st = .siding →
      switchLane p lost (c, told) (l, cause, ns, since) =
        (dropLane c l, told ++ [{ lane := l, cause := cause, stripe := 0xFF, new := 0xFF, restripe := false }]))))

/-- R248, R250, R251: descrambling is scrambling again; a superframe of 4,111 slots after its comma is 534,560 message bits,
which are the message bits of its 104 codewords of 5,440 bits.
R279: packet k of a row starts at line block 65 × k.
R262: data block j of a line goes to stripe j mod a, as block j / a of that stripe.
That the lane stream is a function of the state and no step of its own is the model's (log 85). -/
def Obligations.LanesCarryPackets : Prop :=
  (∀ (b : List Bool) (s : Nat), scrambleBits (scrambleBits b s).1 s = (b, (scrambleBits b s).2)) ∧
  (∀ (laneId stripe sf : Nat) (slots : List (Bool × List Byte)), slots.length = 4111 → (∀ x ∈ slots, x.2.length = 16) →
    let b := superframeBits laneId stripe sf slots
    b.length = 534560 ∧ (superframeCode b).length = 104 * 5440 ∧
    ∀ k < 104, ((superframeCode b).drop (5440 * k)).take 5140 = (b.drop (5140 * k)).take 5140) ∧
  (∀ (ratio2 : Bool) (row frame : Nat) (code : List Byte) (k : Nat), code.length % 16 = 0 → k < cdiv code.length 1024 →
    ((rowPackets ratio2 row frame code).drop (16 * (65 * k))).take (16 + min 1024 (code.length - 1024 * k)) =
      rowPacket ratio2 row frame code k) ∧
  (∀ (a : Nat) (blocks : List (List Byte)) (j : Nat), 0 < a → j < blocks.length →
    nth (stripeBlocks a (j % a) blocks) (j / a) = nth blocks j)

/-- R277, R285, R286: DRV_HELLO records and announces a driver; CMD_ACK ends a command once no driver still has to acknowledge
it; a command not acknowledged is repeated eight times and then fails, with DRV_CMD_FAIL, and with it step 6 of an up sequence;
DRV_STATUS gives the driver's temperature, announced or not, and reports it hot, and data that it lost.
When a driver command goes out (log 23) and what a rate limit keeps (log 15) are the model's. The order of DATA words
that the spec lists only by name is the model's (log 13). -/
def Obligations.DriversSpeak : Prop :=
  ∀ (s : State) (q : Fin 12) (b : List Byte), running s.chip = true → quadInUse s.chip q.val = true →
    (quad s.chip q.val).returnUp = true →
    (crc16 (slice b 0 14) = ofBe (slice b 14 2) →
      let id := byteOf b 1
      let c0 := noteCheck s.chip q.val false
      (byteOf b 0 = 0x20 →
        let old := (driver? c0 id).getD { id := id }
        let c := setDriver c0 { old with
          quad := q.val, family := be16 b 2, colFirst := be16 b 4, colCount := be16 b 6, rowFirst := be16 b 8
          rowCount := be16 b 10, announced := true }
        (old.announced = true → Does (.drvHello q b) s c) ∧
        (old.announced = false → Does (.drvHello q b) s (raise c 0xB003
          [w (id + q.val * 256), w (be16 b 4 + be16 b 6 * 65536), w (be16 b 8 + be16 b 10 * 65536)]))) ∧
      (byteOf b 0 = 0x21 → c0.power.cmds.find? (fun x => x.seq = be16 b 2) = none → Does (.cmdAck q b) s c0) ∧
      (∀ x, byteOf b 0 = 0x21 → c0.power.cmds.find? (fun x => x.seq = be16 b 2) = some x →
        (x.missing.filter (· ≠ id) = [] → Does (.cmdAck q b) s (commandTaken (updPower c0 (fun p =>
          { p with cmds := p.cmds.filter (fun y => y.seq ≠ be16 b 2) })) x.port x.ptype)) ∧
        (x.missing.filter (· ≠ id) ≠ [] → Does (.cmdAck q b) s (updPower c0 (fun p =>
          { p with cmds := p.cmds.map (fun y => if y.seq = be16 b 2 then { y with missing := x.missing.filter (· ≠ id) } else y) })))) ∧
      (byteOf b 0 = 0x22 →
        let temp := signed 16 (be16 b 2)
        let d := (driver? c0 id).getD { id := id, quad := q.val }
        let c := setDriver c0 { d with temp := temp, flags := byteOf b 6 }
        let c := if temp ≤ c.power.params.hot then c else raiseEvery c 0 0xB005 id sec10 [w (id + be16 b 2 * 65536)]
        Does (.drvStatus q b) s (if be16 b 4 = 0 then c else raiseLimited c 0xB006 id sec10 (be16 b 4) 1 [w id, 0]))) ∧
    (∀ (n : U16), s.chip.power.cmds.find? (fun x => x.seq = n.toNat) = none → Does (.cmdRepeat n) s s.chip) ∧
    (∀ (n : U16) x, s.chip.power.cmds.find? (fun x => x.seq = n.toNat) = some x →
      (x.repeats < 8 → Does (.cmdRepeat n) s
        (queueCommand (updPower s.chip (fun p =>
          { p with cmds := p.cmds.map (fun y => if y.seq = n.toNat then { y with repeats := y.repeats + 1 } else y) }))
          x.port x.ptype n.toNat x.payload)) ∧
      (∀ d, 8 ≤ x.repeats → (match x.missing with | [d] => d | _ => 0xFF) = d →
        let c := raise (updPower s.chip (fun p => { p with cmds := p.cmds.filter (fun y => y.seq ≠ n.toNat) })) 0xB004
          [w (d + x.ptype * 256 + n.toNat * 65536)]
        ((s.chip.power.run ≠ .up ∨ s.chip.power.step ≠ 6 ∨ x.ptype ≠ 0x11) → Does (.cmdRepeat n) s c) ∧
        (s.chip.power.run = .up → s.chip.power.step = 6 → x.ptype = 0x11 → Does (.cmdRepeat n) s (failUp c 4))))

/-- R292 to R295: `power_sequence` starts an up or a down sequence as a job; one that finds the rails so already completes at
once, an up job fails while power has tripped, also while the trip's own descent runs, and a down job waits for the up job that runs. The steps follow one another once
the GOOD that a step waits for has come or gone; a GOOD that does not come in time fails the up sequence, and is logged by the
down sequence; a down job that waits takes over at the boundary of a step; a GOOD lost on an output that is enabled is PWR_FAULT
and drops the emitter supplies at once. A restart that waited for the rails follows.
A sequence while another runs (log 40) and HIF_RESET while rails are up (log 62) are the model's readings. The order
of DATA words that the spec lists only by name is the model's (log 13). -/
def Obligations.RailsFollowTheSequence : Prop :=
  (∀ (s : State) (via : Via) (m : Waiting) (k : Bool), Admitted s via m 0x42 k →
    let e := envAt s via m
    let c := chipAt s via m
    let p := c.power
    let n := (newJob c 0x42 (tagOf e) (sid e) []).2
    let takes := fun d => Answered (.powerSequence via) s via m 0x42 k d { status := 1, result := [w c.cci.nextJob] }
    c.cci.jobs.length < 192 →
    ((mw e 0x10).testBit 0 = false → p.run = .idle →
      (p.railsUp = true → takes (endJob n c.cci.nextJob .completed 0 0 [])) ∧
      (p.railsUp = false → p.tripped = true → takes (endJob n c.cci.nextJob .failed 0x010E 0 [w (1 + 6 * 256)])) ∧
      (p.railsUp = false → p.tripped = false → takes (raiseDrivers (updPower n (fun p =>
        { p with run := .up, step := 1, job := c.cci.nextJob, downWaits := none, startNs := nowNs c }))))) ∧
    ((mw e 0x10).testBit 0 = false → p.run = .down → p.job = 0 → p.railsUp = false → p.tripped = true →
      takes (endJob n c.cci.nextJob .failed 0x010E 0 [w (1 + 6 * 256)])) ∧
    ((mw e 0x10).testBit 0 = true → p.downWaits = none →
      (p.run = .idle → p.railsUp = true → takes (startDown n c.cci.nextJob)) ∧
      (p.run = .idle → p.railsUp = false → takes (endJob n c.cci.nextJob .completed 0 0 [])) ∧
      (p.run = .up → takes (updPower n (fun p => { p with downWaits := some c.cci.nextJob }))))) ∧
  (∀ (s : State) (n : Fin 4),
    let p := s.chip.power
    Does (.pseqGoodRise n) s (updPower (setGood s.chip n.val true) (fun x =>
      { x with waitOn := if p.run = .up && p.waitOn = some n.val then none else x.waitOn })) ∧
    Does (.pseqGoodFall n) s (updPower (setGood s.chip n.val false) (fun x =>
      { x with waitOn := if p.run = .down && p.waitOn = some n.val then none else x.waitOn })) ∧
    (p.run = .up → p.waitOn = some n.val → Does (.pseqGoodTimeout n) s (startDown
      (endJob s.chip p.job .failed 0x010E 0 [w (p.step + 256)]) (p.downWaits.getD 0))) ∧
    (p.run = .down → p.waitOn = some n.val → Does (.pseqGoodTimeout n) s (updPower s.chip (fun p =>
      { p with waitOn := none, stuck := p.stuck ||| BitVec.ofNat 4 (2 ^ n.val) }))) ∧
    (p.run = .idle ∨ p.waitOn ≠ some n.val → Does (.pseqGoodTimeout n) s s.chip) ∧
    (running s.chip = true →
      let goesTo := fun (i : Instr) (c : Chip) => exec i s = .next (restartWhenDown (settleAborts (flush { s with chip := c })))
      (p.run = .up → p.waitOn = none →
        (p.downWaits = none ∨ stepWhole s.chip = false → goesTo .powerSequenceStep (upNext s.chip)) ∧
        (∀ j, p.downWaits = some j → stepWhole s.chip = true →
          goesTo .powerSequenceStep (startDown (endJob s.chip p.job .aborted 0 0 []) j))) ∧
      (p.run = .down → p.waitOn = none → goesTo .powerSequenceStep (downNext s.chip)) ∧
      (enabled s.chip n.val = true →
        let told := fun step => raise (setGood s.chip n.val false) 0xB002 [w (n.val + step * 256)]
        (p.run = .idle → goesTo (.pwrFault n) (dropRails (told 7))) ∧
        (p.run = .down → goesTo (.pwrFault n) (dropRails (told p.step))) ∧
        (p.run = .up → goesTo (.pwrFault n) (dropRails (updPower (endJob (told p.step) p.job .failed 0x010E 0 [w (p.step + 2 * 256)])
          (fun x => { x with job := p.downWaits.getD 0, downWaits := none, startNs := nowNs s.chip })))))))

/-! ## Layers, surfaces, tables and movers -/

/-- R80, R195, R196, R208 to R211: `layer_define` of layer 1 to 7 with a fitting definition makes its definition pending, and a
surface where it names one; with UNDEFINE it makes the layer's removal pending; `layer_commit` makes a suitable surface pending,
and answers the frame. The layer and the surface are the session's own. Another definition of layer 0 is INVALID_FIELD.
Which owners a layer command checks is the model's reading (log 100). -/
def Obligations.LayersAreDefined : Prop :=
  (∀ (s : State) (via : Via) (m : Waiting) (k : Bool) (r : Nat), Admitted s via m 0x13 k →
    let e := envAt s via m
    let c := chipAt s via m
    let i := mf e 0x10 2 0
    let d := layerDefOf e
    let surf := mf e 0x14 15 0
    let x : LayerChange := { surf := if surf = 0xFFFF then none else some surf, newDef := some d, target := layerTarget c r 0
                             tag := tagOf e, waits := waitsFor c surf }
    (i = 0 → Answered (.layerDefine via) s via m 0x13 k (schedule c) { status := 0x0101 }) ∧
    (i ≠ 0 → referencePort c = some r →
      ((mw e 0x10).testBit 8 = true → mayLayer c (sid e) i 0xFFFF = true →
        (layerKnown (layer c i) = true → Answered (.layerDefine via) s via m 0x13 k
          (schedule (pendChange c i { undefine := true, target := layerTarget c r 0, tag := tagOf e })) { status := 0 }) ∧
        (layerKnown (layer c i) = false → Answered (.layerDefine via) s via m 0x13 k (schedule c) { status := 0 })) ∧
      ((mw e 0x10).testBit 8 = false → layerDefOk c d = true → mayLayer c (sid e) i surf = true →
        (if surf = 0xFFFF then suitsId c (layer c i).surf d = true ∧ suitsId c ((layer c i).pending.bind (·.surf)) d = true
          else commitSurface c surf ≠ none ∧ suitsId c (some surf) d = true) → fitsAfter c i x = true →
        Answered (.layerDefine via) s via m 0x13 k
          (schedule (pendChange (updLayer c i (fun l => { l with owner := sid e })) i x)) { status := 0 }))) ∧
  (∀ (s : State) (via : Via) (m : Waiting) (k : Bool) (r : Nat) (d : LayerDef) (surf : Surface), Admitted s via m 0x14 k →
    let e := envAt s via m
    let c := chipAt s via m
    let i := mf e 0x10 2 0
    let f := layerTarget c r (mw e 0x18)
    let x : LayerChange := { surf := some (mf e 0x14 15 0), target := f, tag := tagOf e, waits := waitsFor c (mf e 0x14 15 0) }
    i ≠ 0 → newestDef (layer c i) = some d → commitSurface c (mf e 0x14 15 0) = some surf →
      mayLayer c (sid e) i (mf e 0x14 15 0) = true → surfaceSuits surf d = true → referencePort c = some r → fitsAfter c i x = true →
      Answered (.layerCommit via) s via m 0x14 k
        (schedule (pendChange (updLayer c i (fun l => { l with owner := sid e })) i x)) { status := 0, result := [w f] })

/-- R198, R213: `surface_alloc` gives the lowest free identifier and offset of a region to a surface of the message's
format and geometry; `surface_free` frees one that is not shown, and defers the freeing of one that is.
R162 to R166, R202, R299 to R301, R406: data of a table's KIND that pass its checks take effect with the next generation
number, which the response gives; data that do not change nothing. A direction offset table, a colour table or a coefficient set
becomes the newest one; a panel description does where every timetable still fits it; drive parameters come in force; a
calibration set takes the place of the one of its index, and is reported.
The choice of the lowest free place and identifier is the model's (log 18), and so are the panel description that a
table piece is checked against (log 31) and what becomes of a port's buffers under a new description (log 36). -/
def Obligations.SurfacesAndTables : Prop :=
  ((∀ (s : State) (via : Via) (m : Waiting) (k : Bool) (r : MemRegion), Admitted s via m 0x21 k →
    let e := envAt s via m
    let c := chipAt s via m
    let fmt := mf e 0x10 19 16
    let wd := mf e 0x14 15 0
    let ht := mf e 0x14 31 16
    let stride := if mw e 0x18 = 0 then leastStride fmt wd else mw e 0x18
    let size := surfSize fmt ht stride
    ∀ off id, fmt ≤ 4 → 0 < wd → wd ≤ 8192 → 0 < ht → ht ≤ 8192 → (fmt = 3 → wd % 2 = 0) → (fmt = 4 → wd % 4 = 0 ∧ ht % 4 = 0) →
      stride % 256 = 0 → leastStride fmt wd ≤ stride →
      memRegion? c (mf e 0x10 5 0) = some r → mayAct c (sid e) r.owner = true → c.surfs.length < 256 →
      surfaceFit c r size = some off → ((List.range 257).filter (fun id => (surface? c id).isNone)).head? = some id →
      Answered (.surfaceAlloc via) s via m 0x21 k
        { c with surfs := c.surfs ++ [{ id := id, region := r.id, format := fmt, w := wd, h := ht, offset := off, stride := stride
                                        size := size, owner := sid e }] }
        { status := 0, result := [w id, w off, w stride, w size] }) ∧
  (∀ (s : State) (via : Via) (m : Waiting) (k : Bool) (x : Surface), Admitted s via m 0x22 k →
    let c := chipAt s via m
    let id := mf (envAt s via m) 0x10 15 0
    surface? c id = some x → mayAct c (sid (envAt s via m)) x.owner = true →
      (x.freeDeferred = true → Answered (.surfaceFree via) s via m 0x22 k c { status := 0x0002 }) ∧
      (x.freeDeferred = false → surfaceBusy c id = false →
        (x.inDisplay = false → Answered (.surfaceFree via) s via m 0x22 k (dropSurface c id) { status := 0 }) ∧
        (x.inDisplay = true → Answered (.surfaceFree via) s via m 0x22 k
          (updSurface c id (fun x => { x with freeDeferred := true })) { status := 0x0002 })))) ∧
  ((∀ (s : State) (via : Via) (m : Waiting) (k : Bool) (c' : Chip) (b : List Byte), Admitted s via m 0x16 k →
    let e := envAt s via m
    let c := chipAt s via m
    let kind := mf e 0x10 7 0
    let i := mf e 0x10 15 8
    let buf := bufAt e 0x14
    let gen := w32 (c.tableGen + 1)
    kind ≤ 6 → indexOk kind i = true → bufKindOk e buf = true → bufFault c (sid e) false buf = none →
      bufRead c e.inline buf 0 buf.len = (c', some b) →
      (∀ d, takeTable c' kind i gen b = (d, 0) → Answered (.tableLoad via) s via m 0x16 k
        (schedule { d with tableGen := gen }) { status := 0, result := [w gen] }) ∧
      (∀ d st, takeTable c' kind i gen b = (d, st) → st ≠ 0 → Answered (.tableLoad via) s via m 0x16 k c' { status := st })) ∧
  (∀ (c : Chip) (gen i : Nat) (b : List Byte),
    (∀ l, parseOffsets c.tables.panel b = some l → takeTable c 1 0 gen b = (setTables c 1 gen { c.tables with offsets := l }, 0)) ∧
    (∀ t, parseColour b = some t → takeTable c 2 0 gen b = (setTables c 2 gen { c.tables with colour := some t }, 0)) ∧
    (∀ x, parseCoefs b = some x → tapsConflict c i x.1 = false → takeTable c 3 i gen b =
      (setTables c (3 + i) gen { c.tables with coefs := (i, x) :: c.tables.coefs.filter (fun y => y.1 ≠ i) }, 0)) ∧
    (∀ d, parseParams b = some d → takeTable c 4 1 gen b = (useParams c d, 0)) ∧
    (∀ pd old d, parsePanel c b = some pd → c.tables.panel = some old → old.w = pd.w → old.h = pd.h → old.dirs = pd.dirs →
      refitPorts (setTables c 0 gen { c.tables with panel := some pd }) = some d → takeTable c 0 0 gen b = (lookForCopy d pd, 0)) ∧
    (∀ t l, parseCalSet b = some (t, l) → l ≠ [] → c.cal.sets.any (fun x => x.1 ≠ i && x.2.1 = t) = false →
      let known := l.filter (fun x => (trimItems c).contains x.1)
      takeTable c 6 i gen b = (raise { c with cal := { c.cal with sets := c.cal.sets.filter (fun x => x.1 ≠ i) ++ [(i, t, known)] } }
        0x9004 [w (i + (BitVec.ofInt 16 t).toNat * 65536), w (known.length + (l.length - known.length) * 256)], 0)) ∧
    (∀ k, 1 ≤ k → k ≤ 2 → parseOffsets c.tables.panel b = none → parseColour b = none → takeTable c k 0 gen b = (c, 0x0101))))

/-- R343, R352 to R354, R89: `mover_submit` accepts a fill, copy or conversion of surfaces of the session as a job; a mover that
completes a line of it tells it, with the signal that the job asked for, and goes on to the next; the last line ends the job, and
an abort ends it at the line boundary. `mover_abort` holds its response until then, and answers at once for a job that has
ended. -/
def Obligations.MoversWork : Prop :=
  (∀ (s : State) (via : Via) (m : Waiting) (k : Bool) (dst src : Surface), Admitted s via m 0x23 k →
    let e := envAt s via m
    let c := chipAt s via m
    let j := moverJobOf e
    let n := (newJob c 0x23 (tagOf e) (sid e) []).2
    moverFieldsOk j = true → commitSurface c j.dst = some dst → mayAct c (sid e) dst.owner = true →
      (if j.op = 0 then some {} else commitSurface c j.src) = some src → (j.op ≠ 0 → mayAct c (sid e) src.owner = true) →
      moverFits j src dst = true → c.cci.jobs.length < 192 →
      Answered (.moverSubmit via) s via m 0x23 k
        (dispatchMovers { n with movers := n.movers ++ [{ j with id := c.cci.nextJob, hazard := readsOwnWrites j }] })
        { status := 1, result := [w c.cci.nextJob] }) ∧
  (∀ (s : State) (via : Via) (m : Waiting) (k : Bool), Admitted s via m 0x24 k →
    let c := chipAt s via m
    let id := mw (envAt s via m) 0x10
    (∀ j, job? c id = some j → j.opcode = 0x23 → mayAct c (sid (envAt s via m)) j.owner = true →
      Answered (.moverAbort via) s via m 0x24 k
        { c with movers := c.movers.map (fun x => if x.id = j.id then { x with aborting := true } else x) }
        { status := 0, held := some j.id }) ∧
    (∀ f, job? c id = none → c.cci.finished.find? (fun f => f.id = id && f.opcode = 0x23) = some f →
      Answered (.moverAbort via) s via m 0x24 k c
        { status := 0x010D, result := [f.tag, w (match f.terminal with
            | .completed => 0
            | .failed => 1
            | .aborted => 2
            | .completedBeforeAbort => 3), w f.lastLine] })) ∧
  (∀ (s : State) (u : Fin 2) (j : MoverJob), running s.chip = true → s.chip.moverOut.contains u.val = false →
    s.chip.movers.find? (fun j => j.mover = some u.val) = some j →
    let f := destFormat s.chip j
    let lines := jobLines f j.h
    let x := runLine s.chip j (if j.yDesc then lines - 1 - j.linesDone else j.linesDone)
    let next := { j with linesDone := j.linesDone + 1, poisoned := x.2
                         destShown := j.destShown || ((surface? s.chip j.dst).getD {}).inDisplay }
    let c := setProgress { x.1 with movers := x.1.movers.map (fun y => if y.id = j.id then next else y) } j.id (j.linesDone + 1)
    let c := count (count c (116 + u.val) 0x0603 1) (116 + u.val) 0x0602 (j.w / elemW f * elemBytes f)
    let sf := ((surface? c j.src).getD {}).format
    let c := if j.op = 0 then c
      else count c (116 + u.val) 0x0601 (j.w / elemW sf * elemBytes sf * max 1 (elemH f / elemH sf))
    let c := if j.signal ≠ 0 && j.linesDone + 1 = j.signal then
        raiseJob c j.id 0 0x4010 [w j.id, w (j.dst + u.val * 65536), w (lineRow c next j.linesDone), w j.signal]
      else c
    (j.linesDone + 1 < lines → j.aborting = false → Does (.moverLineComplete u) s (schedule c)) ∧
    (j.linesDone + 1 < lines → j.aborting = true → Does (.moverLineComplete u) s (schedule (endMover c next .aborted 0))) ∧
    (lines ≤ j.linesDone + 1 → Does (.moverLineComplete u) s
      (schedule (endMover c next (if j.aborting then .completedBeforeAbort else .completed) 0))))

/-! ## Memory -/

/-- R86, R214, R329 to R332, R336: `mem_region_define` gives a region its place, also in place of an old one that nothing uses,
deletes an unused one, and fills a strong one by a job that ends when its filling is done; `scrub_set` sets the pass time of each
controller of its mask; `mem_write` writes the data to the region and `mem_read` gives its bytes.
Inline data shorter than LENGTH (log 45) and the order of checks that the spec does not order (log 32) are the
model's. -/
def Obligations.RegionsAreDefined : Prop :=
  (∀ (s : State) (via : Via) (m : Waiting) (k : Bool), Admitted s via m 0x20 k →
    let e := envAt s via m
    let c := chipAt s via m
    let id := mf e 0x10 5 0
    let ecc := mf e 0x10 10 9
    let twin := (mw e 0x10).testBit 11
    let mask := mf e 0x1C 15 0
    let size := mw e 0x14 + mw e 0x18 * 2 ^ 32
    (∀ r, (mw e 0x10).testBit 8 = true → memRegion? c id = some r → mayAct c (sid e) r.owner = true → regionInUse c id = false →
      Answered (.memRegionDefine via) s via m 0x20 k (deleteRegion c r) { status := 0 }) ∧
    (∀ r free, (mw e 0x10).testBit 8 = false → ecc ≤ 2 → 4096 ≤ size → size % 4096 = 0 →
      (twin = true → ecc ≠ 0 ∧ ∀ n < 8, mask.testBit (2 * n) = mask.testBit (2 * n + 1)) →
      (∀ u ∈ bitsOf mask 16, mcOk c u = true) →
      (memRegion? c id = none ∧ free = c ∨
        ∃ old, memRegion? c id = some old ∧ mayAct c (sid e) old.owner = true ∧ regionInUse c id = false ∧ free = deleteRegion c old) →
      regionFit free (regionMcs c mask twin) twin ecc size = some r →
      let d := dropPages free (withMirrors r.mcs r.twin) r.base (r.pages + r.check)
      let new := { r with id := id, owner := sid e, noGuard := (mw e 0x10).testBit 12 }
      (ecc ≠ 2 → Answered (.memRegionDefine via) s via m 0x20 k { d with mems := new :: d.mems } { status := 0 }) ∧
      (ecc = 2 → free.cci.jobs.length < 192 →
        let n := newJob d 0x20 (tagOf e) (sid e) []
        Answered (.memRegionDefine via) s via m 0x20 k
          { n.2 with mems := { new with filling := true, fillJob := n.1 } :: n.2.mems } { status := 1, result := [w n.1] }))) ∧
  (∀ (s : State) (id : Fin 64) (r : MemRegion), running s.chip = true → memRegion? s.chip id.val = some r → r.filling = true →
    let c := { s.chip with mems := s.chip.mems.map (fun x => if x.id = id.val then { x with filling := false, fillJob := 0 } else x) }
    (r.fillJob ≠ 0 → Does (.strongFillDone id) s (endJob c r.fillJob .completed 0 0 [])) ∧
    (r.fillJob = 0 → Does (.strongFillDone id) s c)) ∧
  (∀ (s : State) (via : Via) (m : Waiting) (k : Bool), Admitted s via m 0x25 k →
    let e := envAt s via m
    let c := chipAt s via m
    let mask := mf e 0x14 15 0
    mask ≠ 0 → mw e 0x10 = 0 ∨ (600 ≤ mw e 0x10 ∧ mw e 0x10 ≤ 2592000) → (∀ u ∈ bitsOf mask 16, u < mcCount c) →
      Answered (.scrubSet via) s via m 0x25 k
        ((bitsOf mask 16).foldl (fun c u => updMc c u (fun x => { x with scrubS := mw e 0x10 })) c) { status := 0 }) ∧
  (∀ (s : State) (via : Via) (m : Waiting) (k : Bool) (r : MemRegion), Admitted s via m 0x26 k →
    let e := envAt s via m
    let c := chipAt s via m
    let n := mw e 0x18
    0 < n → n ≤ 1024 → memRegion? c (mf e 0x10 5 0) = some r → mayAct c (sid e) r.owner = true → mw e 0x14 + n ≤ r.size →
      guardedSurface c r (mw e 0x14) n = none → n ≤ e.inline.length →
      (∀ o ∈ wordStarts (mw e 0x14) n, reachable c (regionPlace r o) = true) →
      Answered (.memWrite via) s via m 0x26 k (writeRegion c r (mw e 0x14) (e.inline.take n)) { status := 0 }) ∧
  (∀ (s : State) (via : Via) (m : Waiting) (k : Bool) (r : MemRegion), Admitted s via m 0x27 k →
    let e := envAt s via m
    let c := chipAt s via m
    let n := mw e 0x18
    let x := readThrough c (regionPlace r) (mw e 0x14) n false
    0 < n → n ≤ 1024 → memRegion? c (mf e 0x10 5 0) = some r → mw e 0x14 + n ≤ r.size →
      (x.2.1 = 0 → Answered (.memRead via) s via m 0x27 k x.2.2 { status := 0, data := x.1 }) ∧
      (x.2.1 ≠ 0 → Answered (.memRead via) s via m 0x27 k x.2.2 { status := 0x0111 }))

/-- R320 to R324: a bank whose refresh waits owes it, at most eight intervals, four at the doubled rate; without waiting it owes
nothing. The start of a window clears the tables of a controller; an activation is entered in the table of its bank, and at the
threshold the neighbours of its row are refreshed. A temperature above 85.0 °C, or a reading that fails, doubles the refresh rate,
which comes back after 100 readings of at most 80.0 °C, and channels that moved 10 °C retrain.
What a rate limit of an event keeps is the model's reading (log 15). -/
def Obligations.BanksAreRefreshed : Prop :=
  ∀ (s : State) (mc : Fin 16), running s.chip = true → mcOk s.chip mc.val = true →
    let m := nth s.chip.mcs mc.val
    (∀ (ch : Fin 4) (bank : Fin 16),
      let b := bankOf s.chip mc.val ch.val bank.val
      let more := if m.doubled then 1 else 2
      let limit := if m.doubled then 8 else 16
      Does (.refreshDue mc ch bank false) s (setBank s.chip { b with debt := 0 }) ∧
      (b.debt + more ≤ limit → Does (.refreshDue mc ch bank true) s
        (count (setBank s.chip { b with debt := b.debt + more }) (80 + mc.val) 0x0308 1)) ∧
      (limit < b.debt + more → Does (.refreshDue mc ch bank true) s s.chip) ∧
      (∀ row, row < bankRows s.chip →
        let rows := noteActivation b.rows row
        let c := count (setBank s.chip { b with rows := rows }) (80 + mc.val) 0x0306 1
        (rows.any (fun x => x.1 = row && x.2 = s.chip.cfg.hammerThreshold) = false → Does (.rowActivation mc ch bank row) s c) ∧
        (rows.any (fun x => x.1 = row && x.2 = s.chip.cfg.hammerThreshold) = true →
          let near := neighbours c row
          let c := near.foldl (activate 129 mc.val ch.val bank.val) c
          let b := bankOf c mc.val ch.val bank.val
          let c := setBank c { b with rows := b.rows.map (fun x => if x.1 = row then (x.1, 0) else x) }
          Does (.rowActivation mc ch bank row) s
            (raiseLimited (count c (80 + mc.val) 0x0307 near.length) 0x7006 mc.val sec1 1 1 [w mc.val, 0])))) ∧
    Does (.refreshWindowStart mc) s { s.chip with
      banks := s.chip.banks.map (fun b => if b.mc = mc.val then { b with rows := [] } else b) } ∧
    (∀ (t : Option Int) (hot cool : Bool), (hot = true ↔ ∀ v, t = some v → 170 < v) → (cool = true ↔ ∃ v, t = some v ∧ v ≤ 160) →
      let c := updMc s.chip mc.val (fun m => { m with temp := t.getD m.temp, coolRun := if cool then min 100 (m.coolRun + 1) else 0 })
      let n := nth c.mcs mc.val
      let goesTo := fun (c : Chip) => Does (.memTemperatureRead mc t) s
        (startPauses ((movedChannels n).foldl (fun c ch => pauseFor c false mc.val ch) c))
      (n.doubled = false → hot = false → goesTo c) ∧
      (n.doubled = false → hot = true → goesTo (doubleRate mc.val c)) ∧
      (n.doubled = true → n.coolRun ≠ 100 → goesTo c) ∧
      (n.doubled = true → n.coolRun = 100 → goesTo (rateEvent (updMc c mc.val (fun m => { m with doubled := false })) mc.val)))

/-- R324 to R326, R335 to R338, R389, R403: retraining waits for a pause, which more than 64 link CRC retries of 1 ms call for, and counts as a
run when it passes; a retraining that fails is a failed run, is tried again, and the third failure fails the controller. The
scrubber writes a corrected word back and poisons one that it cannot correct, and readers that meet the device do the same, but
for class none; on a strong word the controller's code may correct what the device cannot. A read whose CRC fails in every retry
is met by the next command; the end of a pass is reported. The repair of a poisoned word ends
with its source's bytes, or is reported as failed; a controller that returned takes its pages from the other member, but for those
that the other has lost.
When link retries are reported (log 48), what counts as a run (log 77), debts and pauses (log 82) and what a rate
limit keeps (log 15) are the model's readings. The order of DATA words that the spec lists only by name is the model's
(log 13). -/
def Obligations.WordsAreKept : Prop :=
  ∀ (s : State) (mc : Fin 16), running s.chip = true → mcOk s.chip mc.val = true →
    let m := nth s.chip.mcs mc.val
    (∀ (ch : Fin 4) (n f : Nat),
      let kept := updMc s.chip mc.val (fun m => { m with linkRetries := m.linkRetries + n, linkFailed := m.linkFailed + f })
      let k := nth kept.mcs mc.val
      let c := if n = 0 then s.chip
        else if (limitOf kept 0x7007 mc.val).lastNs.any (fun t => decide (nowNs kept < t + sec1)) then kept
        else raiseEvery (updMc kept mc.val (fun m => { m with linkRetries := 0, linkFailed := 0 })) 0 0x7007 mc.val sec1
          [w mc.val, w k.linkRetries, w k.linkFailed]
      (n = 0 ∨ 64 < n → Does (.retrainDue mc ch n f) s (startPauses (pauseFor c false mc.val ch.val))) ∧
      (0 < n → n ≤ 64 → Does (.retrainDue mc ch n f) s c)) ∧
    (∀ ch : Fin 4,
      let partner := if mc.val % 2 = 0 then mc.val + 1 else mc.val - 1
      let c := updMc s.chip mc.val (fun m => { m with paused := none })
      let c := if (nth c.mcs partner).doubled then catchUp c partner else c
      let n := look m.retrainFails ch.val 0 + 1
      let failed := if m.pauseOfRun then c
        else raise (updCal c 4 (fun x => { x with lastFailed := true })) 0x9002 [4, 1, w (4 * mc.val + ch.val)]
      (m.paused = some ch.val → Does (.retrainPauseEnd mc ch true) s
        (startPauses (updCal (countRun (updMc c mc.val (fun x =>
          { x with
            trainTemps := (ch.val, m.temp) :: m.trainTemps.filter (fun t => t.1 ≠ ch.val)
            retrainFails := x.retrainFails.filter (fun f => f.1 ≠ ch.val) })) 4) 4
          (fun x => { x with stale := x.stale && (x.running || m.pauseOfRun), lastFailed := x.lastFailed && m.pauseOfRun })))) ∧
      (m.paused = some ch.val → n < 3 → Does (.retrainPauseEnd mc ch false) s
        (startPauses (pauseFor (updMc failed mc.val (fun x => { x with retrainFails := put x.retrainFails ch.val n }))
          (m.pauseOfRun && (calDomain failed 4).running) mc.val ch.val))) ∧
      (m.paused = some ch.val → 3 ≤ n → Does (.retrainPauseEnd mc ch false) s
        (startPauses (mcFault mc.val 6 (raise failed 0x7008 [w (mc.val + ch.val * 16), w n])))) ∧
      (∀ pass, m.paused ≠ some ch.val → Does (.retrainPauseEnd mc ch pass) s s.chip)) ∧
    (∀ word,
      let visits := m.scrubS ≠ 0 ∧ scrubbed s.chip mc.val word = true
      let cls := (pageClass s.chip mc.val (word / 64)).getD 0
      let stored := Memory.getBytes s.chip.ram (ramKey mc.val (word * 64)) 64
      let fixed := fun (c : Chip) (d : List Byte) =>
        raiseLimited { c with ram := Memory.setBytes s.chip.ram (ramKey mc.val (word * 64)) (slice d 0 64) } 0x7001 mc.val sec10 1 1
          [w (mc.val + (pageClass s.chip mc.val (word / 64)).getD 1 * 256), 0]
      Does (.scrubVisit mc word .clean) s s.chip ∧
      (∀ d, visits → Does (.scrubVisit mc word (.corrected d)) s
        (fixed (updMc s.chip mc.val (fun m => { m with scrubCorrected := m.scrubCorrected + 1 })) d)) ∧
      (visits → cls ≠ 2 → Does (.scrubVisit mc word (.uncorrectable false)) s (foundBad s.chip mc.val word true false)) ∧
      (visits → cls = 2 → Does (.scrubVisit mc word (.uncorrectable false)) s
        (if (drawBit s.chip).1 then foundCorrected (drawBit s.chip).2 mc.val word true stored
        else foundBad (drawBit s.chip).2 mc.val word true false)) ∧
      Does (.scrubVisit mc word (.uncorrectable true)) s (foundBad (linkErrors s.chip mc.val 4 1) mc.val word false true) ∧
      (∀ errors, visits → cls = 2 → Does (.scrubVisit mc word (.strong false errors)) s (strongRead s.chip mc.val word true errors)) ∧
      (∀ d, deviceRead s.chip mc.val word = true → cls ≠ 0 →
        Does (.scrubVisit mc word (.readCorrected d)) s (fixed s.chip d)) ∧
      (deviceRead s.chip mc.val word = true → cls = 1 → Does (.scrubVisit mc word .readUncorrectable) s
        (foundBad s.chip mc.val word false false)) ∧
      (deviceRead s.chip mc.val word = true → cls = 2 → Does (.scrubVisit mc word .readUncorrectable) s
        (if (drawBit s.chip).1 then foundCorrected (drawBit s.chip).2 mc.val word false stored
        else foundBad (drawBit s.chip).2 mc.val word false false)) ∧
      (∀ d, deviceRead s.chip mc.val word = true → cls = 0 →
        Does (.scrubVisit mc word (.readCorrected d)) s (updMc s.chip mc.val (fun m => { m with reports := m.reports + 1 })) ∧
        Does (.scrubVisit mc word .readUncorrectable) s (updMc s.chip mc.val (fun m => { m with reports := m.reports + 1 }))) ∧
      (∀ errors, deviceRead s.chip mc.val word = true → cls = 2 → Does (.scrubVisit mc word (.strong true errors)) s
        (strongRead s.chip mc.val word false errors)) ∧
      (deviceRead s.chip mc.val word = true →
        let t := settleAborts (flush { s with chip := crcRead s.chip mc.val word })
        exec (.scrubVisit mc word .readCrc) s = .next { t with chip := { t.chip with crcBad := [wordKey mc.val word] } }) ∧
      (∀ t, m.scrubS ≠ 0 → Does (.scrubVisit mc word (.passEnd t)) s
        (raise (updMc s.chip mc.val (fun m => { m with scrubCorrected := 0, scrubBad := 0 })) 0x7009
          [w mc.val, t, w m.scrubCorrected, w m.scrubBad]))) ∧
    (∀ word, s.chip.poison.contains (wordKey mc.val word) = true →
      (∀ r, s.chip.repairs.find? (fun x => x.1 = wordKey mc.val word) = some (r, 0) →
        (otherGood s.chip mc.val word = true → Does (.memRepaired mc word) s (repairedEvent
          { clearWord s.chip mc.val word with
            ram := Memory.setBytes s.chip.ram (ramKey mc.val (word * 64))
              (Memory.getBytes s.chip.ram (ramKey (otherTrack mc.val) (word * 64)) 64) } mc.val word 0)) ∧
        (otherGood s.chip mc.val word = false → Does (.memRepaired mc word) s (uncorrectable s.chip mc.val word false false 3))) ∧
      (∀ r n, s.chip.repairs.find? (fun x => x.1 = wordKey mc.val word) = some (r, n + 1) → smServes s.chip = true →
        (∀ a x, repairSource s.chip mc.val word = 1 → areaOfPage s.chip mc.val (word / 64) = some a → matchingCopy s.chip = some x →
          Does (.memRepaired mc word) s (repairedEvent (reloadPage s.chip a x mc.val word) mc.val word (n + 1))) ∧
        (repairSource s.chip mc.val word = 2 →
          Does (.memRepaired mc word) s (repairedEvent (clearPage s.chip mc.val (word / 64)) mc.val word (n + 1))) ∧
        (repairSource s.chip mc.val word = 3 →
          Does (.memRepaired mc word) s (uncorrectable s.chip mc.val word false false 3)))) ∧
    (∀ page,
      let other := if mc.val % 2 = 0 then mc.val + 1 else mc.val - 1
      m.copying = true → mcOk s.chip other = true → twinPage s.chip mc.val page = true →
      uncopied s.chip other page = false →
      (lostPage s.chip other page = true → Does (.bulkCopyPage mc page) s (updMc s.chip mc.val (fun m =>
        { m with copied := page :: m.copied }))) ∧
      (lostPage s.chip other page = false → Does (.bulkCopyPage mc page) s (updMc
        { s.chip with
          ram := Memory.setBytes s.chip.ram (ramKey mc.val (page * 4096)) (Memory.getBytes s.chip.ram (ramKey other (page * 4096)) 4096)
          poison := (s.chip.poison.filter (fun k => wordKey other (page * 64) ≤ k && k < wordKey other (page * 64 + 64))).map
              (fun k => k - wordKey other 0 + wordKey mc.val 0) ++
            s.chip.poison.filter (fun k => k < wordKey mc.val (page * 64) || wordKey mc.val (page * 64 + 64) ≤ k)
          written := if s.chip.written.contains (pageKey other page) && !s.chip.written.contains (pageKey mc.val page)
            then pageKey mc.val page :: s.chip.written else s.chip.written } mc.val (fun m => { m with copied := page :: m.copied }))))

/-! ## Faults -/

/-- R22, R183, R184, R355, R379, R382, R383, R385: a fault of a unit in service, with a cause that Table 14-2 lists for its class,
isolates it; with another cause nothing happens. A failed cell leaves its block, a block its region, a region the projection; a
decoder and a mover take no more work; a port stops until its next boundary; a failed scheduler releases nothing until it projects
again. Once the boundary of the unit is CLOSED its tile or its tiles return, its work starts again, its job fails, and the event
follows.
When a failed scheduler serves again is the model's reading (log 24). The order of DATA words that the spec lists only
by name is the model's (log 13). -/
def Obligations.UnitsAreIsolated : Prop :=
  ∀ (s : State), running s.chip = true →
    let listed := fun (cls cause : Nat) => (causesOf cls).contains cause = true ∨ cls = 3 ∧ cause = 6 ∨ (cls = 1 ∨ cls = 2) ∧ cause = 7
    (∀ (u : Fin 16) (b : Fin 4) (k : Fin 17) (d : Fin 8) (m : Fin 2) (cause : Fin 8),
      (¬ listed 0 cause.val → Does (.cellFault u b k cause) s s.chip) ∧
      (¬ listed 1 cause.val → Does (.blockFault u b cause) s s.chip) ∧
      (¬ listed 2 cause.val → Does (.regionFault u cause) s s.chip) ∧
      (¬ listed 4 cause.val → Does (.decoderFault d cause) s s.chip) ∧
      (¬ listed 5 cause.val → Does (.moverFault m cause) s s.chip)) ∧
    (∀ (u : Fin 16) (b : Fin 4) (k : Fin 17) (cause : Fin 8), regionServes s.chip u.val = true → listed 0 cause.val →
      let x := blockOf s.chip u.val b.val
      x.removed = false → x.failedCells.contains k.val = false →
        let c := beginIsolation s.chip 0 (u.val * 256 + b.val * 32 + k.val) cause.val
        let c := updRegion c u.val (fun r => { r with blocks := upd r.blocks b.val (fun y => { y with failedCells := k.val :: y.failedCells }) })
        let left := blockCells (blockOf c u.val b.val)
        (11 < left → Does (.cellFault u b k cause) s (schedule (project true c))) ∧
        (left ≤ 11 → Does (.cellFault u b k cause) s (blockFault u.val b.val 7 c))) ∧
    (∀ (u : Fin 16) (b : Fin 4) (cause : Fin 8), regionServes s.chip u.val = true → listed 1 cause.val →
      (blockOf s.chip u.val b.val).removed = false →
      let c := updRegion (beginIsolation s.chip 1 (u.val * 256 + b.val * 32) cause.val) u.val (fun r =>
        { r with blocks := upd r.blocks b.val (fun x => { x with removed := true }) })
      ((region c u.val).blocks.countP (·.removed) < 2 → Does (.blockFault u b cause) s (schedule (project true c))) ∧
      (2 ≤ (region c u.val).blocks.countP (·.removed) → Does (.blockFault u b cause) s (regionFault u.val 7 c))) ∧
    (∀ (u : Fin 16) (cause : Fin 8), regionServes s.chip u.val = true → listed 2 cause.val →
      Does (.regionFault u cause) s (schedule (project true (beginIsolation s.chip 2 u.val cause.val)))) ∧
    (∀ (d : Fin 8) (cause : Fin 8), (nth s.chip.decs d.val).isolated = false → listed 4 cause.val → Does (.decoderFault d cause) s
      (updDec (beginIsolation s.chip 4 d.val cause.val) d.val (fun x => { x with isolated := true }))) ∧
    (∀ (u : Fin 2) (cause : Fin 8), s.chip.moverOut.contains u.val = false → listed 5 cause.val → Does (.moverFault u cause) s
      { beginIsolation s.chip 5 u.val cause.val with moverOut := u.val :: s.chip.moverOut }) ∧
    (∀ (u : UnitId) (i : Isolation), isolation? s.chip u.cls (unitKey u.cls u.unit) = some i → i.junction = .withdraw →
      let c := lateReplies (setIsolation s.chip { i with junction := .closed, closedNs := nowNs s.chip }) i.cls i.cause i.unit
      let rg := i.unit / 256
      let b := fld i.unit 7 5
      let k := fld i.unit 4 0
      let dealt := fun (t : Tile) => t.region = rg && t.block = b
      (i.cls = 0 → Does (.junctionClosed u) s (schedule (raiseKey
        { c with ports := c.ports.map (fun p => { p with tiles := p.tiles.map (fun t =>
          if onCell t && t.region = rg && t.block = b && t.cell = k then { t with st := .queued, notBefore := i.sinceNs + 10000 } else t) }) }
        (if (blockOf c rg b).failedCells.getLast? = some k then 0xC001 else 0xC002) 0 i.cause i.unit 0 [w (blockCells (blockOf c rg b))]))) ∧
      (i.cls = 1 → Does (.junctionClosed u) s (schedule (raiseKey (returnTiles c dealt (i.sinceNs + 10000)) 0xC003 1 i.cause i.unit 0
        [w (dealtBlock c rg b)]))) ∧
      (i.cls = 2 →
        let d := updRegion (returnTiles c (fun t => t.region = i.unit) (i.sinceNs + 10000)) i.unit (fun r => { r with off := true })
        Does (.junctionClosed u) s (schedule (raiseKey d 0xC004 2 i.cause i.unit 0
          [w (dealtTo c i.unit), w ((List.range 16).countP (regionServes d))]))) ∧
      (i.cls = 3 → Does (.junctionClosed u) s (enterSelfRefresh c i.unit)) ∧
      (i.cls = 4 → Does (.junctionClosed u) s (dispatchDecoders (raiseKey
        (updDec c i.unit (fun x => { x with work := none, suspended := false })) 0xC006 4 i.cause i.unit 0
        [w (if (nth c.decs i.unit).work.isSome then 1 else 0)]))) ∧
      (i.cls = 5 → c.movers.find? (fun j => j.mover = some i.unit) = none → Does (.junctionClosed u) s
        (raiseKey c 0xC006 5 i.cause i.unit 0 [0])) ∧
      (∀ j, i.cls = 5 → c.movers.find? (fun j => j.mover = some i.unit) = some j → Does (.junctionClosed u) s
        (schedule (endMover (raiseKey c 0xC006 5 i.cause i.unit 0 [1]) j .failed 0x0111))) ∧
      (5 < i.cls → Does (.junctionClosed u) s c)) ∧
    (∀ p : Fin 4, (port s.chip p.val).tt ≠ none → (port s.chip p.val).stopped = false →
      Does (.scanOutPortFault p) s (updPort s.chip p.val (fun x => { x with stopped := true, lateAtStop := x.lateRows }))) ∧
    (s.chip.faults.schedStopped = none →
      Does .schedulerFault s (updFaults s.chip (fun f => { f with schedStopped := some (nowNs s.chip) })))

/-- R379 to R381: 16 failed transfers in a row on one channel fail a controller, which is isolated with its pages, streams and regions; the
Stationmaster relocates its map and counter pages. A failed link is taken out, and with it the parts that no flow reaches. Which flows reach
what stands at the edges is the model's (log 52).
Where relocated pages go is the model's reading (log 43). The order of DATA words that the spec lists only by name is
the model's (log 13). -/
def Obligations.ControllersAndLinksFail : Prop :=
  (∀ (s : State) (mc : Fin 16), running s.chip = true → mcOk s.chip mc.val = true →
    (∀ cause, (causesOf 3).contains cause.val = true ∨ cause.val = 6 → Does (.mcFault mc cause) s (mcFault mc.val cause.val s.chip)) ∧
    (∀ cause, (causesOf 3).contains cause.val = false → cause.val ≠ 6 → Does (.mcFault mc cause) s s.chip) ∧
    (∀ l : List Nat,
      let c := updMc s.chip mc.val (fun m => { m with failedTransfers := (List.range 4).map (fun ch =>
        if l.getD ch 0 = 0 then 0 else m.failedTransfers.getD ch 0 + l.getD ch 0) })
      ((nth c.mcs mc.val).failedTransfers.any (16 ≤ ·) = false → Does (.mcHeartbeat mc l) s c) ∧
      ((nth c.mcs mc.val).failedTransfers.any (16 ≤ ·) = true → Does (.mcHeartbeat mc l) s (mcFault mc.val 5 c)))) ∧
  (∀ (s : State) (mc : Fin 16), running s.chip = true → smServes s.chip = true → isolation? s.chip 3 mc.val ≠ none →
    Does (.fltRelocated mc) s (relocateArea mc.val (relocateArea mc.val s.chip 2) 3)) ∧
  (∀ (s : State) (stop : Fin 32) (south : Bool), running s.chip = true → s.chip.faults.links.contains (stop.val, south) = false →
    (if south then stop.val < 24 else stop.val % 8 ≠ 7) →
    let key := stop.val + (if south then 1 else 0) * 256
    let c := updFaults (beginIsolation s.chip 12 key 5) (fun f => { f with links := (stop.val, south) :: f.links })
    let links := c.faults.links
    let c := raiseKey c 0xC007 12 5 key 0 [w links.length]
    let regions := (List.range 16).filter (fun u => regionServes c u && (toRegion c).any (fun a => flowBroken links a (regionStop u)))
    let mcs := (mcsInService c).filter (fun m => (toMc c).any (fun a => flowBroken links a (mcStop m)))
    Does (.trunkLinkFault stop south) s
      (isolateEdges (mcs.foldl (fun c m => mcFault m 5 c) (regions.foldl (fun c u => regionFault u 5 c) c))))

/-- R377, R379, R384, R390 to R393: the faults of the whole section. A copy of the time that differs twice in a second is
voted out, and with two left the fault is outside what isolation covers, as a common supply or clock is; the host endpoint goes
down alone; the relief Stationmaster takes the place of the active one, whose jobs it ends, goes on with a shutdown, and carries out
the message in hand, with the number of those in FLT_TAKEOVER; with no relief none serves.
The values of the source that fails are free (log 7). What a vote against a removed copy does (log 56) and a takeover
as one step (log 81) are the model's readings. The order of DATA words that the spec lists only by name is the model's
(log 13). -/
def Obligations.SectionFaults : Prop :=
  ∀ (s : State),
    (∀ k : Fin 3, s.chip.time.copies.contains k.val = true → 3 ≤ s.chip.time.copies.length →
      let copies := if votedLately s.chip k.val then s.chip.time.copies.filter (· ≠ k.val) else s.chip.time.copies
      Does (.fltTimeVote k) s (raiseKey { s.chip with time := { s.chip.time with
        copies := copies, lastVote := put s.chip.time.lastVote k.val (nowNs s.chip) } } 0xC00A 14 2 0 0 [w copies.length])) ∧
    (∀ k : Fin 3, s.chip.time.copies.contains k.val = true → s.chip.time.copies.length < 3 → Does (.fltTimeVote k) s
      (outside { s.chip with free := s.chip.free + 1 } (Config.freeValue s.chip.free % 256) 14 2 0)) ∧
    (s.chip.pcie.linkDown = false → Does .hpEndpointFault s
      (raiseKey { beginIsolation s.chip 15 0 5 with pcie := { s.chip.pcie with linkDown := true } } 0xC006 15 5 0 0 [0])) ∧
    (s.chip.porLow = false →
     let v := fun k => Config.freeValue (s.chip.free + k)
     let c := { s.chip with free := s.chip.free + 1 + 1 }
     Does .commonRailLoss s (outside c 1 (v 0 % 256) 4 (v 1)) ∧
     Does (.referenceClockLoss true) s (outside c 3 (v 0 % 256) 4 (v 1)) ∧
     Does (.referenceClockLoss false) s (outside c 2 (v 0 % 256) 4 (v 1))) ∧
    (running s.chip = true →
      (∀ (a : Nat) (x : TakeoverReport), s.chip.sm.active = some a → (causesOf 11).contains x.cause.val = true →
        let c := beginIsolation s.chip 11 a x.cause.val
        let goesOn := fun (c : Chip) =>
          let t := settleAborts (flush { s with chip := c })
          exec (.fltTakeover x) s = .next (if t.chip.sm.active = s.chip.sm.active then t
            else match x.inHand with
              | some (via, _) => carryOn via t
              | none => t)
        (∀ r, s.chip.sm.relief = some r → goesOn (resumeShutdown x.recordAppended (interruptJobs (raiseKey
          { c with sm := { s.chip.sm with active := some r, relief := none } } 0xC010 11 x.cause.val a 0
            [w r, w (carried s.chip).length, w (anewOf x s)])))) ∧
        (s.chip.sm.relief = none →
          goesOn (noStationmaster { c with sm := { s.chip.sm with active := none } } x.cause.val a))) ∧
      (∀ x : TakeoverReport, (causesOf 11).contains x.cause.val = false → Does (.fltTakeover x) s s.chip) ∧
      (∀ a r (cause : Fin 8), (causesOf 11).contains cause.val = true → s.chip.sm.active = some a → s.chip.sm.relief = some r →
        Does (.reliefFault cause) s
          (raiseKey { beginIsolation s.chip 11 r cause.val with sm := { s.chip.sm with relief := none } } 0xC006 11 cause.val r 0 [0])) ∧
      (∀ r (cause : Fin 8), (causesOf 11).contains cause.val = true → s.chip.sm.active = none → s.chip.sm.relief = some r →
        Does (.reliefFault cause) s (noStationmaster
          (raiseKey { beginIsolation s.chip 11 r cause.val with sm := { s.chip.sm with relief := none } } 0xC006 11 cause.val r 0 [0])
            cause.val r)))

/-- R9, R28, R385, R388, R389, R393, R394: a junction drains and withdraws before it closes; the retest of a part that is closed starts
10 s after its isolation once its supply and clock are good, while a Stationmaster pair serves or for a pair itself; a failure
isolates it for good, and a pass returns it with its next epoch. `fault_inject` makes the unit that the bits in use of UNIT name
fail, as its own fault does, with the injected flag, until the action for it is done. That a fault which changes nothing is no
injection is the model's (log 42), as is which bits of UNIT are in use (log 101) and the first epoch, 0 (log 5).
The instants (log 3), the keys of isolation records and a part retested early (log 83) and reserved bits (log 25) are
the model's readings. The order of DATA words that the spec lists only by name is the model's (log 13). -/
def Obligations.JunctionsAndRetests : Prop :=
  (∀ (s : State) (u : UnitId) (i : Isolation), isolation? s.chip u.cls (unitKey u.cls u.unit) = some i →
    (i.junction = .drain → Does (.junctionDrainEnd u) s (setIsolation { s.chip with free := s.chip.free + 1 }
      { i with junction := .withdraw, discarded := Config.freeValue s.chip.free })) ∧
    Does (.railOrClockGoodAgain u) s (setIsolation s.chip { i with railGood := true }) ∧
    (running s.chip = true → smServes s.chip = true ∨ u.cls = 11 → i.forever = false → i.testing = false → i.railGood = true →
      i.junction = .closed →
      let key := unitKey u.cls u.unit
      let c := advanceTo s.chip (i.sinceNs + 10000000000)
      Does (.retest u) s (setIsolation (updFaults c (fun f =>
        { f with injected := f.injected.filter (fun x => !(x.1 = u.cls && x.2.1 = unitCode u.cls key)) }))
        { i with testing := true })) ∧
    (∀ code, i.testing = true →
      let c := raiseKey (setIsolation s.chip { i with testing := false, forever := true }) 0xC021 u.cls i.cause
        (unitKey u.cls u.unit) 0 [code]
      (u.cls ≠ 11 ∨ s.chip.sm.active ≠ none → Does (.retestDone u false code) s c) ∧
      (u.cls = 11 → s.chip.sm.active = none →
        Does (.retestDone u false code) s (noStationmaster c i.cause (unitKey u.cls u.unit)))) ∧
    (∀ code, i.testing = true → Does (.retestDone u true code) s
      (let key := unitKey u.cls u.unit
       let c := advanceTo s.chip (i.closedNs + 100000)
       let epoch := (epochOf c u.cls key + 1) % 16
       let c := updFaults (dropIsolation c u.cls key) (fun f =>
         { f with
           epochs := (u.cls, key, epoch) :: c.faults.epochs.filter (fun e => !(e.1 = u.cls && e.2.1 = key))
           readmitted := (u.cls, key) :: f.readmitted })
       schedule (returnPart (raiseKey c 0xC020 u.cls i.cause key 0 [w epoch]) u.cls key)))) ∧
  (∀ (s : State) (via : Via) (m : Waiting) (k : Bool), Admitted s via m 0x61 k →
    let e := envAt s via m
    let c := chipAt s via m
    let cls := mf e 0x10 7 0
    let unit := unitBits cls (mw e 0x14)
    let kind := mf e 0x18 7 0
    c.faults.injecting = false → cls ≤ 15 → (causesOf cls).contains kind = true → unitExists c cls unit = true →
      let begun := updFaults c (fun f => { f with injecting := true, injected := (cls, unit, kind, nowNs c) :: f.injected })
      let x := failUnit cls unit kind (raiseFault begun 0xC030 cls kind unit 0 [w kind])
      let pending := !actionPending c cls unit && actionPending x cls unit
      let keeps := (isolation? x cls (unitKey cls unit)).isSome || pending
      Answered (.faultInject via) s via m 0x61 k
        (updFaults x (fun f => { f with
          injecting := pending
          injected := if keeps then f.injected else f.injected.filter (fun y => !(y.1 = cls && y.2.1 = unit)) }))
        { status := 0, result := [w c.time.ns.toNat, w (w32 c.time.sec.toNat)] }) ∧
  (∀ (c : Chip) (unit kind : Nat),
    failUnit 0 unit kind c = cellFault (fld unit 15 8) (fld unit 7 5) (fld unit 4 0) kind c ∧
    failUnit 1 unit kind c = blockFault (fld unit 15 8) (fld unit 7 5) kind c ∧ failUnit 2 unit kind c = regionFault (fld unit 15 8) kind c ∧
    failUnit 3 unit kind c = mcFault unit kind c ∧ failUnit 4 unit kind c = decoderFault unit kind c ∧
    failUnit 5 unit kind c = moverFault unit kind c ∧ failUnit 6 unit kind c = portFault unit c ∧
    failUnit 7 unit kind c = loseLane c unit 4 (nowNs c) ∧ failUnit 8 unit kind c = returnLost unit 0 c ∧
    failUnit 9 unit kind c = pathDown unit c ∧ failUnit 10 unit kind c = driveDown unit c ∧
    failUnit 12 unit kind c = trunkFault (fld unit 4 0) (unit.testBit 8) c ∧ failUnit 13 unit kind c = schedulerFault c ∧
    failUnit 15 unit kind c = endpointFault c)

/-! ## Time, calibration and counters -/

/-- R361 to R366: a message on another VLAN than the port's is none of PTP; one that needs what R361 does not list is counted, and an
Announce of that kind takes its sender out of the comparison; one of another domain is discarded. A Sync of the chosen master gives
T1 and T2, the Follow_Up of its number completes it, a Delay_Req records T3, and the Delay_Resp to it gives the measurement that the
servo takes. An Announce enters a master, and a timeout removes those that have lapsed, before the best is chosen anew. A
grandmaster sends Sync, Follow_Up and Announce, and answers Delay_Req. The error of a time-stamp is open within its bound (log 7);
the fields of what the controller sends that the spec leaves open are the model's (log 80). -/
def Obligations.TimeIsMeasured : Prop :=
  (∀ (s : State) (ep : Fin 2) (m : PtpMsg), ptpOn s.chip ep.val = true →
    let c := advanceFine s.chip m.crossing
    let counted := updTime c (fun t => { t with unsupported := w32 (t.unsupported + 1) })
    (∀ l : List Master, forget ep.val m l =
      l.filter (fun x => !(x.ep = ep.val && x.source = m.source && x.sourcePort = m.sourcePort.toNat))) ∧
    (m.vlan.toNat ≠ s.chip.cfg.mgmtVlan → Does (.ptpMessage ep m) s s.chip) ∧
    (m.vlan.toNat = s.chip.cfg.mgmtVlan →
      (ptpSupported m = false →
        (m.udp = true → m.domain.toNat = ptpDomain counted → announced counted ep.val m ≠ none →
          Does (.ptpMessage ep m) s (chooseMaster (updTime counted (fun t => { t with masters := forget ep.val m t.masters })))) ∧
        (m.udp = false ∨ m.domain.toNat ≠ ptpDomain counted ∨ announced counted ep.val m = none →
          Does (.ptpMessage ep m) s counted)) ∧
      (ptpSupported m = true → m.domain.toNat ≠ ptpDomain c ∨ m.source = c.shadow.deviceId → Does (.ptpMessage ep m) s c) ∧
      (ptpSupported m = true → m.domain.toNat = ptpDomain c → m.source ≠ c.shadow.deviceId →
        (∀ scale p1 cls acc var p2 gm steps utc interval, m.body = .announce scale p1 cls acc var p2 gm steps utc interval →
          Does (.ptpMessage ep m) s (chooseMaster (updTime c (fun t => { t with masters :=
            { ep := ep.val, source := m.source, sourcePort := m.sourcePort.toNat, priority1 := p1.toNat, clockClass := cls.toNat
              accuracy := acc.toNat, variance := var.toNat, priority2 := p2.toNat, ident := gm, steps := steps.toNat
              utcOffset := utc.toNat, lapses := nowNs c + 3 * interval } :: forget ep.val m t.masters })))) ∧
        (∀ twoStep t1, m.body = .sync twoStep t1 →
          (fromChosen c ep.val m = true → Does (.ptpMessage ep m) s (updTime (stampNow c ep.val).2 (fun t =>
            { t with
              t1 := if twoStep then none else some t1, syncWaits := twoStep, syncSeq := m.seq, t2raw := (stampNow c ep.val).1
              cSync := m.corr }))) ∧
          (fromChosen c ep.val m = false → Does (.ptpMessage ep m) s c)) ∧
        (∀ t1, m.body = .followUp t1 →
          (fromChosen c ep.val m = true → c.time.syncWaits = true → m.seq = c.time.syncSeq → Does (.ptpMessage ep m) s
            (updTime c (fun t => { t with t1 := some t1, syncWaits := false, cSync := t.cSync + m.corr }))) ∧
          (fromChosen c ep.val m = false ∨ c.time.syncWaits = false ∨ m.seq ≠ c.time.syncSeq → Does (.ptpMessage ep m) s c)) ∧
        (∀ t4 id port, m.body = .delayResp t4 id port →
          (∀ t1 t3, fromChosen c ep.val m = true → (id, port) = ownPort c ep.val → m.seq = c.time.delaySeq → c.time.t1 = some t1 →
            c.time.t3raw = some t3 →
            let x := measure c ep.val t1 c.time.t2raw t3 t4 c.time.cSync m.corr
            Does (.ptpMessage ep m) s (takeMeasurement (updTime c (fun t => { t with t3raw := none })) x.1 x.2)) ∧
          (fromChosen c ep.val m = false ∨ (id, port) ≠ ownPort c ep.val ∨ m.seq ≠ c.time.delaySeq →
            Does (.ptpMessage ep m) s c)) ∧
        (m.body = .delayReq →
          (grandmaster c = true → passive c ep.val = false → Does (.ptpMessage ep m) s (sendPtp (stampNow c ep.val).2 ep.val
            (.delayResp m.seq (stampNow c ep.val).1 m.corr m.source m.sourcePort))) ∧
          (grandmaster c = false ∨ passive c ep.val = true → Does (.ptpMessage ep m) s c))))) ∧
  (∀ (s : State) (ep : Fin 2), ptpOn s.chip ep.val = true → grandmaster s.chip = true → passive s.chip ep.val = false →
    let n := s.chip.time.sendSeq + 1
    let o := ownMaster s.chip
    let c := updTime (stampNow s.chip ep.val).2 (fun t => { t with sendSeq := n })
    Does (.syncSend ep) s { c with out := { c.out with ptp :=
      (ep.val, .announce n o.priority1 o.clockClass o.accuracy o.variance o.priority2) ::
        (ep.val, .followUp n (stampNow s.chip ep.val).1) :: (ep.val, .sync n) :: c.out.ptp } }) ∧
  (∀ (s : State) (x : Nat) (m : Master), s.chip.time.chosen = some m → ptpOn s.chip m.ep = true → grandmaster s.chip = false →
    let t := stampNow (advanceFine s.chip x) m.ep
    let n := s.chip.time.delaySeq + 1
    Does (.delayReqSend x) s
      (sendPtp (updTime t.2 (fun u => { u with t3raw := some t.1, delaySeq := n })) m.ep (.delayReq n))) ∧
  (∀ (s : State),
    let c := s.chip
    let first := if grandmaster c then
        c.time.masters.foldl (fun (o : Option Master) m => match o with
          | none => some m
          | some x => if m.lapses < x.lapses then some m else some x) none
      else c.time.masters.find? (fun m => c.time.chosen.any (sameMaster m))
    (first = none → Does .announceTimeout s (chooseMaster c)) ∧
    (∀ m, first = some m →
      let d := advanceTo c m.lapses.toNat
      Does .announceTimeout s (chooseMaster (updTime d (fun t =>
        { t with masters := t.masters.filter (fun x => !(sameMaster x m || x.lapses ≤ nowNs d)) })))))

/-- R366, R369 to R371, R374: an edge of PPS_IN that follows another by a second tells the difference from T, and moves a
grandmaster's time and states by it, with the seconds of a `time_set`; the first such edge sets the nanoseconds; any other is only
remembered. The loss of edges takes a
locked grandmaster to HOLDOVER, and the end of holdover to UNDISCIPLINED. 10M_IN that goes or comes raises TIM_REF. A whole second
takes the seconds of a `time_set` from before it where no PPS_IN is used, and starts the pulse of PPS_OUT in mode 1. TIM_STATUS reports and clears
the discarded measurements. That a step moves where the next edge is measured from is the model's choice (log 80).
The instants are the model's (log 3). The order of DATA words that the spec lists only by name is the model's (log
13). -/
def Obligations.TimeSignalsAct : Prop :=
  (∀ (s : State),
    let c := s.chip
    let t := c.time
    (c.cfg.time.ppsInUse = true → t.runs = true →
      let seen := updTime c (fun t => { t with ppsLast := some (nowNs c) })
      (t.ppsLast = none → Does .ppsInEdge s seen) ∧
      (∀ l, t.ppsLast = some l → nowNs c - l < 999900000 ∨ 1000100000 < nowNs c - l → Does .ppsInEdge s seen) ∧
      (∀ l, t.ppsLast = some l → 999900000 ≤ nowNs c - l → nowNs c - l ≤ 1000100000 →
        let off := secondOffset c
        let c := updTime seen (fun t => { t with ppsPresent := true, ppsDiff := some off })
        (grandmaster s.chip = false → Does .ppsInEdge s c) ∧
        (grandmaster s.chip = true →
          let c := if t.st = .acquiring ∨ t.st = .locked then c else setTimeState c .acquiring
          let c := updTime c (fun t => { t with offset := 16 * off })
          let moved := fun (c : Chip) =>
            let c := applySeconds c (if secondOffset c < 0 then c.time.sec.toNat + 1 else c.time.sec.toNat)
            updTime c (fun t => { t with ppsLast := some (nowNs c) })
          (c.time.ppsSet = true → Does .ppsInEdge s (moved (acceptOffset c (16 * off)))) ∧
          (c.time.ppsSet = false →
            let c := updTime c (fun t => { t with ppsSet := true, firstOffset := false })
            let c := if off = 0 then c else stepTime c (-16 * off)
            Does .ppsInEdge s (moved (acceptOffset (updTime c (fun t => { t with frac := 0 })) 0)))))) ∧
    (c.cfg.time.ppsInUse = true →
      let d := updTime c (fun t => { t with ppsPresent := false, ppsLast := none, ppsDiff := none })
      (grandmaster c = true → t.st = .locked → Does .ppsInLost s (setTimeState d .holdover)) ∧
      (grandmaster c = false ∨ t.st ≠ .locked → Does .ppsInLost s d)) ∧
    (c.cfg.time.ref10m = true → t.runs = true →
      (t.ref10m = true → Does .ref10mLost s
        (raise (updTime c (fun t => { t with ref10m := false })) 0x8004 [w (2 * (if t.ppsPresent then 1 else 0))])) ∧
      (t.ref10m = false → Does .ref10mRestored s
        (raise (updTime c (fun t => { t with ref10m := true })) 0x8004 [w (1 + 2 * (if t.ppsPresent then 1 else 0))])) ∧
      (t.ref10m = false → Does .ref10mLost s c) ∧
      (t.ref10m = true → Does .ref10mRestored s c)) ∧
    (t.runs = true →
      let here := t.ns.toNat ≤ 2 ∧ t.secondDone ≠ some t.sec.toNat
      let d := if here then c else advanceTo c ((t.sec.toNat + 1) * 1000000000)
      let d := if d.cfg.time.ppsInUse ∨ here ∧ (∀ p, t.setPending = some p → p.2 = t.sec.toNat) then d
        else applySeconds d d.time.sec.toNat
      let d := updTime d (fun t => { t with secondDone := some t.sec.toNat })
      (d.time.ppsOutOn = true → d.cfg.time.ppsOutMode = 1 → Does .wholeSecond s (updTime d (fun t => { t with ppsOut := true }))) ∧
      (d.time.ppsOutOn = false ∨ d.cfg.time.ppsOutMode ≠ 1 → Does .wholeSecond s d)) ∧
    Does .ppsOutPulseEnd s (updTime c (fun t => { t with ppsOut := false })) ∧
    (t.st = .holdover → Does .holdoverLimit s (setTimeState c .undisciplined)) ∧
    (t.st ≠ .holdover → Does .holdoverLimit s c) ∧
    (∀ d, timeActive c = true → (match t.ppsDiff with | some d => wi d | none => 0x80000000#32) = d →
      Does .timStatus s (updTime (raise c 0x8005
        [w (timeCode t.st + (slavePort c).1 * 256), wi (clampI t.offset (-2147483648) 2147483647), wi (t.mean.tdiv 16),
         wi ((((t.inc.toNat : Int) - nominalInc) * 1000000000).tdiv nominalInc), d, w t.utcOffset, w t.discarded])
        (fun t => { t with discarded := 0 })))) ∧
  (∀ (s : State) (via : Via) (m : Waiting) (k : Bool), Admitted s via m 0x64 k →
    let e := envAt s via m
    let c := chipAt s via m
    let n := mw e 0x10 + mf e 0x14 15 0 * 2 ^ 32
    (grandmaster c = true → Answered (.timeSet via) s via m 0x64 k
      (updTime c (fun t => { t with setPending := some (n, t.sec.toNat), setDone := true })) { status := 0, result := [w n] }) ∧
    (grandmaster c = false → Answered (.timeSet via) s via m 0x64 k c { status := 0x0103 }))

/-- R398 to R405: `calib_run` starts a run of a domain as a job, and time or temperature starts one without a job, with STALE
set; one with no unit is done at once. At the end of a run the corrections of the units that pass come in force, the run counts
and is reported, STALE is set where a unit failed, and the job completes or fails. Trim is evaluated for the domains that are not
stale, from readings that a run of THERMAL holds, and a record tells of every domain. How a sensor's trim corrects its reading is
the model's (log 102).
What counts as a run of a domain is the model's reading (log 77). -/
def Obligations.DomainsAreCalibrated : Prop :=
  let begins := fun (c : Chip) (d j : Nat) =>
    let units := calUnits c d
    let c := updCal c d (fun x => { x with
      stale := true, running := true, job := j, units := units
      startDelta := (units.flatMap (itemsOfUnit d)).map (fun i => (i, look c.cal.deltas i 0)) })
    noteLanes { c with cal := { c.cal with fresh := c.cal.fresh.filter (fun i => domainOf i ≠ d) } } d units
  (∀ (s : State) (via : Via) (m : Waiting) (k : Bool), Admitted s via m 0x41 k →
    let e := envAt s via m
    let c := chipAt s via m
    let d := mf e 0x10 7 0
    let n := (newJob c 0x41 (tagOf e) (sid e) []).2
    let j := c.cci.nextJob
    let takes := fun (a : Chip) => Answered (.calibRun via) s via m 0x41 k a { status := 1, result := [w j] }
    let begun := begins n d j
    0 < d → d ≤ 5 → calBusy c d = false → c.cci.jobs.length < 192 →
      (calUnits n d = [] →
        let a := calReport (updCal n d (fun x => { x with stale := false, lastFailed := false })) d j 0 []
        takes (endJob a j .completed 0 0 (calResult a d 0 0))) ∧
      (calUnits n d ≠ [] → d ≠ 4 → takes begun) ∧
      (calUnits n d ≠ [] → d = 4 →
        takes (startPauses ((calUnits n d).foldl (fun c u => pauseFor c true (u / 4) (u % 4)) begun)))) ∧
  (∀ (s : State), running s.chip = true → smServes s.chip = true →
    (∀ d : Fin 8, s.chip.start.st = .released → d.val = 1 ∨ d.val = 2 ∨ d.val = 5 → calBusy s.chip d.val = false →
      Does (.calAutoRun d) s
        (begins s.chip d.val 0)) ∧
    (∀ (d : Fin 8) (r : CalReport),
      let c := s.chip
      let x := calDomain c d.val
      let failed := x.units.filter (unitFails c d.val r)
      let done := x.units.filter (fun u => !unitFails c d.val r u)
      let items := done.flatMap (itemsOfUnit d.val)
      x.running = true →
        let a := items.foldl (fun c i =>
          let delta := look x.startDelta i 0
          let corr := match r.found.find? (fun f => f.1 = i) with
            | some f => f.2 - look c.shadow.trim i 0 - delta
            | none => look c.cal.corr i 0
          { c with cal := { c.cal with corr := put c.cal.corr i corr, deltas := put c.cal.deltas i delta } }) c
        let a := { a with cal := { a.cal with fresh := items ++ a.cal.fresh } }
        let a := applyTrims (if d.val = 3 then failed.foldl restoreTaps a else a) items
        let a := updCal a d.val (fun y =>
          { y with running := false, job := 0, units := [], stale := decide (failed ≠ []), lastFailed := decide (failed ≠ []) })
        let a := if done ≠ [] ∧ d.val ≠ 4 then countRun a d.val else a
        let a := calReport a d.val x.job done.length failed
        (failed = [] → Does (.calRunDone d r) s (endJob a x.job .completed 0 0 (calResult a d.val done.length 0))) ∧
        (failed ≠ [] → Does (.calRunDone d r) s (endJob a x.job .failed 0x010E 0 (calResult a d.val done.length failed.length)))) ∧
    (∀ raw,
      let c := if (calDomain s.chip 5).running then s.chip else { s.chip with cal := { s.chip.cal with
        raw := raw
        temps := (List.range raw.length).map (fun k => (2 * raw.getD k 0 + look s.chip.cal.trim (0xC0 + k) 0) / 2) } }
      let c := { c with cal := { c.cal with deltas := (trimItems c).map (fun i => (i, tempDelta c i)) } }
      Does (.trimEvaluate raw) s (applyTrims c ((trimItems c).filter (fun i => !(calDomain c (domainOf i)).stale)))) ∧
    Does .calRecord s (calRecord (calRecord (calRecord (calRecord (calRecord s.chip 1) 2) 3) 4) 5))

/-- R413 to R422, R440: `perf_config` takes a program of a counter, which takes effect with a count of 0 at the next whole microsecond,
after a snapshot of that instant, or the user grant. The reader passes over every counter; a snapshot is requested by `perf_snapshot` or by the register, latched at
its instant, and reported when it is complete, after the response that waits for it.
The instants (log 3), a later snapshot given for a held command (log 103), the counters that are drawn (log 104) and
the counters, chains and snapshots at their edges (log 78) are the model's readings. -/
def Obligations.CountersAreRead : Prop :=
  (∀ (s : State) (via : Via) (m : Waiting) (k : Bool), Admitted s via m 0x50 k →
    let e := envAt s via m
    let c := chipAt s via m
    let cls := mf e 0x10 7 0
    let unit := mf e 0x10 15 8
    let grant := (mw e 0x18).testBit 0
    (cls = 0xFF → unit = 0 → c.perf.userGrant ≠ grant →
      Answered (.perfConfig via) s via m 0x50 k (raise (updPerf c (fun p => { p with userGrant := grant })) 0xA003
        [w (if grant then 1 else 0)]) { status := 0 }) ∧
    (cls = 0xFF → unit = 0 → c.perf.userGrant = grant → Answered (.perfConfig via) s via m 0x50 k c { status := 0 }) ∧
    (∀ first units present, cls ≠ 0xFF → counterClass c cls = some (first, units, present) → unit < units → unit < present →
      eventOk cls (mf e 0x10 18 16) (mf e 0x14 15 0) = true →
      Answered (.perfConfig via) s via m 0x50 k
        (updPerf c (fun p => { p with pending := p.pending ++
          [(first + unit, mf e 0x10 18 16, mf e 0x14 15 0, (nowNs c / 1000 + 1) * 1000)] })) { status := 0 })) ∧
  (∀ (s : State) (via : Via) (m : Waiting) (k : Bool), Admitted s via m 0x51 k →
    let e := envAt s via m
    let c := chipAt s via m
    let b := bufAt e 0x10
    let r := requestSnapshot c false
    bufKindOk e b = true → bufFault c (sid e) true b = none →
      (7616 ≤ b.len → Answered (.perfSnapshot via) s via m 0x51 k (updPerf r.2 (fun p => { p with wanted := r.1 }))
        { status := 0, held := some 0 }) ∧
      (b.len < 7616 → Answered (.perfSnapshot via) s via m 0x51 k c { status := 0x010C, result := [w 7616] })) ∧
  (∀ (s : State), running s.chip = true →
    let c := s.chip
    (c.perf.pending ≠ [] →
      let at_ := minOf (c.perf.pending.map (programTime c))
      let d := advanceTo (if c.perf.request.any (fun r => r.atNs ≤ max at_ (nowNs c)) then snapshotLatch c else c) at_
      let due := fun (x : Nat × Nat × Nat × Nat) => decide (programTime d x ≤ nowNs d)
      Does .perfConfigApply s (updPerf
        ((d.perf.pending.filter due).foldl (fun d x => setCounter d { slot := x.1, idx := x.2.1, event := x.2.2.1 }) d)
        (fun p => { p with pending := p.pending.filter (fun x => !due x) }))) ∧
    (∀ r, c.perf.request = some r → r.latched = false →
      let l := latchAll (advanceTo c r.atNs)
      Does .snapshotLatch s (updPerf l.1 (fun p =>
        { p with latched := l.2, request := some { r with latched := true }, snap := { p.snap with complete := false } }))) ∧
    (let l := latchAll c
     let d := updPerf l.1 (fun p => { p with live :=
       { seq := w32 (p.live.seq + 1), timeNs := c.time.ns.toNat, timeS := w32 c.time.sec.toNat, complete := true, entries := l.2 } })
     exec .readerPass s = .next (answerSnapshot (settleAborts (flush { s with chip := d }))) ∧
     (c.cci.held = none → Does .readerPass s d)) ∧
    (∀ r, c.perf.request = some r → r.latched = true →
      let d := raise (updPerf c (fun p =>
        { p with
          snap := { seq := r.id, timeNs := r.atNs % 1000000000, timeS := w32 (r.atNs / 1000000000), complete := true
                    source := r.register, entries := p.latched }
          request := p.next.map (fun n => { n with atNs := max n.atNs ((nowNs c / 1000 + 1) * 1000) })
          next := none, latched := [] })) 0xA001
        [w r.id, w (r.atNs % 1000000000), w (w32 (r.atNs / 1000000000)), w (if r.register then 1 else 0)]
      exec .prfSnapshotDone s = .next (settleAborts (flush (answerSnapshot { s with chip := d }))) ∧
      (c.cci.held = none → Does .prfSnapshotDone s d)) ∧
    (∀ v : U32, hpReach c = true → v.getLsbD 0 = true → exec (.hifPrfSnapshot v) s = .next
      { s with chip := (requestSnapshot c true).2, hif := { s.hif with prfLastId := w (requestSnapshot c true).1 } }))

/-- R455: a region above 110.0 °C takes a step of 100 MHz down to 1.4 GHz, and one below its limit a step up to its rate; the
scheduler projects with the new rate. A sample, which a run of THERMAL holds at the one before, limits and frees the regions
and keeps the highest temperature; a sensor at
120.0 °C for 1 ms trips the rails, until every sensor is at 105.0 °C or below.
The samples of the thermal agent (log 79) and HIF_RESET while rails are up (log 62) are the model's readings. -/
def Obligations.RegionsAreClocked : Prop :=
  ∀ (s : State), running s.chip = true →
    (∀ u : Fin 16,
      let r := region s.chip u.val
      let mhz := if r.above then max 1400 (r.mhz - 100) else if r.limited then r.mhz else min s.chip.cfg.regionMHz (r.mhz + 100)
      r.inService = true →
      (mhz ≠ r.mhz → Does (.islandClockStep u) s (schedule (project false (updRegion s.chip u.val (fun r => { r with mhz := mhz }))))) ∧
      (mhz = r.mhz → Does (.islandClockStep u) s s.chip)) ∧
    (∀ readings,
      let temps := if (calDomain s.chip 5).running then s.chip.thermal.last else readings
      let present := (List.range 51).filter (fun k => sensorPresent s.chip k && decide (k < temps.length))
      let hot := hotRuns s.chip temps
      let c := { s.chip with
        thermal := { hot := hot, last := temps }
        start := { s.chip.start with tjMax := (present.map (fun k => temps.getD k 0)).foldl max s.chip.start.tjMax } }
      let c := (List.range 16).foldl (regionHeat temps) c
      let cool := present.length = (sensors c).length ∧ ∀ k ∈ present, temps.getD k 0 ≤ 210
      let goesTo := fun (c : Chip) => exec (.thermalSample readings) s = .next (restartWhenDown (settleAborts (flush { s with chip := c })))
      (c.power.tripped = true → cool → goesTo (updPower c (fun p => { p with tripped := false }))) ∧
      (c.power.tripped = true → ¬ cool → goesTo c) ∧
      (∀ x, c.power.tripped = false → hot.find? (fun x => 10 ≤ x.2) = some x → goesTo (thermalTrip c x.1 (temps.getD x.1 0))) ∧
      (c.power.tripped = false → hot.find? (fun x => 10 ≤ x.2) = none → goesTo c))
end

