-- ==== Sys2Proof/Laws/Delivery.lean ====
section
/-!
SUPPORT. What delivery can do: events and messages (`flush`), responses (`respondWords`, `finish`, `settleAborts`), and the
taking of a CCI message (`cciCommand`), each said once.
-/

namespace Sys2Proof.Machine

/-! ## Datagrams -/

theorem sendDatagram_atRest (c : Chip) (p : Peer) (k n : Nat) (b d : List Byte) :
    (sendDatagram c p k n b d).atRest = c.atRest := rfl

theorem sendDatagram_signals (c : Chip) (p : Peer) (k n : Nat) (b d : List Byte) :
    (sendDatagram c p k n b d).signals = c.signals := rfl

theorem foldl_keeps {α β γ : Type} (p : α → γ) (f : α → β → α) (h : ∀ a b, p (f a b) = p a) :
    ∀ (l : List β) (a : α), p (l.foldl f a) = p a := by
  intro l
  induction l with
  | nil => intro a; rfl
  | cons b l ih => intro a; rw [List.foldl_cons, ih, h]

theorem sendEventUdp_atRest (c : Chip) (e : Event) : (sendEventUdp c e).atRest = c.atRest :=
  foldl_keeps Chip.atRest
    (fun c (x : Session) => sendDatagram c { x.peer with port := BitVec.ofNat 16 x.evtPort } x.keySlot 2 (bytesOf (eventWords e)) []) (fun _ _ => rfl) _ _

theorem sendEventUdp_signals (c : Chip) (e : Event) : (sendEventUdp c e).signals = c.signals :=
  foldl_keeps Chip.signals
    (fun c (x : Session) => sendDatagram c { x.peer with port := BitVec.ofNat 16 x.evtPort } x.keySlot 2 (bytesOf (eventWords e)) []) (fun _ _ => rfl) _ _

theorem continuations_atRest (c : Chip) (p : Peer) (k : Nat) (n : U32) (d : List Byte) :
    (continuations c p k n d).atRest = c.atRest :=
  foldl_keeps Chip.atRest
    (fun c i => if i = 0 then c
      else sendDatagram c p k 3 (beBytes n.toNat 4 ++ beBytes (1024 * i) 4) ((d.drop (1024 * i)).take 1024))
    (fun _ _ => by split <;> rfl) _ _

theorem continuations_signals (c : Chip) (p : Peer) (k : Nat) (n : U32) (d : List Byte) :
    (continuations c p k n d).signals = c.signals :=
  foldl_keeps Chip.signals
    (fun c i => if i = 0 then c
      else sendDatagram c p k 3 (beBytes n.toNat 4 ++ beBytes (1024 * i) 4) ((d.drop (1024 * i)).take 1024))
    (fun _ _ => by split <;> rfl) _ _

/-! ## Events -/

theorem deliverSignal_atRest (st : Chip × Writer) (g : Signal) : (deliverSignal st g).1.atRest = st.1.atRest := by
  cases g with
  | logsLost => rfl
  | cause => rfl
  | event e => exact sendEventUdp_atRest _ _

theorem deliverSignal_signals (st : Chip × Writer) (g : Signal) : (deliverSignal st g).1.signals = st.1.signals := by
  cases g with
  | logsLost => rfl
  | cause => rfl
  | event e => exact sendEventUdp_signals _ _

theorem spaceReturns_atRest (st : Chip × Writer) : (spaceReturns st).1.atRest = st.1.atRest := by
  unfold spaceReturns
  dsimp only
  split
  · rfl
  · split
    · rfl
    · exact sendEventUdp_atRest _ _

theorem spaceReturns_signals (st : Chip × Writer) : (spaceReturns st).1.signals = st.1.signals := by
  unfold spaceReturns
  dsimp only
  split
  · rfl
  · split
    · rfl
    · exact sendEventUdp_signals _ _

/-- Raising what the limits held back changes those records and the signals. -/
theorem raiseHeld_atRest (c : Chip) : (raiseHeld c).atRest = c.atRest :=
  foldl_keeps Chip.atRest
    (fun c (l : Limit) => raiseOwn (setLimit c { code := l.code, unit := l.unit, lastNs := some (nowNs c) }) l.owner l.code l.first)
    (fun _ _ => rfl) _ _
theorem atRest_signals {c d : Chip} (l : List Signal) (h : c.atRest = d.atRest) : ({ c with signals := l } : Chip).atRest = d.atRest := h

/-- Delivery leaves the chip as it is but for the signals, the limits' records and the datagrams that carry events. -/
theorem flush_atRest (s : State) : (flush s).chip.atRest = s.chip.atRest := by
  rw [show (flush s).chip.atRest = (spaceReturns _).1.atRest from rfl, spaceReturns_atRest, foldl_keeps (fun st : Chip × Writer => st.1.atRest) _ deliverSignal_atRest]
  exact atRest_signals [] (raiseHeld_atRest s.chip)

/-- After delivery nothing waits to be delivered. -/
theorem flush_signals (s : State) : (flush s).chip.signals = [] := by
  show (spaceReturns _).1.signals = _
  rw [spaceReturns_signals, foldl_keeps (fun st : Chip × Writer => st.1.signals) _ deliverSignal_signals]

@[simp] theorem flush_fuses (s : State) : (flush s).fuses = s.fuses := rfl
@[simp] theorem flush_pending (s : State) : (flush s).pending = s.pending := rfl

/-! ## Responses -/

@[simp] theorem respondWords_fuses (s : State) (v : Via) (p : Peer) (k : Nat) (l : List U32) (d : List Byte) :
    (respondWords s v p k l d).fuses = s.fuses := by
  unfold respondWords
  cases v <;> first | rfl | (dsimp only; split <;> rfl)
@[simp] theorem respondWords_pending (s : State) (v : Via) (p : Peer) (k : Nat) (l : List U32) (d : List Byte) :
    (respondWords s v p k l d).pending = s.pending := by
  unfold respondWords
  cases v <;> first | rfl | (dsimp only; split <;> rfl)
@[simp] theorem finish_fuses (s : State) (e : Env) (op : Nat) (r : Reply) (k : Bool) : (finish s e op r k).fuses = s.fuses := by
  unfold finish
  dsimp only
  split
  · rfl
  · simp
@[simp] theorem finish_pending (s : State) (e : Env) (op : Nat) (r : Reply) (k : Bool) :
    (finish s e op r k).pending = s.pending := by
  unfold finish
  dsimp only
  split
  · rfl
  · simp
@[simp] theorem respondHeld_fuses (s : State) (j : Nat) (r : Reply) : (respondHeld s j r).fuses = s.fuses := by
  unfold respondHeld
  split
  · rfl
  · split
    · rfl
    · simp
@[simp] theorem respondHeld_pending (s : State) (j : Nat) (r : Reply) : (respondHeld s j r).pending = s.pending := by
  unfold respondHeld
  split
  · rfl
  · split
    · rfl
    · simp
/-- An abort that nothing settled changes nothing. -/
theorem settleAborts_none {s : State} (h : s.chip.cci.held = none) : settleAborts s = s := by
  simp [settleAborts, h]
/-- What settling aborts can do: nothing, or write the one held response. -/
theorem settleAborts_cases (s : State) : settleAborts s = s ∨ ∃ j r, settleAborts s = respondHeld s j r := by
  unfold settleAborts
  split
  · exact .inl rfl
  · split
    · exact .inl rfl
    · split
      · exact .inl rfl
      · exact .inr ⟨_, _, rfl⟩
@[simp] theorem settleAborts_fuses (s : State) : (settleAborts s).fuses = s.fuses := by
  obtain h | ⟨j, r, h⟩ := settleAborts_cases s <;> rw [h]; simp
@[simp] theorem settleAborts_pending (s : State) : (settleAborts s).pending = s.pending := by
  obtain h | ⟨j, r, h⟩ := settleAborts_cases s <;> rw [h]; simp
@[simp] theorem run_fuses (f : Chip → Chip) (s : State) : (s.run f).fuses = s.fuses := by simp [State.run]
@[simp] theorem run_pending (f : Chip → Chip) (s : State) : (s.run f).pending = s.pending := by simp [State.run]
@[simp] theorem runLive_fuses (f : Chip → Chip) (s : State) : (s.runLive f).fuses = s.fuses := by
  unfold State.runLive; split <;> simp
@[simp] theorem runLive_pending (f : Chip → Chip) (s : State) : (s.runLive f).pending = s.pending := by
  unfold State.runLive; split <;> simp
@[simp] theorem host_fuses (f : Hif → Hif) (s : State) : (s.host f).fuses = s.fuses := by
  unfold State.host; split <;> simp
@[simp] theorem host_pending (f : Hif → Hif) (s : State) : (s.host f).pending = s.pending := by
  unfold State.host; split <;> simp

/-! ## What a response leaves of the chip -/

/-- The chip but for the command interface, the datagrams sent, the signals that wait, the records of limits and the failing reads. -/
def Chip.inner (c : Chip) : Chip := { c with signals := [], limits := [], crcBad := [], cci := {}, out := {} }

theorem inner_of_atRest {c d : Chip} (h : c.atRest = d.atRest) : c.inner = d.inner :=
  (congrArg Chip.inner h : c.atRest.inner = d.atRest.inner)
theorem respondWords_inner (s : State) (v : Via) (p : Peer) (k : Nat) (l : List U32) (d : List Byte) :
    (respondWords s v p k l d).chip.inner = s.chip.inner := by
  unfold respondWords
  cases v with
  | hp => dsimp only; split <;> rfl
  | udp => exact inner_of_atRest ((continuations_atRest _ _ _ _ _).trans (sendDatagram_atRest _ _ _ _ _ _))
  | i2c => rfl
theorem respondHeld_inner (s : State) (j : Nat) (r : Reply) : (respondHeld s j r).chip.inner = s.chip.inner := by
  unfold respondHeld
  split
  · rfl
  · split
    · rfl
    · exact respondWords_inner _ _ _ _ _ _
theorem settleAborts_inner (s : State) : (settleAborts s).chip.inner = s.chip.inner := by
  obtain h | ⟨j, r, h⟩ := settleAborts_cases s <;> rw [h]
  exact respondHeld_inner _ _ _
/-- A change of the chip that is run leaves the chip as the change gives it, but for what delivery and responses own. -/
theorem run_inner (f : Chip → Chip) (s : State) : (s.run f).chip.inner = (f s.chip).inner := by
  unfold State.run
  rw [settleAborts_inner, inner_of_atRest (flush_atRest _)]
@[simp] theorem run_time (f : Chip → Chip) (s : State) : (s.run f).chip.time = (f s.chip).time :=
  (congrArg Chip.time (run_inner f s) : (s.run f).chip.inner.time = (f s.chip).inner.time)
@[simp] theorem run_start (f : Chip → Chip) (s : State) : (s.run f).chip.start = (f s.chip).start :=
  (congrArg Chip.start (run_inner f s) : (s.run f).chip.inner.start = (f s.chip).inner.start)
@[simp] theorem run_shadow (f : Chip → Chip) (s : State) : (s.run f).chip.shadow = (f s.chip).shadow :=
  (congrArg Chip.shadow (run_inner f s) : (s.run f).chip.inner.shadow = (f s.chip).inner.shadow)
@[simp] theorem run_flash (f : Chip → Chip) (s : State) : (s.run f).chip.flash = (f s.chip).flash :=
  (congrArg Chip.flash (run_inner f s) : (s.run f).chip.inner.flash = (f s.chip).inner.flash)
@[simp] theorem run_cfg (f : Chip → Chip) (s : State) : (s.run f).chip.cfg = (f s.chip).cfg :=
  (congrArg Chip.cfg (run_inner f s) : (s.run f).chip.inner.cfg = (f s.chip).inner.cfg)
@[simp] theorem run_sm (f : Chip → Chip) (s : State) : (s.run f).chip.sm = (f s.chip).sm :=
  (congrArg Chip.sm (run_inner f s) : (s.run f).chip.inner.sm = (f s.chip).inner.sm)
@[simp] theorem run_sysReady (f : Chip → Chip) (s : State) : (s.run f).chip.sysReady = (f s.chip).sysReady :=
  (congrArg Chip.sysReady (run_inner f s) : (s.run f).chip.inner.sysReady = (f s.chip).inner.sysReady)
@[simp] theorem run_porLow (f : Chip → Chip) (s : State) : (s.run f).chip.porLow = (f s.chip).porLow :=
  (congrArg Chip.porLow (run_inner f s) : (s.run f).chip.inner.porLow = (f s.chip).inner.porLow)
@[simp] theorem run_pcie (f : Chip → Chip) (s : State) : (s.run f).chip.pcie = (f s.chip).pcie :=
  (congrArg Chip.pcie (run_inner f s) : (s.run f).chip.inner.pcie = (f s.chip).inner.pcie)
@[simp] theorem run_eth (f : Chip → Chip) (s : State) : (s.run f).chip.eth = (f s.chip).eth :=
  (congrArg Chip.eth (run_inner f s) : (s.run f).chip.inner.eth = (f s.chip).inner.eth)
@[simp] theorem run_streams (f : Chip → Chip) (s : State) : (s.run f).chip.streams = (f s.chip).streams :=
  (congrArg Chip.streams (run_inner f s) : (s.run f).chip.inner.streams = (f s.chip).inner.streams)
@[simp] theorem run_decs (f : Chip → Chip) (s : State) : (s.run f).chip.decs = (f s.chip).decs :=
  (congrArg Chip.decs (run_inner f s) : (s.run f).chip.inner.decs = (f s.chip).inner.decs)
@[simp] theorem run_store (f : Chip → Chip) (s : State) : (s.run f).chip.store = (f s.chip).store :=
  (congrArg Chip.store (run_inner f s) : (s.run f).chip.inner.store = (f s.chip).inner.store)
@[simp] theorem run_tables (f : Chip → Chip) (s : State) : (s.run f).chip.tables = (f s.chip).tables :=
  (congrArg Chip.tables (run_inner f s) : (s.run f).chip.inner.tables = (f s.chip).inner.tables)
@[simp] theorem run_tableGen (f : Chip → Chip) (s : State) : (s.run f).chip.tableGen = (f s.chip).tableGen :=
  (congrArg Chip.tableGen (run_inner f s) : (s.run f).chip.inner.tableGen = (f s.chip).inner.tableGen)
@[simp] theorem run_ports (f : Chip → Chip) (s : State) : (s.run f).chip.ports = (f s.chip).ports :=
  (congrArg Chip.ports (run_inner f s) : (s.run f).chip.inner.ports = (f s.chip).inner.ports)
@[simp] theorem run_regions (f : Chip → Chip) (s : State) : (s.run f).chip.regions = (f s.chip).regions :=
  (congrArg Chip.regions (run_inner f s) : (s.run f).chip.inner.regions = (f s.chip).inner.regions)
@[simp] theorem run_layers (f : Chip → Chip) (s : State) : (s.run f).chip.layers = (f s.chip).layers :=
  (congrArg Chip.layers (run_inner f s) : (s.run f).chip.inner.layers = (f s.chip).inner.layers)
@[simp] theorem run_surfs (f : Chip → Chip) (s : State) : (s.run f).chip.surfs = (f s.chip).surfs :=
  (congrArg Chip.surfs (run_inner f s) : (s.run f).chip.inner.surfs = (f s.chip).inner.surfs)
@[simp] theorem run_mems (f : Chip → Chip) (s : State) : (s.run f).chip.mems = (f s.chip).mems :=
  (congrArg Chip.mems (run_inner f s) : (s.run f).chip.inner.mems = (f s.chip).inner.mems)
@[simp] theorem run_areas (f : Chip → Chip) (s : State) : (s.run f).chip.areas = (f s.chip).areas :=
  (congrArg Chip.areas (run_inner f s) : (s.run f).chip.inner.areas = (f s.chip).inner.areas)
@[simp] theorem run_mcs (f : Chip → Chip) (s : State) : (s.run f).chip.mcs = (f s.chip).mcs :=
  (congrArg Chip.mcs (run_inner f s) : (s.run f).chip.inner.mcs = (f s.chip).inner.mcs)
@[simp] theorem run_banks (f : Chip → Chip) (s : State) : (s.run f).chip.banks = (f s.chip).banks :=
  (congrArg Chip.banks (run_inner f s) : (s.run f).chip.inner.banks = (f s.chip).inner.banks)
@[simp] theorem run_written (f : Chip → Chip) (s : State) : (s.run f).chip.written = (f s.chip).written :=
  (congrArg Chip.written (run_inner f s) : (s.run f).chip.inner.written = (f s.chip).inner.written)
@[simp] theorem run_poison (f : Chip → Chip) (s : State) : (s.run f).chip.poison = (f s.chip).poison :=
  (congrArg Chip.poison (run_inner f s) : (s.run f).chip.inner.poison = (f s.chip).inner.poison)
@[simp] theorem run_repairs (f : Chip → Chip) (s : State) : (s.run f).chip.repairs = (f s.chip).repairs :=
  (congrArg Chip.repairs (run_inner f s) : (s.run f).chip.inner.repairs = (f s.chip).inner.repairs)
@[simp] theorem run_ram (f : Chip → Chip) (s : State) : (s.run f).chip.ram = (f s.chip).ram :=
  (congrArg Chip.ram (run_inner f s) : (s.run f).chip.inner.ram = (f s.chip).inner.ram)
@[simp] theorem run_poisonReads (f : Chip → Chip) (s : State) : (s.run f).chip.poisonReads = (f s.chip).poisonReads :=
  (congrArg Chip.poisonReads (run_inner f s) : (s.run f).chip.inner.poisonReads = (f s.chip).inner.poisonReads)
@[simp] theorem run_unwrittenReads (f : Chip → Chip) (s : State) : (s.run f).chip.unwrittenReads = (f s.chip).unwrittenReads :=
  (congrArg Chip.unwrittenReads (run_inner f s) : (s.run f).chip.inner.unwrittenReads = (f s.chip).inner.unwrittenReads)
@[simp] theorem run_linearMcs (f : Chip → Chip) (s : State) : (s.run f).chip.linearMcs = (f s.chip).linearMcs :=
  (congrArg Chip.linearMcs (run_inner f s) : (s.run f).chip.inner.linearMcs = (f s.chip).inner.linearMcs)
@[simp] theorem run_movers (f : Chip → Chip) (s : State) : (s.run f).chip.movers = (f s.chip).movers :=
  (congrArg Chip.movers (run_inner f s) : (s.run f).chip.inner.movers = (f s.chip).inner.movers)
@[simp] theorem run_workRate (f : Chip → Chip) (s : State) : (s.run f).chip.workRate = (f s.chip).workRate :=
  (congrArg Chip.workRate (run_inner f s) : (s.run f).chip.inner.workRate = (f s.chip).inner.workRate)
@[simp] theorem run_moverOut (f : Chip → Chip) (s : State) : (s.run f).chip.moverOut = (f s.chip).moverOut :=
  (congrArg Chip.moverOut (run_inner f s) : (s.run f).chip.inner.moverOut = (f s.chip).inner.moverOut)
@[simp] theorem run_laneUi (f : Chip → Chip) (s : State) : (s.run f).chip.laneUi = (f s.chip).laneUi :=
  (congrArg Chip.laneUi (run_inner f s) : (s.run f).chip.inner.laneUi = (f s.chip).inner.laneUi)
@[simp] theorem run_lanes (f : Chip → Chip) (s : State) : (s.run f).chip.lanes = (f s.chip).lanes :=
  (congrArg Chip.lanes (run_inner f s) : (s.run f).chip.inner.lanes = (f s.chip).inner.lanes)
@[simp] theorem run_quads (f : Chip → Chip) (s : State) : (s.run f).chip.quads = (f s.chip).quads :=
  (congrArg Chip.quads (run_inner f s) : (s.run f).chip.inner.quads = (f s.chip).inner.quads)
@[simp] theorem run_drivers (f : Chip → Chip) (s : State) : (s.run f).chip.drivers = (f s.chip).drivers :=
  (congrArg Chip.drivers (run_inner f s) : (s.run f).chip.inner.drivers = (f s.chip).inner.drivers)
@[simp] theorem run_power (f : Chip → Chip) (s : State) : (s.run f).chip.power = (f s.chip).power :=
  (congrArg Chip.power (run_inner f s) : (s.run f).chip.inner.power = (f s.chip).inner.power)
@[simp] theorem run_faults (f : Chip → Chip) (s : State) : (s.run f).chip.faults = (f s.chip).faults :=
  (congrArg Chip.faults (run_inner f s) : (s.run f).chip.inner.faults = (f s.chip).inner.faults)
@[simp] theorem run_cal (f : Chip → Chip) (s : State) : (s.run f).chip.cal = (f s.chip).cal :=
  (congrArg Chip.cal (run_inner f s) : (s.run f).chip.inner.cal = (f s.chip).inner.cal)
@[simp] theorem run_perf (f : Chip → Chip) (s : State) : (s.run f).chip.perf = (f s.chip).perf :=
  (congrArg Chip.perf (run_inner f s) : (s.run f).chip.inner.perf = (f s.chip).inner.perf)
@[simp] theorem run_thermal (f : Chip → Chip) (s : State) : (s.run f).chip.thermal = (f s.chip).thermal :=
  (congrArg Chip.thermal (run_inner f s) : (s.run f).chip.inner.thermal = (f s.chip).inner.thermal)
@[simp] theorem run_free (f : Chip → Chip) (s : State) : (s.run f).chip.free = (f s.chip).free :=
  (congrArg Chip.free (run_inner f s) : (s.run f).chip.inner.free = (f s.chip).inner.free)
theorem finish_inner (s : State) (e : Env) (op : Nat) (r : Reply) (k : Bool) : (finish s e op r k).chip.inner = s.chip.inner := by
  unfold finish
  dsimp only
  split
  · cases k <;> rfl
  · rw [respondWords_inner]
    cases k <;> rfl

/-! ## Taking a message -/

@[simp] theorem popFront_fuses (s : State) (v : Via) : (popFront s v).fuses = s.fuses := by cases v <;> rfl
@[simp] theorem popFront_pending (s : State) (v : Via) : (popFront s v).pending = s.pending := by cases v <;> rfl
@[simp] theorem popFront_start (s : State) (v : Via) : (popFront s v).chip.start = s.chip.start := by cases v <;> rfl
@[simp] theorem discardMessage_fuses (s : State) (v : Via) : (discardMessage s v).fuses = s.fuses := rfl
@[simp] theorem discardMessage_pending (s : State) (v : Via) : (discardMessage s v).pending = s.pending := rfl

/-- What taking a message can do: nothing, discard it, or write a response of some reply with events after it. -/
theorem cciCommand_cases (op : Nat) (busy : Env → Chip → Bool) (body : Body) (via : Via) (s : State) :
    cciCommand op busy body via s = s ∨ cciCommand op busy body via s = discardMessage (popFront s via) via ∨
    (∃ m c words, cciCommand op busy body via s =
      flush (respondWords { popFront s via with chip := c } via m.peer (signSlot (envAt s via m)) words [])) ∨
    (∃ m c r k, cciCommand op busy body via s = flush (finish { popFront s via with chip := c } (envAt s via m) op r k)) := by
  unfold cciCommand
  split
  · exact .inl rfl
  · rename_i m _
    split
    · exact .inl rfl
    · dsimp only
      split
      · exact .inr (.inl rfl)
      · split
        · exact .inr (.inr (.inr ⟨m, _, _, _, rfl⟩))
        · exact .inr (.inr (.inl ⟨m, _, _, rfl⟩))
        · exact .inr (.inr (.inr ⟨m, _, _, _, rfl⟩))
        · exact .inr (.inr (.inr ⟨m, _, _, _, rfl⟩))

/-- An admitted message is carried out by the body of its command. -/
theorem cciCommand_admitted {op : Nat} {busy : Env → Chip → Bool} {body : Body} {via : Via} {s : State} {m : Waiting}
    {consume : Bool} (h : Admitted s via m op consume) (hb : busy (envAt s via m) (chipAt s via m) = false) :
    cciCommand op busy body via s =
      flush (finish { popFront s via with chip := (body (envAt s via m) (chipAt s via m)).1 } (envAt s via m) op
        (body (envAt s via m) (chipAt s via m)).2 (consume && decide (sid (envAt s via m) ≠ 0))) := by
  obtain ⟨hf, ho, hh, hv⟩ := h
  have h1 : ¬((popFront s via).chip.start.st = .halted && op ≠ 0x03 && op ≠ 0x04) = true := by
    rw [popFront_start]
    simp only [Bool.and_eq_true, decide_eq_true_eq, not_and]
    obtain h | h | h := hh <;> simp [h]
  have h2 : verdict (chipAt s via m) (envAt s via m) op (busy (envAt s via m) (chipAt s via m)) = .carryOut consume := by
    rw [hb]; exact hv
  unfold cciCommand
  rw [hf]
  dsimp only
  rw [if_neg (by simp [ho]), if_neg h1]
  simp only [chipAt, envAt] at h2 ⊢
  rw [h2]
  rfl

@[simp] theorem cciCommand_fuses (op : Nat) (busy : Env → Chip → Bool) (body : Body) (via : Via) (s : State) :
    (cciCommand op busy body via s).fuses = s.fuses := by
  obtain h | h | ⟨m, c, l, h⟩ | ⟨m, c, r, k, h⟩ := cciCommand_cases op busy body via s <;> rw [h] <;> simp
@[simp] theorem cciCommand_pending (op : Nat) (busy : Env → Chip → Bool) (body : Body) (via : Via) (s : State) :
    (cciCommand op busy body via s).pending = s.pending := by
  obtain h | h | ⟨m, c, l, h⟩ | ⟨m, c, r, k, h⟩ := cciCommand_cases op busy body via s <;> rw [h] <;> simp

end Sys2Proof.Machine
end

