-- ==== Sys2Proof/Laws/Frame.lean ====
section
/-!
SUPPORT. The fuses and the queue of commands under the operations that are neither a plain change of the chip nor a CCI
message: none of them changes either.
-/

namespace Sys2Proof.Machine

/-- The fuses and the queue are the same in both states. -/
def SameOutside (t s : State) : Prop := t.fuses = s.fuses ∧ t.pending = s.pending

theorem SameOutside.refl (s : State) : SameOutside s s := ⟨rfl, rfl⟩

theorem unknownMessage_same (via : Via) (s : State) : SameOutside (unknownMessage via s) s := by
  unfold unknownMessage
  split
  · exact .refl s
  · split
    · exact .refl s
    · dsimp only; split <;> constructor <;> simp
theorem restart_same (b : Bool) (s : State) : SameOutside (restart b s) s := ⟨rfl, rfl⟩
theorem restartWhenDown_same (s : State) : SameOutside (restartWhenDown s) s := by
  unfold restartWhenDown
  split
  · exact restart_same _ _
  · exact .refl s
theorem restartAfterUpdate_same (s : State) : SameOutside (restartAfterUpdate s) s := by
  unfold restartAfterUpdate
  split
  · exact restart_same _ _
  · exact .refl s
@[simp] theorem settleRelease_pending (c : Chip) (s : State) : (settleRelease c s).pending = s.pending := by
  unfold settleRelease; split <;> rfl
/-- Release may burn the floor into the fuses; nothing else writes them (R51). -/
theorem settleRelease_fuses (c : Chip) (s : State) : (settleRelease c s).fuses = s.fuses ∨
    (c.start.st = .opening ∧ s.chip.start.st = .released ∧ (settleRelease c s).fuses = burnFloor s.chip.shadow.secFloor s.fuses) := by
  unfold settleRelease
  split
  · rename_i h
    simp only [Bool.and_eq_true, decide_eq_true_eq] at h
    exact .inr ⟨h.1, h.2, rfl⟩
  · exact .inl rfl
theorem hifResetWrite_same (v : U32) (s : State) : SameOutside (hifResetWrite v s) s := by
  unfold hifResetWrite
  dsimp only
  split
  · exact .refl s
  · split
    · exact restart_same _ _
    · split
      · have h := restartWhenDown_same (s.run (fun c => lowerPanel (updStart c (fun x => { x with restartDue := true }))))
        exact ⟨by rw [h.1, run_fuses], by rw [h.2, run_pending]⟩
      · exact .refl s
theorem registerSnapshot_same (v : U32) (s : State) : SameOutside (registerSnapshot v s) s := by
  unfold registerSnapshot; split <;> exact ⟨rfl, rfl⟩
theorem registerWord_same (off : Nat) (d : List Byte) (s : State) : SameOutside (registerWord off d s) s := by
  unfold registerWord
  dsimp only
  repeat' split
  all_goals first | exact .refl s | exact registerSnapshot_same _ s | exact ⟨host_fuses _ s, host_pending _ s⟩
theorem barWrite_same (off : Nat) (d : List Byte) (s : State) : SameOutside (barWrite off d s) s := by
  unfold barWrite
  split
  · exact registerWord_same _ _ _
  · exact ⟨host_fuses _ s, host_pending _ s⟩
theorem configWrite_same (x : PcieCfg) (s : State) : SameOutside (configWrite x s) s := by
  unfold configWrite
  split
  · exact .refl s
  · split <;> exact ⟨rfl, rfl⟩
theorem bar2Read_same (off n : Nat) (s : State) : SameOutside (bar2Read off n s) s := by
  unfold bar2Read; split <;> exact ⟨rfl, rfl⟩
theorem bar2Write_same (off : Nat) (d : List Byte) (s : State) : SameOutside (bar2Write off d s) s := by
  unfold bar2Write
  split
  · exact .refl s
  · dsimp only
    split
    · unfold guardDiscard
      dsimp only
      split <;> exact ⟨by simp, by simp⟩
    · split <;> exact ⟨rfl, rfl⟩
theorem answerSnapshot_same (s : State) : SameOutside (answerSnapshot s) s := by
  unfold answerSnapshot
  split
  · exact .refl s
  · dsimp only
    split
    · exact .refl s
    · exact ⟨by simp, by simp⟩
theorem porFall_same (n : Nat) (s : State) : SameOutside (porFall n s) s := by
  unfold porFall; split <;> exact ⟨rfl, rfl⟩
theorem porRise_same (b : BitVec 2) (i : BitVec 3) (s : State) : SameOutside (porRise b i s) s := by
  unfold porRise; split <;> exact ⟨rfl, rfl⟩
/-- Any message is carried out as some CCI command, or names none that is carried out. -/
theorem byOpcode_cases (op : Nat) (via : Via) (s : State) : byOpcode op via s = s ∨
    ∃ k busy body, byOpcode op via s = cciCommand k busy body via s := by
  unfold byOpcode
  dsimp only
  split
  all_goals first | exact .inr ⟨_, _, _, rfl⟩ | exact .inl rfl
/-- The message in the failed pair's hand meets the checks as any message does. -/
theorem carryOn_cases (via : Via) (s : State) : carryOn via s = s ∨ carryOn via s = unknownMessage via s ∨
    ∃ k busy body, carryOn via s = cciCommand k busy body via s := by
  unfold carryOn
  split
  · exact .inl rfl
  · split
    · exact .inr (.inl rfl)
    · exact .inr (.inr ⟨_, _, _, rfl⟩)
    · obtain h | h := byOpcode_cases _ via s
      · exact .inl h
      · exact .inr (.inr h)
theorem carryOn_same (via : Via) (s : State) : SameOutside (carryOn via s) s := by
  obtain h | h | ⟨k, busy, body, h⟩ := carryOn_cases via s <;> rw [h]
  · exact .refl s
  · exact unknownMessage_same via s
  · exact ⟨cciCommand_fuses .., cciCommand_pending ..⟩
theorem takeoverStep_same (r : TakeoverReport) (s : State) : SameOutside (takeoverStep r s) s := by
  unfold takeoverStep
  dsimp only
  have k : ∀ f, SameOutside (s.run f) s := fun f => ⟨run_fuses f s, run_pending f s⟩
  split
  · exact k _
  · split
    · have h := carryOn_same (by assumption) (s.run (whereListed 11 r.cause.val (takeover r.cause.val (anewOf r s) r.recordAppended)))
      exact ⟨h.1.trans (k _).1, h.2.trans (k _).2⟩
    · exact k _
theorem failNext_same (mc word : Nat) (f : ScrubFinding) (b a : State) : SameOutside (failNext mc word f b a) a := by
  unfold failNext; dsimp only; split <;> exact ⟨rfl, rfl⟩

end Sys2Proof.Machine
end

