-- ==== Sys2Proof/Laws/Claims.lean ====
section
/-!
SUPPORT. How a claim about a command reduces to what its operation does to the chip, the host interface or the response.
-/

namespace Sys2Proof.Machine

theorem does_run {i : Instr} {s : State} {f : Chip → Chip} {c : Chip} (hi : exec i s = .next (s.run f)) (h : f s.chip = c) :
    Does i s c := by
  subst h; exact hi

theorem does_runLive {i : Instr} {s : State} {f : Chip → Chip} {c : Chip} (hi : exec i s = .next (s.runLive f))
    (hr : running s.chip = true) (h : f s.chip = c) : Does i s c := by
  subst h; unfold Does; rw [hi, State.runLive, if_pos hr]; rfl

/-- Before release and in HALTED what only happens live has no effect. -/
theorem ignores_runLive {i : Instr} {s : State} {f : Chip → Chip} (hi : exec i s = .next (s.runLive f))
    (hr : running s.chip = false) : Ignores i s := by
  unfold Ignores; rw [hi, State.runLive, if_neg (by simp [hr])]

theorem doesHif_host {i : Instr} {s : State} {f : Hif → Hif} {h : Hif} (hi : exec i s = .next (s.host f))
    (hr : hpReach s.chip = true) (hh : f s.hif = h) : DoesHif i s h := by
  subst hh; unfold DoesHif; rw [hi, State.host, if_pos hr]

theorem answered_cci {i : Instr} {s : State} {op : Nat} {busy : Env → Chip → Bool} {body : Body} {via : Via} {m : Waiting}
    {consume : Bool} {c : Chip} {r : Reply} (hi : exec i s = .next (cciCommand op busy body via s))
    (ha : Admitted s via m op consume) (hb : busy (envAt s via m) (chipAt s via m) = false)
    (h : body (envAt s via m) (chipAt s via m) = (c, r)) : Answered i s via m op consume c r := by
  unfold Answered; rw [hi, cciCommand_admitted ha hb, h]

end Sys2Proof.Machine
end

