-- ==== Sys2Proof/Laws/Counters.lean ====
section
/-!
SUPPORT. Counting changes the performance counters, the records of rate limits, and the signals that wait, and nothing
else of the chip.
-/

namespace Sys2Proof.Machine

/-- What counting may change is left out. -/
def Chip.uncounted (c : Chip) : Chip := { c with signals := [], limits := [], perf := {} }

theorem raiseLimitedOwn_uncounted (c : Chip) (owner code unit window k i : Nat) (data : List U32) :
    (raiseLimitedOwn c owner code unit window k i data).uncounted = c.uncounted := by
  unfold raiseLimitedOwn
  lift_lets
  intro l first n now due
  clear_value due
  cases due <;> rfl

theorem addCounter_uncounted (k : Nat) (c : Chip) (slot idx n : Nat) :
    (addCounter k c slot idx n).uncounted = c.uncounted := by
  induction k generalizing c idx n with
  | zero => rfl
  | succ k ih =>
    unfold addCounter; dsimp only
    split
    · rfl
    · split
      · exact ih _ _ _
      · exact raiseLimitedOwn_uncounted _ _ _ _ _ _ _ _

theorem count_uncounted (c : Chip) (slot event n : Nat) : (count c slot event n).uncounted = c.uncounted := by
  unfold count
  split
  · rfl
  · refine foldl_keeps Chip.uncounted _ (fun a b => ?_) _ _
    split
    · exact addCounter_uncounted _ _ _ _ _
    · rfl

/-- Reads of words change the counters of reads only. -/
theorem countReads_uncounted (c : Chip) (l : List Place) (k : Bool) :
    { (countReads c l k).uncounted with poisonReads := 0, unwrittenReads := 0 } =
    { c.uncounted with poisonReads := 0, unwrittenReads := 0 } := by
  unfold countReads
  dsimp only
  rw [foldl_keeps Chip.uncounted _ (fun _ _ => count_uncounted _ _ _ _),
    foldl_keeps Chip.uncounted _ (fun _ _ => count_uncounted _ _ _ _)]
  rfl

/-- What counting leaves of the chip. -/
theorem field_of_uncounted {α : Type} {c d : Chip} (f : Chip → α) (hf : ∀ x : Chip, f x.uncounted = f x)
    (h : d.uncounted = c.uncounted) : f d = f c := by rw [← hf d, ← hf c, h]
@[simp] theorem count_time (c : Chip) (slot event n : Nat) : (count c slot event n).time = c.time :=
  field_of_uncounted Chip.time (fun _ => rfl) (count_uncounted c slot event n)
@[simp] theorem count_start (c : Chip) (slot event n : Nat) : (count c slot event n).start = c.start :=
  field_of_uncounted Chip.start (fun _ => rfl) (count_uncounted c slot event n)
@[simp] theorem count_cfg (c : Chip) (slot event n : Nat) : (count c slot event n).cfg = c.cfg :=
  field_of_uncounted Chip.cfg (fun _ => rfl) (count_uncounted c slot event n)
@[simp] theorem count_cci (c : Chip) (slot event n : Nat) : (count c slot event n).cci = c.cci :=
  field_of_uncounted Chip.cci (fun _ => rfl) (count_uncounted c slot event n)
@[simp] theorem count_eth (c : Chip) (slot event n : Nat) : (count c slot event n).eth = c.eth :=
  field_of_uncounted Chip.eth (fun _ => rfl) (count_uncounted c slot event n)
@[simp] theorem count_streams (c : Chip) (slot event n : Nat) : (count c slot event n).streams = c.streams :=
  field_of_uncounted Chip.streams (fun _ => rfl) (count_uncounted c slot event n)
@[simp] theorem count_decs (c : Chip) (slot event n : Nat) : (count c slot event n).decs = c.decs :=
  field_of_uncounted Chip.decs (fun _ => rfl) (count_uncounted c slot event n)
@[simp] theorem count_store (c : Chip) (slot event n : Nat) : (count c slot event n).store = c.store :=
  field_of_uncounted Chip.store (fun _ => rfl) (count_uncounted c slot event n)
@[simp] theorem count_tables (c : Chip) (slot event n : Nat) : (count c slot event n).tables = c.tables :=
  field_of_uncounted Chip.tables (fun _ => rfl) (count_uncounted c slot event n)
@[simp] theorem count_ports (c : Chip) (slot event n : Nat) : (count c slot event n).ports = c.ports :=
  field_of_uncounted Chip.ports (fun _ => rfl) (count_uncounted c slot event n)
@[simp] theorem count_regions (c : Chip) (slot event n : Nat) : (count c slot event n).regions = c.regions :=
  field_of_uncounted Chip.regions (fun _ => rfl) (count_uncounted c slot event n)
@[simp] theorem count_layers (c : Chip) (slot event n : Nat) : (count c slot event n).layers = c.layers :=
  field_of_uncounted Chip.layers (fun _ => rfl) (count_uncounted c slot event n)
@[simp] theorem count_surfs (c : Chip) (slot event n : Nat) : (count c slot event n).surfs = c.surfs :=
  field_of_uncounted Chip.surfs (fun _ => rfl) (count_uncounted c slot event n)
@[simp] theorem count_mems (c : Chip) (slot event n : Nat) : (count c slot event n).mems = c.mems :=
  field_of_uncounted Chip.mems (fun _ => rfl) (count_uncounted c slot event n)
@[simp] theorem count_areas (c : Chip) (slot event n : Nat) : (count c slot event n).areas = c.areas :=
  field_of_uncounted Chip.areas (fun _ => rfl) (count_uncounted c slot event n)
@[simp] theorem count_mcs (c : Chip) (slot event n : Nat) : (count c slot event n).mcs = c.mcs :=
  field_of_uncounted Chip.mcs (fun _ => rfl) (count_uncounted c slot event n)
@[simp] theorem count_banks (c : Chip) (slot event n : Nat) : (count c slot event n).banks = c.banks :=
  field_of_uncounted Chip.banks (fun _ => rfl) (count_uncounted c slot event n)
@[simp] theorem count_written (c : Chip) (slot event n : Nat) : (count c slot event n).written = c.written :=
  field_of_uncounted Chip.written (fun _ => rfl) (count_uncounted c slot event n)
@[simp] theorem count_poison (c : Chip) (slot event n : Nat) : (count c slot event n).poison = c.poison :=
  field_of_uncounted Chip.poison (fun _ => rfl) (count_uncounted c slot event n)
@[simp] theorem count_ram (c : Chip) (slot event n : Nat) : (count c slot event n).ram = c.ram :=
  field_of_uncounted Chip.ram (fun _ => rfl) (count_uncounted c slot event n)
@[simp] theorem count_movers (c : Chip) (slot event n : Nat) : (count c slot event n).movers = c.movers :=
  field_of_uncounted Chip.movers (fun _ => rfl) (count_uncounted c slot event n)
@[simp] theorem count_laneUi (c : Chip) (slot event n : Nat) : (count c slot event n).laneUi = c.laneUi :=
  field_of_uncounted Chip.laneUi (fun _ => rfl) (count_uncounted c slot event n)
@[simp] theorem count_lanes (c : Chip) (slot event n : Nat) : (count c slot event n).lanes = c.lanes :=
  field_of_uncounted Chip.lanes (fun _ => rfl) (count_uncounted c slot event n)
@[simp] theorem count_quads (c : Chip) (slot event n : Nat) : (count c slot event n).quads = c.quads :=
  field_of_uncounted Chip.quads (fun _ => rfl) (count_uncounted c slot event n)
@[simp] theorem count_drivers (c : Chip) (slot event n : Nat) : (count c slot event n).drivers = c.drivers :=
  field_of_uncounted Chip.drivers (fun _ => rfl) (count_uncounted c slot event n)
@[simp] theorem count_power (c : Chip) (slot event n : Nat) : (count c slot event n).power = c.power :=
  field_of_uncounted Chip.power (fun _ => rfl) (count_uncounted c slot event n)
@[simp] theorem count_faults (c : Chip) (slot event n : Nat) : (count c slot event n).faults = c.faults :=
  field_of_uncounted Chip.faults (fun _ => rfl) (count_uncounted c slot event n)
@[simp] theorem count_cal (c : Chip) (slot event n : Nat) : (count c slot event n).cal = c.cal :=
  field_of_uncounted Chip.cal (fun _ => rfl) (count_uncounted c slot event n)
@[simp] theorem count_out (c : Chip) (slot event n : Nat) : (count c slot event n).out = c.out :=
  field_of_uncounted Chip.out (fun _ => rfl) (count_uncounted c slot event n)
@[simp] theorem count_free (c : Chip) (slot event n : Nat) : (count c slot event n).free = c.free :=
  field_of_uncounted Chip.free (fun _ => rfl) (count_uncounted c slot event n)

end Sys2Proof.Machine
end

