-- ==== Sys2Proof/Laws/Faults.lean ====
section
/-!
SUPPORT. A fault event changes the records of faults and the signals that wait, and nothing else of the chip.
-/

namespace Sys2Proof.Machine

/-- What a fault event may change is left out. -/
def Chip.unfaulted (c : Chip) : Chip := { c with signals := [], faults := {} }

theorem actionDone_unfaulted (c : Chip) (cls unit : Nat) : (actionDone c cls unit).unfaulted = c.unfaulted := by
  unfold actionDone; split <;> rfl
theorem raiseFault_unfaulted (c : Chip) (code cls cause unit action : Nat) (extra : List U32) :
    (raiseFault c code cls cause unit action extra).unfaulted = c.unfaulted := by
  unfold raiseFault; dsimp only; split
  · rfl
  · exact actionDone_unfaulted c cls unit
theorem raiseKey_unfaulted (c : Chip) (code cls cause key action : Nat) (extra : List U32) :
    (raiseKey c code cls cause key action extra).unfaulted = c.unfaulted := raiseFault_unfaulted _ _ _ _ _ _ _
/-- What a fault event leaves of the chip. -/
theorem field_of_unfaulted {α : Type} {c d : Chip} (f : Chip → α) (hf : ∀ x : Chip, f x.unfaulted = f x)
    (h : d.unfaulted = c.unfaulted) : f d = f c := by rw [← hf d, ← hf c, h]
@[simp] theorem raiseKey_time (c : Chip) (code cls cause key action : Nat) (extra : List U32) :
    (raiseKey c code cls cause key action extra).time = c.time := field_of_unfaulted Chip.time (fun _ => rfl) (raiseKey_unfaulted _ _ _ _ _ _ _)
@[simp] theorem raiseKey_start (c : Chip) (code cls cause key action : Nat) (extra : List U32) :
    (raiseKey c code cls cause key action extra).start = c.start := field_of_unfaulted Chip.start (fun _ => rfl) (raiseKey_unfaulted _ _ _ _ _ _ _)
@[simp] theorem raiseKey_cfg (c : Chip) (code cls cause key action : Nat) (extra : List U32) :
    (raiseKey c code cls cause key action extra).cfg = c.cfg := field_of_unfaulted Chip.cfg (fun _ => rfl) (raiseKey_unfaulted _ _ _ _ _ _ _)
@[simp] theorem raiseKey_sm (c : Chip) (code cls cause key action : Nat) (extra : List U32) :
    (raiseKey c code cls cause key action extra).sm = c.sm := field_of_unfaulted Chip.sm (fun _ => rfl) (raiseKey_unfaulted _ _ _ _ _ _ _)
@[simp] theorem raiseKey_pcie (c : Chip) (code cls cause key action : Nat) (extra : List U32) :
    (raiseKey c code cls cause key action extra).pcie = c.pcie := field_of_unfaulted Chip.pcie (fun _ => rfl) (raiseKey_unfaulted _ _ _ _ _ _ _)
@[simp] theorem raiseKey_cci (c : Chip) (code cls cause key action : Nat) (extra : List U32) :
    (raiseKey c code cls cause key action extra).cci = c.cci := field_of_unfaulted Chip.cci (fun _ => rfl) (raiseKey_unfaulted _ _ _ _ _ _ _)
@[simp] theorem raiseKey_streams (c : Chip) (code cls cause key action : Nat) (extra : List U32) :
    (raiseKey c code cls cause key action extra).streams = c.streams := field_of_unfaulted Chip.streams (fun _ => rfl) (raiseKey_unfaulted _ _ _ _ _ _ _)
@[simp] theorem raiseKey_decs (c : Chip) (code cls cause key action : Nat) (extra : List U32) :
    (raiseKey c code cls cause key action extra).decs = c.decs := field_of_unfaulted Chip.decs (fun _ => rfl) (raiseKey_unfaulted _ _ _ _ _ _ _)
@[simp] theorem raiseKey_store (c : Chip) (code cls cause key action : Nat) (extra : List U32) :
    (raiseKey c code cls cause key action extra).store = c.store := field_of_unfaulted Chip.store (fun _ => rfl) (raiseKey_unfaulted _ _ _ _ _ _ _)
@[simp] theorem raiseKey_tables (c : Chip) (code cls cause key action : Nat) (extra : List U32) :
    (raiseKey c code cls cause key action extra).tables = c.tables := field_of_unfaulted Chip.tables (fun _ => rfl) (raiseKey_unfaulted _ _ _ _ _ _ _)
@[simp] theorem raiseKey_ports (c : Chip) (code cls cause key action : Nat) (extra : List U32) :
    (raiseKey c code cls cause key action extra).ports = c.ports := field_of_unfaulted Chip.ports (fun _ => rfl) (raiseKey_unfaulted _ _ _ _ _ _ _)
@[simp] theorem raiseKey_regions (c : Chip) (code cls cause key action : Nat) (extra : List U32) :
    (raiseKey c code cls cause key action extra).regions = c.regions := field_of_unfaulted Chip.regions (fun _ => rfl) (raiseKey_unfaulted _ _ _ _ _ _ _)
@[simp] theorem raiseKey_layers (c : Chip) (code cls cause key action : Nat) (extra : List U32) :
    (raiseKey c code cls cause key action extra).layers = c.layers := field_of_unfaulted Chip.layers (fun _ => rfl) (raiseKey_unfaulted _ _ _ _ _ _ _)
@[simp] theorem raiseKey_surfs (c : Chip) (code cls cause key action : Nat) (extra : List U32) :
    (raiseKey c code cls cause key action extra).surfs = c.surfs := field_of_unfaulted Chip.surfs (fun _ => rfl) (raiseKey_unfaulted _ _ _ _ _ _ _)
@[simp] theorem raiseKey_mems (c : Chip) (code cls cause key action : Nat) (extra : List U32) :
    (raiseKey c code cls cause key action extra).mems = c.mems := field_of_unfaulted Chip.mems (fun _ => rfl) (raiseKey_unfaulted _ _ _ _ _ _ _)
@[simp] theorem raiseKey_areas (c : Chip) (code cls cause key action : Nat) (extra : List U32) :
    (raiseKey c code cls cause key action extra).areas = c.areas := field_of_unfaulted Chip.areas (fun _ => rfl) (raiseKey_unfaulted _ _ _ _ _ _ _)
@[simp] theorem raiseKey_mcs (c : Chip) (code cls cause key action : Nat) (extra : List U32) :
    (raiseKey c code cls cause key action extra).mcs = c.mcs := field_of_unfaulted Chip.mcs (fun _ => rfl) (raiseKey_unfaulted _ _ _ _ _ _ _)
@[simp] theorem raiseKey_ram (c : Chip) (code cls cause key action : Nat) (extra : List U32) :
    (raiseKey c code cls cause key action extra).ram = c.ram := field_of_unfaulted Chip.ram (fun _ => rfl) (raiseKey_unfaulted _ _ _ _ _ _ _)
@[simp] theorem raiseKey_movers (c : Chip) (code cls cause key action : Nat) (extra : List U32) :
    (raiseKey c code cls cause key action extra).movers = c.movers := field_of_unfaulted Chip.movers (fun _ => rfl) (raiseKey_unfaulted _ _ _ _ _ _ _)
@[simp] theorem raiseKey_lanes (c : Chip) (code cls cause key action : Nat) (extra : List U32) :
    (raiseKey c code cls cause key action extra).lanes = c.lanes := field_of_unfaulted Chip.lanes (fun _ => rfl) (raiseKey_unfaulted _ _ _ _ _ _ _)
@[simp] theorem raiseKey_quads (c : Chip) (code cls cause key action : Nat) (extra : List U32) :
    (raiseKey c code cls cause key action extra).quads = c.quads := field_of_unfaulted Chip.quads (fun _ => rfl) (raiseKey_unfaulted _ _ _ _ _ _ _)
@[simp] theorem raiseKey_power (c : Chip) (code cls cause key action : Nat) (extra : List U32) :
    (raiseKey c code cls cause key action extra).power = c.power := field_of_unfaulted Chip.power (fun _ => rfl) (raiseKey_unfaulted _ _ _ _ _ _ _)
@[simp] theorem raiseKey_cal (c : Chip) (code cls cause key action : Nat) (extra : List U32) :
    (raiseKey c code cls cause key action extra).cal = c.cal := field_of_unfaulted Chip.cal (fun _ => rfl) (raiseKey_unfaulted _ _ _ _ _ _ _)
@[simp] theorem raiseKey_perf (c : Chip) (code cls cause key action : Nat) (extra : List U32) :
    (raiseKey c code cls cause key action extra).perf = c.perf := field_of_unfaulted Chip.perf (fun _ => rfl) (raiseKey_unfaulted _ _ _ _ _ _ _)

end Sys2Proof.Machine
end

