-- ==== Sys2Proof/Laws/Memory.lean ====
section
/-!
SUPPORT. Canonical cell lists: every operation keeps the form, a byte written reads back, and a write leaves every other
byte alone.
-/

namespace Sys2Proof.Machine

/-- The canonical form with its bound as a number. -/
def Memory.rising (n : Nat) : List Host.Cell → Prop
  | [] => True
  | c :: l => n ≤ c.1 ∧ c.2 ≠ 0#8 ∧ Memory.rising (c.1 + 1) l

theorem Memory.rising_of_wfAbove (l : List Host.Cell) (a : Nat) :
    Memory.wfAbove (some a) l = true ↔ Memory.rising (a + 1) l := by
  induction l generalizing a with
  | nil => simp [Memory.wfAbove, Memory.rising]
  | cons c l ih => simp [Memory.wfAbove, Memory.rising, ih, and_assoc]

/-- The canonical form as a statement about the list alone. -/
theorem Memory.wf_iff (l : List Host.Cell) : Memory.wf l = true ↔ Memory.rising 0 l := by
  cases l with
  | nil => simp [Memory.wf, Memory.wfAbove, Memory.rising]
  | cons c l => simp [Memory.wf, Memory.wfAbove, Memory.rising, Memory.rising_of_wfAbove]

theorem Memory.rising_mono {l : List Host.Cell} {m n : Nat} (h : m ≤ n) (hl : Memory.rising n l) : Memory.rising m l := by
  cases l with
  | nil => trivial
  | cons c l => exact ⟨Nat.le_trans h hl.1, hl.2⟩

theorem Memory.rising_set {l : List Host.Cell} {n a : Nat} (v : Byte) (h : n ≤ a) (hl : Memory.rising n l) :
    Memory.rising n (Memory.set l a v) := by
  induction l generalizing n with
  | nil => unfold Memory.set; split <;> simp_all [Memory.rising]
  | cons c l ih =>
    obtain ⟨h1, h2, h3⟩ := hl
    unfold Memory.set
    split
    · split
      · exact ⟨h1, h2, h3⟩
      · rename_i k hv; exact ⟨h, hv, Nat.succ_le_of_lt k, h2, h3⟩
    · split
      · rename_i k e
        split
        · exact Memory.rising_mono (by omega) h3
        · rename_i hv; exact ⟨h, hv, by rw [e]; exact h3⟩
      · exact ⟨h1, h2, ih (by omega) h3⟩

/-- A write keeps the canonical form. -/
theorem Memory.wf_set {l : List Host.Cell} (a : Nat) (v : Byte) (h : Memory.wf l = true) : Memory.wf (Memory.set l a v) = true := by
  rw [Memory.wf_iff] at *; exact Memory.rising_set v (Nat.zero_le _) h

/-- A write of many bytes keeps the canonical form. -/
theorem Memory.wf_setBytes {l : List Host.Cell} (a : Nat) (d : List Byte) (h : Memory.wf l = true) :
    Memory.wf (Memory.setBytes l a d) = true := by
  induction d generalizing l a with
  | nil => exact h
  | cons b d ih => exact ih _ (Memory.wf_set _ _ h)

theorem Memory.rising_filter {l : List Host.Cell} {n : Nat} (p : Host.Cell → Bool) (h : Memory.rising n l) :
    Memory.rising n (l.filter p) := by
  induction l generalizing n with
  | nil => trivial
  | cons c l ih =>
    rw [List.filter_cons]
    split
    · exact ⟨h.1, h.2.1, ih h.2.2⟩
    · exact ih (Memory.rising_mono (by have := h.1; omega) h.2.2)

/-- Dropping a range keeps the canonical form. -/
theorem Memory.wf_dropRange {l : List Host.Cell} (lo hi : Nat) (h : Memory.wf l = true) :
    Memory.wf (Memory.dropRange l lo hi) = true := by
  rw [Memory.wf_iff] at *; exact Memory.rising_filter _ h

theorem Memory.get_below {l : List Host.Cell} {n a : Nat} (h : Memory.rising n l) (ha : a < n) : Memory.get l a = 0#8 := by
  cases l with
  | nil => rfl
  | cons c l => obtain ⟨h1, -, -⟩ := h; unfold Memory.get; rw [if_neg (by omega), if_pos (by omega)]

theorem Memory.get_set_rising {l : List Host.Cell} {n : Nat} (h : Memory.rising n l) (a b : Nat) (v : Byte) :
    Memory.get (Memory.set l a v) b = if b = a then v else Memory.get l b := by
  induction l generalizing n with
  | nil =>
    by_cases hv : v = 0#8
    · simp [Memory.set, hv, Memory.get]
    · simp only [Memory.set, hv, if_false, Memory.get]
      by_cases e : b = a
      · simp [e]
      · rw [if_neg (Ne.symm e), if_neg e]; split <;> rfl
  | cons c l ih =>
    obtain ⟨h1, h2, h3⟩ := h
    unfold Memory.set
    by_cases k : a < c.1
    · rw [if_pos k]
      by_cases hv : v = 0#8
      · rw [if_pos hv]
        by_cases e : b = a
        · subst e; rw [if_pos rfl, hv]; unfold Memory.get; rw [if_neg (by omega), if_pos k]
        · rw [if_neg e]
      · rw [if_neg hv]
        by_cases e : b = a
        · subst e; rw [if_pos rfl]; unfold Memory.get; rw [if_pos rfl]
        · rw [if_neg e]
          conv => lhs; unfold Memory.get
          rw [if_neg (Ne.symm e)]
          by_cases hb : b < a
          · rw [if_pos hb]; unfold Memory.get; rw [if_neg (by omega), if_pos (by omega)]
          · rw [if_neg hb]
    · rw [if_neg k]
      by_cases e : a = c.1
      · rw [if_pos e]
        by_cases hv : v = 0#8
        · rw [if_pos hv]
          by_cases eb : b = a
          · rw [if_pos eb, hv]; exact Memory.get_below h3 (by omega)
          · rw [if_neg eb]; conv => rhs; unfold Memory.get
            rw [if_neg (by omega)]
            by_cases hb : b < c.1
            · rw [if_pos hb]; exact Memory.get_below h3 (by omega)
            · rw [if_neg hb]
        · rw [if_neg hv]
          unfold Memory.get
          by_cases eb : b = a
          · simp [eb]
          · simp only [e, if_neg (show ¬c.1 = b by omega), if_neg (show ¬b = c.1 by omega)]
      · rw [if_neg e]
        unfold Memory.get
        rw [ih h3]
        by_cases eb : b = a
        · subst eb; rw [if_pos rfl, if_neg (by omega), if_neg (by omega), if_pos rfl]
        · rw [if_neg eb, if_neg eb]

/-- A byte written reads back, and every other byte reads as before. -/
theorem Memory.get_set {l : List Host.Cell} (h : Memory.wf l = true) (a b : Nat) (v : Byte) :
    Memory.get (Memory.set l a v) b = if b = a then v else Memory.get l b :=
  Memory.get_set_rising ((Memory.wf_iff l).mp h) a b v

/-- Bytes written read back in their order, and every other byte reads as before. -/
theorem Memory.get_setBytes {l : List Host.Cell} (h : Memory.wf l = true) (a : Nat) (d : List Byte) (b : Nat) :
    Memory.get (Memory.setBytes l a d) b = if a ≤ b ∧ b < a + d.length then nth d (b - a) else Memory.get l b := by
  induction d generalizing l a with
  | nil => rw [if_neg (by simp)]; rfl
  | cons x d ih =>
    show Memory.get (Memory.setBytes (Memory.set l a x) (a + 1) d) b = _
    rw [ih (Memory.wf_set _ _ h), Memory.get_set h]
    simp only [List.length_cons]
    by_cases e : b = a
    · subst e; rw [if_neg (by omega), if_pos rfl, if_pos (by omega)]; simp [nth]
    · by_cases k : a + 1 ≤ b ∧ b < a + 1 + d.length
      · rw [if_pos k, if_pos (by omega)]
        have : b - a = (b - (a + 1)) + 1 := by omega
        rw [this]; simp [nth]
      · rw [if_neg k, if_neg e, if_neg (by omega)]

/-- Dropping a range leaves every byte outside it, and a byte inside it reads 0. -/
theorem Memory.get_dropRange {l : List Host.Cell} {n : Nat} (h : Memory.rising n l) (lo hi a : Nat) :
    Memory.get (Memory.dropRange l lo hi) a = if lo ≤ a ∧ a < hi then 0#8 else Memory.get l a := by
  induction l generalizing n with
  | nil => simp [Memory.dropRange, Memory.get]
  | cons c l ih =>
    have ih := ih h.2.2
    unfold Memory.dropRange at ih ⊢
    rw [List.filter_cons]
    have below : a < c.1 → Memory.get (l.filter (fun c => decide (c.1 < lo) || decide (hi ≤ c.1))) a = 0#8 := fun k =>
      Memory.get_below (Memory.rising_filter _ h.2.2) (by omega)
    split
    · rename_i k
      simp only [Bool.or_eq_true, decide_eq_true_eq] at k
      simp only [Memory.get, ih]
      by_cases e : c.1 = a
      · rw [if_pos e, if_pos e, if_neg (by omega)]
      · rw [if_neg e, if_neg e]; split <;> simp
    · rename_i k
      simp only [Bool.or_eq_true, decide_eq_true_eq, not_or] at k
      rw [ih]
      simp only [Memory.get]
      by_cases e : c.1 = a
      · rw [if_pos (by omega), if_pos (by omega)]
      · rw [if_neg e]
        by_cases b : a < c.1
        · have z : Memory.get l a = 0#8 := Memory.get_below h.2.2 (by omega)
          rw [if_pos b, z]
        · rw [if_neg b]

/-- Nothing is listed after reset. -/
theorem Memory.wf_reset : Memory.wf State.reset.hif.inRing = true ∧ Memory.wf State.reset.chip.ram = true ∧
    Memory.wf State.reset.chip.pcie.hostMem = true := ⟨rfl, rfl, rfl⟩

end Sys2Proof.Machine
end

