-- ==== Sys2Proof/Laws/Registers.lean ====
section
/-!
SUPPORT. Registers of the host interface: words with one bit, writes into the inbound ring, and a vector that nothing
holds back.
-/

namespace Sys2Proof.Machine

theorem bitsOf_zero (n : Nat) : bitsOf 0 n = [] := by simp [bitsOf]
/-- The bits of a power of two. -/
theorem bitsOf_pow (k n : Nat) (h : k < n) : bitsOf (2 ^ k) n = [k] := by
  unfold bitsOf
  have : ∀ i, (2^k).testBit i = decide (k = i) := fun i => Nat.testBit_two_pow
  simp only [this]
  induction n with
  | zero => omega
  | succ n ih =>
    rw [List.range_succ, List.filter_append]
    by_cases hk : k = n
    · subst hk
      have : List.filter (fun i => decide (k = i)) (List.range k) = [] := by
        simp [List.filter_eq_nil_iff]; omega
      simp [this]
    · rw [ih (by omega)]; simp [hk]

/-- The word with one bit set. -/
theorem w_pow (n : Nat) (h : n < 32) : (w (2 ^ n)).toNat = 2 ^ n := by
  simp [w]; exact Nat.pow_lt_pow_right (by omega) h

/-- Bytes stored one after another are the bytes stored at their offsets. -/
theorem Memory.setBytes_range (m : List Host.Cell) (a : Nat) (d : List Byte) :
    Memory.setBytes m a d = (List.range d.length).foldl (fun m i => Memory.set m (a + i) (nth d i)) m := by
  induction d generalizing m a with
  | nil => rfl
  | cons b d ih =>
    rw [List.length_cons, List.range_succ_eq_map, List.foldl_cons, List.foldl_map]
    show Memory.setBytes (Memory.set m a b) (a+1) d = _
    rw [ih]
    have : (fun (m : List Host.Cell) i => Memory.set m (a + 1 + i) (nth d i)) = (fun m i => Memory.set m (a + i.succ) (nth (b :: d) i.succ)) := by
      funext m i
      have e1 : a + 1 + i = a + i.succ := by omega
      have e2 : nth (b :: d) i.succ = nth d i := by simp [nth]
      rw [e1, e2]
    rw [this]; simp [nth]

/-- A write that lies within the inbound ring stores its bytes there and changes nothing else. -/
theorem ringWrite_eq (off : Nat) (d : List Byte) (h : Hif) (h1 : 0x100000 ≤ off) (h2 : off + d.length ≤ 0x104000) :
    ringWrite off d h = { h with inRing := Memory.setBytes h.inRing (off - 0x100000) d } := by
  rw [Memory.setBytes_range]
  unfold ringWrite
  have : ∀ (l : List Nat), (∀ x ∈ l, x < d.length) → ∀ h : Hif, l.foldl (fun h i =>
      let a := off + i
      if 0x100000 ≤ a && a < 0x104000 then { h with inRing := Memory.set h.inRing (a - 0x100000) (nth d i) } else h) h
      = { h with inRing := l.foldl (fun m i => Memory.set m (off - 0x100000 + i) (nth d i)) h.inRing } := by
    intro l
    induction l with
    | nil => intro _ h; rfl
    | cons x l ih =>
      intro hx h
      have hxl := hx x (by simp)
      rw [List.foldl_cons, List.foldl_cons]
      dsimp only
      rw [if_pos (by simp; omega), ih (fun y hy => hx y (List.mem_cons_of_mem _ hy))]
      have : off + x - 0x100000 = off - 0x100000 + x := by omega
      rw [this]
  exact this _ (by simp) h

/-- A vector that nothing holds back sends its message. -/
theorem sendVector_open (h : Hif) (v : Nat) (m : msixBlocked h v = false) : sendVector h v =
   { h with sent := (v, (nth h.msixTable v).1, (nth h.msixTable v).2.1) :: h.sent, pba := h.pba &&& ~~~(w (2 ^ v)) } := by
  unfold sendVector; rw [if_neg (by simp [m])]
/-- A vector that nothing holds back begins its holdoff with the message. -/
theorem sendHeld_open (h : Hif) (v : Nat) (m : msixBlocked h v = false) : sendHeld h v =
    { h with
      sent := (v, (nth h.msixTable v).1, (nth h.msixTable v).2.1) :: h.sent
      pba := h.pba &&& ~~~(w (2 ^ v))
      inHoldoff := if 2 ≤ v ∧ v ≤ 15 ∧ h.holdoff ≠ 0 then v :: h.inHoldoff else h.inHoldoff } := by
  unfold sendHeld
  rw [sendVector_open _ _ m, m]
  by_cases k : 2 ≤ v ∧ v ≤ 15 ∧ h.holdoff ≠ 0
  · rw [if_neg (by simp [k]), if_pos k]
  · rw [if_pos (by simp only [Bool.false_or, Bool.or_eq_true, Bool.not_eq_true', Bool.and_eq_false_iff, decide_eq_false_iff_not, decide_eq_true_eq]; omega), if_neg k]

end Sys2Proof.Machine
end

