-- ==== Sys2Proof/Laws/Rings.lean ====
section
/-!
SUPPORT. The rings, the hold queue and the logs stay within their sizes under each shared operation: writing an event or a
response, delivering, settling an abort, taking a message, a host access.
-/

namespace Sys2Proof.Machine

/-! ## What interrupts leave alone -/

/-- The mailbox indices and the rings of the host interface. -/
def Hif.rings (h : Hif) : (U32 × U32 × U32) × (U32 × U32 × U32) × List (List U32) × List (List U32) × List Host.Cell :=
  ((h.inAccepted, h.inConsumed, h.rspProduced), (h.rspConsumed, h.evtProduced, h.evtConsumed), h.rspRing, h.evtRing, h.inRing)

theorem sendVector_rings (h : Hif) (v : Nat) : (sendVector h v).rings = h.rings := by
  unfold sendVector; split <;> rfl
theorem sendHeld_rings (h : Hif) (v : Nat) : (sendHeld h v).rings = h.rings := by
  unfold sendHeld
  dsimp only
  split
  · exact sendVector_rings _ _
  · exact (sendVector_rings h v)
theorem notify_rings (h : Hif) (v : Nat) : (notify h v).rings = h.rings := by
  unfold notify
  split
  · rfl
  · exact sendHeld_rings _ _
theorem setCause_rings (h : Hif) (v : Nat) : (setCause h v).rings = h.rings := by
  unfold setCause
  dsimp only
  split
  · rfl
  · split
    · rfl
    · exact notify_rings _ _
theorem setAptStatus_rings (h : Hif) (b a : Nat) : (setAptStatus h b a).rings = h.rings := by
  unfold setAptStatus
  dsimp only
  rw [setCause_rings]
  split <;> rfl

theorem ite_rings {p : Prop} [Decidable p] {a b h : Hif} (ha : a.rings = h.rings) (hb : b.rings = h.rings) :
    (if p then a else b).rings = h.rings := by split <;> assumption

/-! ## The invariant by parts -/

/-- What `RingsWithin` says of the host interface and of the event writer. -/
structure Writer.Within (x : Writer) : Prop where
  inbound : ringUsed x.hif.inAccepted x.hif.inConsumed ≤ 256
  responses : ringUsed x.hif.rspProduced x.hif.rspConsumed ≤ 256
  events : ringUsed x.hif.evtProduced x.hif.evtConsumed ≤ 1024
  responseSlots : x.hif.rspRing.length ≤ 256
  eventSlots : x.hif.evtRing.length ≤ 1024
  held : x.evt.hold.length ≤ 256
  kept : x.evt.history.length ≤ 65536
  faults : x.evt.faultLog.length ≤ 4096
  ring : Memory.wf x.hif.inRing = true

theorem ringsWithin_iff (s : State) : RingsWithin s ↔ Writer.Within { hif := s.hif, evt := s.evt } :=
  ⟨fun h => ⟨h.1, h.2, h.3, h.4, h.5, h.6, h.7, h.8, h.9⟩, fun h => ⟨h.1, h.2, h.3, h.4, h.5, h.6, h.7, h.8, h.9⟩⟩

theorem Writer.Within.of_rings {h k : Hif} {v : Evt} (e : k.rings = h.rings) (x : Writer.Within { hif := h, evt := v }) :
    Writer.Within { hif := k, evt := v } := by
  simp only [Hif.rings, Prod.mk.injEq] at e
  obtain ⟨⟨e1, e2, e3⟩, ⟨e4, e5, e6⟩, e7, e8, e9⟩ := e
  obtain ⟨a, b, c, d, f, g, p, q, r⟩ := x
  simp only at a b c d f r
  exact ⟨by simp only [e1, e2]; exact a, by simp only [e3, e4]; exact b, by simp only [e5, e6]; exact c,
    by simp only [e7]; exact d, by simp only [e8]; exact f, g, p, q, by simp only [e9]; exact r⟩

/-- A state with the same rings and event writer. -/
theorem RingsWithin.of_same {s t : State} (hs : RingsWithin s) (h : t.hif.rings = s.hif.rings) (v : t.evt = s.evt) :
    RingsWithin t := by
  rw [ringsWithin_iff] at *
  rw [v]
  exact hs.of_rings h

theorem RingsWithin.chip {s : State} (hs : RingsWithin s) (c : Chip) : RingsWithin { s with chip := c } :=
  hs.of_same rfl rfl

/-! ## Index arithmetic -/

theorem ringUsed_produce {p c : U32} {n : Nat} (h : ringUsed p c < n) : ringUsed (p + 1) c ≤ n := by
  unfold ringUsed at *
  have : (p + 1 - c).toNat ≤ (p - c).toNat + 1 := by
    simp only [BitVec.toNat_sub, BitVec.toNat_add]
    have := p.isLt; have := c.isLt
    simp
    omega
  omega
theorem ringUsed_consume {p c : U32} (h : p ≠ c) : ringUsed p (c + 1) ≤ ringUsed p c := by
  unfold ringUsed
  have : p.toNat ≠ c.toNat := fun e => h (BitVec.eq_of_toNat_eq e)
  simp only [BitVec.toNat_sub, BitVec.toNat_add]
  have := p.isLt; have := c.isLt
  simp
  omega
theorem ringUsed_index {v p c : U32} (h : (v - c).toNat ≤ (p - c).toNat) : ringUsed p v ≤ ringUsed p c := by
  unfold ringUsed
  simp only [BitVec.toNat_sub] at *
  have := p.isLt; have := c.isLt; have := v.isLt
  omega

/-! ## Events -/

theorem Writer.Within.writeRing {x : Writer} (h : x.Within) (e : Event) (v : Evt) (hv : Writer.Within { hif := x.hif, evt := v }) :
    Writer.Within { hif := writeRing x.hif e, evt := v } := by
  unfold Machine.writeRing
  split
  · exact hv
  · rename_i hf
    dsimp only
    have hu : ringUsed x.hif.evtProduced x.hif.evtConsumed < 1024 := by unfold evtFree at hf; omega
    have h1 : Writer.Within
        { hif := { x.hif with
            evtRing := (eventWords e :: x.hif.evtRing).take 1024, evtProduced := x.hif.evtProduced + 1 }
          evt := v } :=
      ⟨h.1, h.2, ringUsed_produce hu, h.4, List.length_take_le _ _, hv.6, hv.7, hv.8, h.9⟩
    exact h1.of_rings (ite_rings ((setCause_rings _ _).trans (setCause_rings _ _)) (setCause_rings _ _))

theorem Writer.Within.enterLogs {h : Hif} {v : Evt} (x : Writer.Within { hif := h, evt := v }) (e : Event) (n : U32) :
    Writer.Within { hif := h, evt := enterLogs { v with nextSeq := n } e } := by
  refine ⟨x.1, x.2, x.3, x.4, x.5, x.6, ?_, ?_, x.9⟩
  · exact List.length_take_le _ _
  · show (if _ then _ else _ : List Event).length ≤ _
    split
    · exact List.length_take_le _ _
    · exact x.8

theorem Writer.Within.deliver {x : Writer} (h : x.Within) (b : Bool) (e : Event) : (deliver b x e).Within := by
  unfold Machine.deliver
  dsimp only
  have hv := Writer.Within.enterLogs (h := x.hif) (v := x.evt) h { e with seq := x.evt.nextSeq } (x.evt.nextSeq + 1)
  split
  · exact h.writeRing _ _ hv
  · split
    · rename_i hk
      simp only [Bool.and_eq_true, decide_eq_true_eq] at hk
      exact ⟨h.1, h.2, h.3, h.4, h.5, by rw [List.length_append]; exact Nat.succ_le_of_lt hk.2, hv.7, hv.8, h.9⟩
    · exact ⟨h.1, h.2, h.3, h.4, h.5, hv.6, hv.7, hv.8, h.9⟩

theorem Writer.Within.drainHold {x : Writer} (h : x.Within) (n : Nat) : (drainHold n x).Within := by
  induction n generalizing x with
  | zero => exact h
  | succ n ih =>
    unfold Machine.drainHold
    split
    · exact h
    · rename_i e rest he
      split
      · exact h
      · have hr : rest.length ≤ 256 := by have := h.6; rw [he] at this; simp at this; omega
        exact ih (h.writeRing _ _ ⟨h.1, h.2, h.3, h.4, h.5, hr, h.7, h.8, h.9⟩)

theorem spaceReturns_within {st : Chip × Writer} (h : st.2.Within) : (spaceReturns st).2.Within := by
  unfold spaceReturns
  dsimp only
  split
  · exact h
  · split
    · exact h.drainHold _
    · have hv := Writer.Within.enterLogs (h := st.2.hif)
        (v := { st.2.evt with lostFirst := none, lostCount := 0, keepLost := false })
        ⟨h.1, h.2, h.3, h.4, h.5, h.6, h.7, h.8, h.9⟩
      exact (h.writeRing _ _ (hv _ _)).drainHold _

theorem deliverSignal_within {st : Chip × Writer} (h : st.2.Within) (g : Signal) : (deliverSignal st g).2.Within := by
  cases g with
  | logsLost a b c =>
    exact ⟨h.1, h.2, h.3, h.4, h.5, h.6, Nat.le_trans (List.length_take_le' _ _) h.7,
      Nat.le_trans (List.length_take_le' _ _) h.8, h.9⟩
  | cause v => exact Writer.Within.of_rings (h := st.2.hif) (setCause_rings _ _) h
  | event e => exact h.deliver _ _

theorem foldl_within (l : List Signal) {st : Chip × Writer} (h : st.2.Within) : (l.foldl deliverSignal st).2.Within := by
  induction l generalizing st with
  | nil => exact h
  | cons g l ih => exact ih (deliverSignal_within h g)

/-- Delivery keeps the rings within their sizes. -/
theorem RingsWithin.flush {s : State} (h : RingsWithin s) : RingsWithin (flush s) := by
  rw [ringsWithin_iff] at *
  exact spaceReturns_within (foldl_within _ h)

/-! ## Responses and messages -/

theorem RingsWithin.respondWords {s : State} (h : RingsWithin s) (v : Via) (p : Peer) (k : Nat) (l : List U32) (d : List Byte) :
    RingsWithin (respondWords s v p k l d) := by
  unfold Machine.respondWords
  cases v with
  | hp =>
    dsimp only
    split
    · exact h
    · rename_i hf
      have hu : ringUsed s.hif.rspProduced s.hif.rspConsumed < 256 := by simpa [rspFull] using hf
      have h1 : RingsWithin { s with hif := { s.hif with
          rspRing := (l :: s.hif.rspRing).take 256, rspProduced := s.hif.rspProduced + 1 } } :=
        ⟨h.1, ringUsed_produce hu, h.3, List.length_take_le _ _, h.5, h.6, h.7, h.8, h.9⟩
      exact h1.of_same (setCause_rings _ _) rfl
  | udp => exact h.of_same rfl rfl
  | i2c => exact h.of_same rfl rfl
theorem RingsWithin.finish {s : State} (h : RingsWithin s) (e : Env) (op : Nat) (r : Reply) (k : Bool) :
    RingsWithin (finish s e op r k) := by
  unfold Machine.finish
  dsimp only
  split
  · exact h.chip _
  · exact (h.chip _).respondWords _ _ _ _ _
theorem RingsWithin.respondHeld {s : State} (h : RingsWithin s) (j : Nat) (r : Reply) : RingsWithin (respondHeld s j r) := by
  unfold Machine.respondHeld
  split
  · exact h
  · split
    · exact h
    · exact (h.chip _).respondWords _ _ _ _ _
theorem RingsWithin.settleAborts {s : State} (h : RingsWithin s) : RingsWithin (settleAborts s) := by
  obtain e | ⟨j, r, e⟩ := settleAborts_cases s <;> rw [e]
  · exact h
  · exact h.respondHeld _ _
theorem RingsWithin.run {s : State} (h : RingsWithin s) (f : Chip → Chip) : RingsWithin (s.run f) :=
  (h.chip _).flush.settleAborts
theorem RingsWithin.runLive {s : State} (h : RingsWithin s) (f : Chip → Chip) : RingsWithin (s.runLive f) := by
  unfold State.runLive
  split
  · exact h.run f
  · exact h

/-- Taking a message that waits consumes one entry of the inbound ring at most. -/
theorem RingsWithin.popFront {s : State} {v : Via} {m : Waiting} (h : RingsWithin s) (hf : front s v = some m) :
    RingsWithin (popFront s v) := by
  cases v with
  | hp =>
    have hne : s.hif.inAccepted ≠ s.hif.inConsumed := by
      intro e
      unfold front at hf
      dsimp only at hf
      split at hf
      · cases hf
      · rw [if_pos (by simp [e])] at hf; cases hf
    exact ⟨Nat.le_trans (ringUsed_consume hne) h.1, h.2, h.3, h.4, h.5, h.6, h.7, h.8, h.9⟩
  | udp => exact h.of_same rfl rfl
  | i2c => exact h
theorem RingsWithin.discardMessage {s : State} (h : RingsWithin s) (v : Via) : RingsWithin (discardMessage s v) :=
  h.of_same rfl rfl
theorem RingsWithin.cciCommand {s : State} (h : RingsWithin s) (op : Nat) (busy : Env → Chip → Bool) (body : Body) (v : Via) :
    RingsWithin (cciCommand op busy body v s) := by
  unfold Machine.cciCommand
  split
  · exact h
  · rename_i m hf
    have hp := h.popFront hf
    split
    · exact h
    · dsimp only
      split
      · exact hp.discardMessage _
      · split
        · exact ((hp.chip _).finish _ _ _ _).flush
        · exact ((hp.chip _).respondWords _ _ _ _ _).flush
        · exact ((hp.chip _).finish _ _ _ _).flush
        · exact ((hp.chip _).finish _ _ _ _).flush
theorem RingsWithin.unknownMessage {s : State} (h : RingsWithin s) (v : Via) : RingsWithin (unknownMessage v s) := by
  unfold Machine.unknownMessage
  split
  · exact h
  · rename_i m hf
    have hp := h.popFront hf
    split
    · exact h
    · dsimp only
      split
      · exact hp.discardMessage _
      · exact (hp.finish _ _ _ _).flush
theorem RingsWithin.answerSnapshot {s : State} (h : RingsWithin s) : RingsWithin (answerSnapshot s) := by
  unfold Machine.answerSnapshot
  split
  · exact h
  · dsimp only
    split
    · exact h
    · exact (h.chip _).respondHeld _ _

/-! ## Host accesses -/

theorem foldl_rings {β : Type} (f : Hif → β → Hif) (hf : ∀ h b, (f h b).rings = h.rings) (l : List β) (h : Hif) :
    (l.foldl f h).rings = h.rings := foldl_keeps Hif.rings f hf l h

/-- A host access that keeps the mailbox indices and the rings. -/
theorem RingsWithin.host_same {s : State} (h : RingsWithin s) (f : Hif → Hif) (hf : (f s.hif).rings = s.hif.rings) :
    RingsWithin (s.host f) := by
  unfold State.host
  split
  · exact (show RingsWithin { s with hif := f s.hif } from h.of_same hf rfl).flush
  · exact h

theorem irqStatus_rings (v a : U32) (h : Hif) : (irqStatus v a h).rings = h.rings := by
  unfold irqStatus; rw [foldl_rings _ setCause_rings]; rfl
theorem irqMask_rings (v : U32) (h : Hif) : (irqMask v h).rings = h.rings := by
  unfold irqMask; rw [foldl_rings _ notify_rings]; rfl
theorem holdoffEnds_rings (n : Nat) (h : Hif) : (holdoffEnds n h).rings = h.rings := by
  unfold holdoffEnds
  dsimp only
  split
  · rfl
  · split
    · rw [notify_rings]; rfl
    · rfl
theorem sendPending_rings (h : Hif) : (sendPending h).rings = h.rings := by
  unfold sendPending
  refine foldl_rings _ ?_ _ _
  intro h v
  split
  · exact sendHeld_rings _ _
  · rfl
theorem setEntry_rings (n : Nat) (e : U64 × U32 × Bool) (h : Hif) : (setEntry n e h).rings = h.rings := by
  unfold setEntry; rw [sendPending_rings]; rfl
theorem tableWord_rings (off : Nat) (v : U32) (h : Hif) : (tableWord off v h).rings = h.rings := by
  unfold tableWord
  dsimp only
  split <;> exact setEntry_rings _ _ _
theorem plainRegister_rings (off : Nat) (v : U32) (h : Hif) : (plainRegister off v h).rings = h.rings := by
  unfold plainRegister
  dsimp only
  repeat' split
  all_goals rfl

theorem RingsWithin.doorbell {s : State} (h : RingsWithin s) (v : U32) : RingsWithin (s.host (doorbell v)) := by
  unfold State.host
  split
  · refine RingsWithin.flush ?_
    unfold Machine.doorbell
    split
    · rename_i hk
      simp only [doorbellOk, Bool.and_eq_true, decide_eq_true_eq] at hk
      exact ⟨hk.1, h.2, h.3, h.4, h.5, h.6, h.7, h.8, h.9⟩
    · exact h.of_same (by rw [setCause_rings]; rfl) rfl
  · exact h
theorem RingsWithin.rspConsumed {s : State} (h : RingsWithin s) (v : U32) : RingsWithin (s.host (rspConsumed v)) := by
  unfold State.host
  split
  · refine RingsWithin.flush ?_
    unfold Machine.rspConsumed
    split
    · rename_i hk
      simp only [indexOk_, decide_eq_true_eq] at hk
      exact ⟨h.1, Nat.le_trans (ringUsed_index hk) h.2, h.3, h.4, h.5, h.6, h.7, h.8, h.9⟩
    · exact h.of_same (by unfold badIndex; rw [setCause_rings]; rfl) rfl
  · exact h
theorem RingsWithin.evtConsumed {s : State} (h : RingsWithin s) (v : U32) : RingsWithin (s.host (evtConsumed v)) := by
  unfold State.host
  split
  · refine RingsWithin.flush ?_
    unfold Machine.evtConsumed
    split
    · rename_i hk
      simp only [indexOk_, decide_eq_true_eq] at hk
      exact ⟨h.1, h.2, Nat.le_trans (ringUsed_index hk) h.3, h.4, h.5, h.6, h.7, h.8, h.9⟩
    · exact h.of_same (by unfold badIndex; rw [setCause_rings]; rfl) rfl
  · exact h

/-- A write into the inbound ring changes its bytes alone, and keeps their canonical form. -/
theorem ringWrite_keeps (off : Nat) (d : List Byte) (h : Hif) (hw : Memory.wf h.inRing = true) :
    Memory.wf (ringWrite off d h).inRing = true ∧ ({ ringWrite off d h with inRing := h.inRing } : Hif) = h := by
  unfold ringWrite
  dsimp only
  have key : ∀ (l : List Nat) (k : Hif), Memory.wf k.inRing = true ∧ ({ k with inRing := h.inRing } : Hif) = h →
      let r := l.foldl (fun h i => if 0x100000 ≤ off + i && off + i < 0x104000 then
        { h with inRing := Memory.set h.inRing (off + i - 0x100000) (nth d i) } else h) k
      Memory.wf r.inRing = true ∧ ({ r with inRing := h.inRing } : Hif) = h := by
    intro l
    induction l with
    | nil => intro k hk; exact hk
    | cons a l ih =>
      intro k hk
      rw [List.foldl_cons]
      refine ih _ ?_
      split
      · exact ⟨Memory.wf_set _ _ hk.1, hk.2⟩
      · exact hk
  exact key _ _ ⟨hw, rfl⟩
theorem RingsWithin.ringWrite {s : State} (h : RingsWithin s) (off : Nat) (d : List Byte) :
    RingsWithin (s.host (ringWrite off d)) := by
  unfold State.host
  split
  · refine RingsWithin.flush ?_
    obtain ⟨hw, he⟩ := ringWrite_keeps off d s.hif h.ring
    generalize Machine.ringWrite off d s.hif = k at hw he ⊢
    have h1 : RingsWithin { s with hif := { k with inRing := s.hif.inRing } } := by rw [he]; exact h
    exact ⟨h1.1, h1.2, h1.3, h1.4, h1.5, h1.6, h1.7, h1.8, hw⟩
  · exact h
theorem RingsWithin.registerSnapshot {s : State} (h : RingsWithin s) (v : U32) : RingsWithin (registerSnapshot v s) := by
  unfold Machine.registerSnapshot
  split
  · exact h
  · exact h.of_same rfl rfl
theorem RingsWithin.barWrite {s : State} (h : RingsWithin s) (off : Nat) (d : List Byte) : RingsWithin (barWrite off d s) := by
  unfold Machine.barWrite
  split
  · unfold registerWord
    dsimp only
    repeat' split
    · exact h
    · exact h.doorbell _
    · exact h.rspConsumed _
    · exact h.evtConsumed _
    · exact h.host_same _ (irqStatus_rings _ _ _)
    · exact h.host_same _ (irqMask_rings _ _)
    · exact h.registerSnapshot _
    · exact h.host_same _ (tableWord_rings _ _ _)
    · exact h.host_same _ (plainRegister_rings _ _ _)
  · exact h.ringWrite _ _
theorem RingsWithin.configWrite {s : State} (h : RingsWithin s) (x : PcieCfg) : RingsWithin (configWrite x s) := by
  unfold Machine.configWrite
  split
  · exact h
  · split
    · exact h.of_same rfl rfl
    · exact h.of_same rfl rfl
    · exact h.of_same (by rw [sendPending_rings]; rfl) rfl
    · exact h.of_same (by rw [sendPending_rings]; rfl) rfl
theorem bar2Check_rings (s : State) (off n : Nat) : (bar2Check s off n).1.rings = s.hif.rings := by
  unfold bar2Check
  dsimp only
  split
  · exact setAptStatus_rings _ _ _
  · split
    · dsimp only; rw [setAptStatus_rings, setAptStatus_rings]
    · split
      · rfl
      · exact setAptStatus_rings _ _ _
theorem RingsWithin.bar2Read {s : State} (h : RingsWithin s) (off n : Nat) : RingsWithin (bar2Read off n s) := by
  unfold Machine.bar2Read
  split
  · exact h
  · dsimp only
    refine h.of_same ?_ rfl
    show Hif.rings (if _ then _ else _) = _
    split
    · exact bar2Check_rings _ _ _
    · rw [setAptStatus_rings]; exact bar2Check_rings _ _ _
theorem RingsWithin.bar2Write {s : State} (h : RingsWithin s) (off : Nat) (d : List Byte) : RingsWithin (bar2Write off d s) := by
  unfold Machine.bar2Write
  split
  · exact h
  · dsimp only
    have h1 : RingsWithin { s with hif := (bar2Check s off d.length).1 } := h.of_same (bar2Check_rings _ _ _) rfl
    have h2 : ∀ b : Bool, RingsWithin (if b = true then
        { s with hif := setAptStatus (bar2Check s off d.length).1 2 (bar2Check s off d.length).2.1 }
      else { s with hif := (bar2Check s off d.length).1 }) := by
      intro b
      split
      · exact h1.of_same (setAptStatus_rings _ _ _) rfl
      · exact h1
    split
    · unfold guardDiscard
      dsimp only
      refine RingsWithin.run ?_ _
      exact (h2 _).of_same (by rw [setAptStatus_rings]; rfl) rfl
    · split
      · rename_i hb; have := h2 true; simpa [hb] using this
      · rename_i hb
        have := h2 false
        simp only at this ⊢
        exact this.of_same rfl rfl
/-- A reset of the controller empties every ring. -/
theorem freshState_within (s : State) : RingsWithin (freshState s) :=
  ⟨show ringUsed 0 0 ≤ 256 by decide, show ringUsed 0 0 ≤ 256 by decide, show ringUsed 0 0 ≤ 1024 by decide,
    Nat.zero_le _, Nat.zero_le _, Nat.zero_le _, Nat.zero_le _, Nat.zero_le _, rfl⟩
/-- The record of a reserved strap enters the start log only. -/
theorem RingsWithin.strap {s : State} (h : RingsWithin s) (b : BitVec 2) (c : Chip) :
    RingsWithin { s with chip := c, evt := logStrap b s.evt } := by
  unfold logStrap
  split
  · exact ⟨h.1, h.2, h.3, h.4, h.5, h.6, h.7, h.8, h.9⟩
  · exact h.chip _
theorem RingsWithin.restart (b : Bool) (s : State) : RingsWithin (restart b s) := (freshState_within s).strap _ _
theorem RingsWithin.porFall {s : State} (h : RingsWithin s) (n : Nat) : RingsWithin (porFall n s) := by
  unfold Machine.porFall
  split
  · exact h
  · exact freshState_within s
theorem RingsWithin.porRise {s : State} (h : RingsWithin s) (b : BitVec 2) (i : BitVec 3) : RingsWithin (porRise b i s) := by
  unfold Machine.porRise
  split
  · exact h
  · exact h.strap _ _
theorem RingsWithin.settleRelease {s : State} (h : RingsWithin s) (c : Chip) : RingsWithin (settleRelease c s) := by
  unfold Machine.settleRelease
  split
  · exact h.of_same rfl rfl
  · exact h
theorem RingsWithin.resetEndpoint {s : State} (h : RingsWithin s) : RingsWithin (resetEndpoint s) := h.of_same rfl rfl
theorem RingsWithin.restartWhenDown {s : State} (h : RingsWithin s) : RingsWithin (restartWhenDown s) := by
  unfold Machine.restartWhenDown
  split
  · exact .restart _ _
  · exact h
theorem RingsWithin.restartAfterUpdate {s : State} (h : RingsWithin s) : RingsWithin (restartAfterUpdate s) := by
  unfold Machine.restartAfterUpdate
  split
  · exact .restart _ _
  · exact h
theorem RingsWithin.hifResetWrite {s : State} (h : RingsWithin s) (v : U32) : RingsWithin (hifResetWrite v s) := by
  unfold Machine.hifResetWrite
  dsimp only
  split
  · exact h
  · split
    · exact .restart _ _
    · split
      · exact (h.run _).restartWhenDown
      · exact h
theorem RingsWithin.carryOn {s : State} (h : RingsWithin s) (via : Via) : RingsWithin (carryOn via s) := by
  obtain e | e | ⟨k, busy, body, e⟩ := carryOn_cases via s <;> rw [e]
  · exact h
  · exact h.unknownMessage via
  · exact h.cciCommand k busy body via
theorem RingsWithin.takeoverStep {s : State} (h : RingsWithin s) (r : TakeoverReport) : RingsWithin (takeoverStep r s) := by
  unfold Machine.takeoverStep
  dsimp only
  split
  · exact h.run _
  · split
    · exact (h.run _).carryOn _
    · exact h.run _
theorem RingsWithin.failNext {a : State} (h : RingsWithin a) (mc word : Nat) (f : ScrubFinding) (b : State) :
    RingsWithin (failNext mc word f b a) := by
  unfold Machine.failNext
  dsimp only
  split
  · exact h.chip _
  · exact h

end Sys2Proof.Machine
end

