-- ==== Sys2Proof/Laws/State.lean ====
section
/-!
SUPPORT. What each basic update of the chip does to each of its fields: one equation for each update and field.
-/

namespace Sys2Proof.Machine

section
variable (c : Chip)

/-! ### `updPort` -/

@[simp] theorem updPort_time (p : Nat) (f : Port → Port) : (updPort c p f).time = c.time := rfl
@[simp] theorem updPort_start (p : Nat) (f : Port → Port) : (updPort c p f).start = c.start := rfl
@[simp] theorem updPort_shadow (p : Nat) (f : Port → Port) : (updPort c p f).shadow = c.shadow := rfl
@[simp] theorem updPort_flash (p : Nat) (f : Port → Port) : (updPort c p f).flash = c.flash := rfl
@[simp] theorem updPort_cfg (p : Nat) (f : Port → Port) : (updPort c p f).cfg = c.cfg := rfl
@[simp] theorem updPort_sm (p : Nat) (f : Port → Port) : (updPort c p f).sm = c.sm := rfl
@[simp] theorem updPort_sysReady (p : Nat) (f : Port → Port) : (updPort c p f).sysReady = c.sysReady := rfl
@[simp] theorem updPort_porLow (p : Nat) (f : Port → Port) : (updPort c p f).porLow = c.porLow := rfl
@[simp] theorem updPort_pcie (p : Nat) (f : Port → Port) : (updPort c p f).pcie = c.pcie := rfl
@[simp] theorem updPort_cci (p : Nat) (f : Port → Port) : (updPort c p f).cci = c.cci := rfl
@[simp] theorem updPort_limits (p : Nat) (f : Port → Port) : (updPort c p f).limits = c.limits := rfl
@[simp] theorem updPort_eth (p : Nat) (f : Port → Port) : (updPort c p f).eth = c.eth := rfl
@[simp] theorem updPort_streams (p : Nat) (f : Port → Port) : (updPort c p f).streams = c.streams := rfl
@[simp] theorem updPort_decs (p : Nat) (f : Port → Port) : (updPort c p f).decs = c.decs := rfl
@[simp] theorem updPort_store (p : Nat) (f : Port → Port) : (updPort c p f).store = c.store := rfl
@[simp] theorem updPort_tables (p : Nat) (f : Port → Port) : (updPort c p f).tables = c.tables := rfl
@[simp] theorem updPort_tableGen (p : Nat) (f : Port → Port) : (updPort c p f).tableGen = c.tableGen := rfl
@[simp] theorem updPort_ports (p : Nat) (f : Port → Port) : (updPort c p f).ports = upd c.ports p f := rfl
@[simp] theorem updPort_regions (p : Nat) (f : Port → Port) : (updPort c p f).regions = c.regions := rfl
@[simp] theorem updPort_layers (p : Nat) (f : Port → Port) : (updPort c p f).layers = c.layers := rfl
@[simp] theorem updPort_surfs (p : Nat) (f : Port → Port) : (updPort c p f).surfs = c.surfs := rfl
@[simp] theorem updPort_mems (p : Nat) (f : Port → Port) : (updPort c p f).mems = c.mems := rfl
@[simp] theorem updPort_areas (p : Nat) (f : Port → Port) : (updPort c p f).areas = c.areas := rfl
@[simp] theorem updPort_mcs (p : Nat) (f : Port → Port) : (updPort c p f).mcs = c.mcs := rfl
@[simp] theorem updPort_banks (p : Nat) (f : Port → Port) : (updPort c p f).banks = c.banks := rfl
@[simp] theorem updPort_written (p : Nat) (f : Port → Port) : (updPort c p f).written = c.written := rfl
@[simp] theorem updPort_poison (p : Nat) (f : Port → Port) : (updPort c p f).poison = c.poison := rfl
@[simp] theorem updPort_crcBad (p : Nat) (f : Port → Port) : (updPort c p f).crcBad = c.crcBad := rfl
@[simp] theorem updPort_repairs (p : Nat) (f : Port → Port) : (updPort c p f).repairs = c.repairs := rfl
@[simp] theorem updPort_ram (p : Nat) (f : Port → Port) : (updPort c p f).ram = c.ram := rfl
@[simp] theorem updPort_poisonReads (p : Nat) (f : Port → Port) : (updPort c p f).poisonReads = c.poisonReads := rfl
@[simp] theorem updPort_unwrittenReads (p : Nat) (f : Port → Port) : (updPort c p f).unwrittenReads = c.unwrittenReads := rfl
@[simp] theorem updPort_linearMcs (p : Nat) (f : Port → Port) : (updPort c p f).linearMcs = c.linearMcs := rfl
@[simp] theorem updPort_movers (p : Nat) (f : Port → Port) : (updPort c p f).movers = c.movers := rfl
@[simp] theorem updPort_workRate (p : Nat) (f : Port → Port) : (updPort c p f).workRate = c.workRate := rfl
@[simp] theorem updPort_moverOut (p : Nat) (f : Port → Port) : (updPort c p f).moverOut = c.moverOut := rfl
@[simp] theorem updPort_laneUi (p : Nat) (f : Port → Port) : (updPort c p f).laneUi = c.laneUi := rfl
@[simp] theorem updPort_lanes (p : Nat) (f : Port → Port) : (updPort c p f).lanes = c.lanes := rfl
@[simp] theorem updPort_quads (p : Nat) (f : Port → Port) : (updPort c p f).quads = c.quads := rfl
@[simp] theorem updPort_drivers (p : Nat) (f : Port → Port) : (updPort c p f).drivers = c.drivers := rfl
@[simp] theorem updPort_power (p : Nat) (f : Port → Port) : (updPort c p f).power = c.power := rfl
@[simp] theorem updPort_faults (p : Nat) (f : Port → Port) : (updPort c p f).faults = c.faults := rfl
@[simp] theorem updPort_cal (p : Nat) (f : Port → Port) : (updPort c p f).cal = c.cal := rfl
@[simp] theorem updPort_perf (p : Nat) (f : Port → Port) : (updPort c p f).perf = c.perf := rfl
@[simp] theorem updPort_thermal (p : Nat) (f : Port → Port) : (updPort c p f).thermal = c.thermal := rfl
@[simp] theorem updPort_out (p : Nat) (f : Port → Port) : (updPort c p f).out = c.out := rfl
@[simp] theorem updPort_signals (p : Nat) (f : Port → Port) : (updPort c p f).signals = c.signals := rfl
@[simp] theorem updPort_free (p : Nat) (f : Port → Port) : (updPort c p f).free = c.free := rfl

/-! ### `updStream` -/

@[simp] theorem updStream_time (i : Nat) (f : Stream → Stream) : (updStream c i f).time = c.time := rfl
@[simp] theorem updStream_start (i : Nat) (f : Stream → Stream) : (updStream c i f).start = c.start := rfl
@[simp] theorem updStream_shadow (i : Nat) (f : Stream → Stream) : (updStream c i f).shadow = c.shadow := rfl
@[simp] theorem updStream_flash (i : Nat) (f : Stream → Stream) : (updStream c i f).flash = c.flash := rfl
@[simp] theorem updStream_cfg (i : Nat) (f : Stream → Stream) : (updStream c i f).cfg = c.cfg := rfl
@[simp] theorem updStream_sm (i : Nat) (f : Stream → Stream) : (updStream c i f).sm = c.sm := rfl
@[simp] theorem updStream_sysReady (i : Nat) (f : Stream → Stream) : (updStream c i f).sysReady = c.sysReady := rfl
@[simp] theorem updStream_porLow (i : Nat) (f : Stream → Stream) : (updStream c i f).porLow = c.porLow := rfl
@[simp] theorem updStream_pcie (i : Nat) (f : Stream → Stream) : (updStream c i f).pcie = c.pcie := rfl
@[simp] theorem updStream_cci (i : Nat) (f : Stream → Stream) : (updStream c i f).cci = c.cci := rfl
@[simp] theorem updStream_limits (i : Nat) (f : Stream → Stream) : (updStream c i f).limits = c.limits := rfl
@[simp] theorem updStream_eth (i : Nat) (f : Stream → Stream) : (updStream c i f).eth = c.eth := rfl
@[simp] theorem updStream_streams (i : Nat) (f : Stream → Stream) : (updStream c i f).streams = upd c.streams i f := rfl
@[simp] theorem updStream_decs (i : Nat) (f : Stream → Stream) : (updStream c i f).decs = c.decs := rfl
@[simp] theorem updStream_store (i : Nat) (f : Stream → Stream) : (updStream c i f).store = c.store := rfl
@[simp] theorem updStream_tables (i : Nat) (f : Stream → Stream) : (updStream c i f).tables = c.tables := rfl
@[simp] theorem updStream_tableGen (i : Nat) (f : Stream → Stream) : (updStream c i f).tableGen = c.tableGen := rfl
@[simp] theorem updStream_ports (i : Nat) (f : Stream → Stream) : (updStream c i f).ports = c.ports := rfl
@[simp] theorem updStream_regions (i : Nat) (f : Stream → Stream) : (updStream c i f).regions = c.regions := rfl
@[simp] theorem updStream_layers (i : Nat) (f : Stream → Stream) : (updStream c i f).layers = c.layers := rfl
@[simp] theorem updStream_surfs (i : Nat) (f : Stream → Stream) : (updStream c i f).surfs = c.surfs := rfl
@[simp] theorem updStream_mems (i : Nat) (f : Stream → Stream) : (updStream c i f).mems = c.mems := rfl
@[simp] theorem updStream_areas (i : Nat) (f : Stream → Stream) : (updStream c i f).areas = c.areas := rfl
@[simp] theorem updStream_mcs (i : Nat) (f : Stream → Stream) : (updStream c i f).mcs = c.mcs := rfl
@[simp] theorem updStream_banks (i : Nat) (f : Stream → Stream) : (updStream c i f).banks = c.banks := rfl
@[simp] theorem updStream_written (i : Nat) (f : Stream → Stream) : (updStream c i f).written = c.written := rfl
@[simp] theorem updStream_poison (i : Nat) (f : Stream → Stream) : (updStream c i f).poison = c.poison := rfl
@[simp] theorem updStream_crcBad (i : Nat) (f : Stream → Stream) : (updStream c i f).crcBad = c.crcBad := rfl
@[simp] theorem updStream_repairs (i : Nat) (f : Stream → Stream) : (updStream c i f).repairs = c.repairs := rfl
@[simp] theorem updStream_ram (i : Nat) (f : Stream → Stream) : (updStream c i f).ram = c.ram := rfl
@[simp] theorem updStream_poisonReads (i : Nat) (f : Stream → Stream) : (updStream c i f).poisonReads = c.poisonReads := rfl
@[simp] theorem updStream_unwrittenReads (i : Nat) (f : Stream → Stream) : (updStream c i f).unwrittenReads = c.unwrittenReads := rfl
@[simp] theorem updStream_linearMcs (i : Nat) (f : Stream → Stream) : (updStream c i f).linearMcs = c.linearMcs := rfl
@[simp] theorem updStream_movers (i : Nat) (f : Stream → Stream) : (updStream c i f).movers = c.movers := rfl
@[simp] theorem updStream_workRate (i : Nat) (f : Stream → Stream) : (updStream c i f).workRate = c.workRate := rfl
@[simp] theorem updStream_moverOut (i : Nat) (f : Stream → Stream) : (updStream c i f).moverOut = c.moverOut := rfl
@[simp] theorem updStream_laneUi (i : Nat) (f : Stream → Stream) : (updStream c i f).laneUi = c.laneUi := rfl
@[simp] theorem updStream_lanes (i : Nat) (f : Stream → Stream) : (updStream c i f).lanes = c.lanes := rfl
@[simp] theorem updStream_quads (i : Nat) (f : Stream → Stream) : (updStream c i f).quads = c.quads := rfl
@[simp] theorem updStream_drivers (i : Nat) (f : Stream → Stream) : (updStream c i f).drivers = c.drivers := rfl
@[simp] theorem updStream_power (i : Nat) (f : Stream → Stream) : (updStream c i f).power = c.power := rfl
@[simp] theorem updStream_faults (i : Nat) (f : Stream → Stream) : (updStream c i f).faults = c.faults := rfl
@[simp] theorem updStream_cal (i : Nat) (f : Stream → Stream) : (updStream c i f).cal = c.cal := rfl
@[simp] theorem updStream_perf (i : Nat) (f : Stream → Stream) : (updStream c i f).perf = c.perf := rfl
@[simp] theorem updStream_thermal (i : Nat) (f : Stream → Stream) : (updStream c i f).thermal = c.thermal := rfl
@[simp] theorem updStream_out (i : Nat) (f : Stream → Stream) : (updStream c i f).out = c.out := rfl
@[simp] theorem updStream_signals (i : Nat) (f : Stream → Stream) : (updStream c i f).signals = c.signals := rfl
@[simp] theorem updStream_free (i : Nat) (f : Stream → Stream) : (updStream c i f).free = c.free := rfl

/-! ### `updLane` -/

@[simp] theorem updLane_time (i : Nat) (f : Lane → Lane) : (updLane c i f).time = c.time := rfl
@[simp] theorem updLane_start (i : Nat) (f : Lane → Lane) : (updLane c i f).start = c.start := rfl
@[simp] theorem updLane_shadow (i : Nat) (f : Lane → Lane) : (updLane c i f).shadow = c.shadow := rfl
@[simp] theorem updLane_flash (i : Nat) (f : Lane → Lane) : (updLane c i f).flash = c.flash := rfl
@[simp] theorem updLane_cfg (i : Nat) (f : Lane → Lane) : (updLane c i f).cfg = c.cfg := rfl
@[simp] theorem updLane_sm (i : Nat) (f : Lane → Lane) : (updLane c i f).sm = c.sm := rfl
@[simp] theorem updLane_sysReady (i : Nat) (f : Lane → Lane) : (updLane c i f).sysReady = c.sysReady := rfl
@[simp] theorem updLane_porLow (i : Nat) (f : Lane → Lane) : (updLane c i f).porLow = c.porLow := rfl
@[simp] theorem updLane_pcie (i : Nat) (f : Lane → Lane) : (updLane c i f).pcie = c.pcie := rfl
@[simp] theorem updLane_cci (i : Nat) (f : Lane → Lane) : (updLane c i f).cci = c.cci := rfl
@[simp] theorem updLane_limits (i : Nat) (f : Lane → Lane) : (updLane c i f).limits = c.limits := rfl
@[simp] theorem updLane_eth (i : Nat) (f : Lane → Lane) : (updLane c i f).eth = c.eth := rfl
@[simp] theorem updLane_streams (i : Nat) (f : Lane → Lane) : (updLane c i f).streams = c.streams := rfl
@[simp] theorem updLane_decs (i : Nat) (f : Lane → Lane) : (updLane c i f).decs = c.decs := rfl
@[simp] theorem updLane_store (i : Nat) (f : Lane → Lane) : (updLane c i f).store = c.store := rfl
@[simp] theorem updLane_tables (i : Nat) (f : Lane → Lane) : (updLane c i f).tables = c.tables := rfl
@[simp] theorem updLane_tableGen (i : Nat) (f : Lane → Lane) : (updLane c i f).tableGen = c.tableGen := rfl
@[simp] theorem updLane_ports (i : Nat) (f : Lane → Lane) : (updLane c i f).ports = c.ports := rfl
@[simp] theorem updLane_regions (i : Nat) (f : Lane → Lane) : (updLane c i f).regions = c.regions := rfl
@[simp] theorem updLane_layers (i : Nat) (f : Lane → Lane) : (updLane c i f).layers = c.layers := rfl
@[simp] theorem updLane_surfs (i : Nat) (f : Lane → Lane) : (updLane c i f).surfs = c.surfs := rfl
@[simp] theorem updLane_mems (i : Nat) (f : Lane → Lane) : (updLane c i f).mems = c.mems := rfl
@[simp] theorem updLane_areas (i : Nat) (f : Lane → Lane) : (updLane c i f).areas = c.areas := rfl
@[simp] theorem updLane_mcs (i : Nat) (f : Lane → Lane) : (updLane c i f).mcs = c.mcs := rfl
@[simp] theorem updLane_banks (i : Nat) (f : Lane → Lane) : (updLane c i f).banks = c.banks := rfl
@[simp] theorem updLane_written (i : Nat) (f : Lane → Lane) : (updLane c i f).written = c.written := rfl
@[simp] theorem updLane_poison (i : Nat) (f : Lane → Lane) : (updLane c i f).poison = c.poison := rfl
@[simp] theorem updLane_crcBad (i : Nat) (f : Lane → Lane) : (updLane c i f).crcBad = c.crcBad := rfl
@[simp] theorem updLane_repairs (i : Nat) (f : Lane → Lane) : (updLane c i f).repairs = c.repairs := rfl
@[simp] theorem updLane_ram (i : Nat) (f : Lane → Lane) : (updLane c i f).ram = c.ram := rfl
@[simp] theorem updLane_poisonReads (i : Nat) (f : Lane → Lane) : (updLane c i f).poisonReads = c.poisonReads := rfl
@[simp] theorem updLane_unwrittenReads (i : Nat) (f : Lane → Lane) : (updLane c i f).unwrittenReads = c.unwrittenReads := rfl
@[simp] theorem updLane_linearMcs (i : Nat) (f : Lane → Lane) : (updLane c i f).linearMcs = c.linearMcs := rfl
@[simp] theorem updLane_movers (i : Nat) (f : Lane → Lane) : (updLane c i f).movers = c.movers := rfl
@[simp] theorem updLane_workRate (i : Nat) (f : Lane → Lane) : (updLane c i f).workRate = c.workRate := rfl
@[simp] theorem updLane_moverOut (i : Nat) (f : Lane → Lane) : (updLane c i f).moverOut = c.moverOut := rfl
@[simp] theorem updLane_laneUi (i : Nat) (f : Lane → Lane) : (updLane c i f).laneUi = c.laneUi := rfl
@[simp] theorem updLane_lanes (i : Nat) (f : Lane → Lane) : (updLane c i f).lanes = upd c.lanes i f := rfl
@[simp] theorem updLane_quads (i : Nat) (f : Lane → Lane) : (updLane c i f).quads = c.quads := rfl
@[simp] theorem updLane_drivers (i : Nat) (f : Lane → Lane) : (updLane c i f).drivers = c.drivers := rfl
@[simp] theorem updLane_power (i : Nat) (f : Lane → Lane) : (updLane c i f).power = c.power := rfl
@[simp] theorem updLane_faults (i : Nat) (f : Lane → Lane) : (updLane c i f).faults = c.faults := rfl
@[simp] theorem updLane_cal (i : Nat) (f : Lane → Lane) : (updLane c i f).cal = c.cal := rfl
@[simp] theorem updLane_perf (i : Nat) (f : Lane → Lane) : (updLane c i f).perf = c.perf := rfl
@[simp] theorem updLane_thermal (i : Nat) (f : Lane → Lane) : (updLane c i f).thermal = c.thermal := rfl
@[simp] theorem updLane_out (i : Nat) (f : Lane → Lane) : (updLane c i f).out = c.out := rfl
@[simp] theorem updLane_signals (i : Nat) (f : Lane → Lane) : (updLane c i f).signals = c.signals := rfl
@[simp] theorem updLane_free (i : Nat) (f : Lane → Lane) : (updLane c i f).free = c.free := rfl

/-! ### `updQuad` -/

@[simp] theorem updQuad_time (i : Nat) (f : Quad → Quad) : (updQuad c i f).time = c.time := rfl
@[simp] theorem updQuad_start (i : Nat) (f : Quad → Quad) : (updQuad c i f).start = c.start := rfl
@[simp] theorem updQuad_shadow (i : Nat) (f : Quad → Quad) : (updQuad c i f).shadow = c.shadow := rfl
@[simp] theorem updQuad_flash (i : Nat) (f : Quad → Quad) : (updQuad c i f).flash = c.flash := rfl
@[simp] theorem updQuad_cfg (i : Nat) (f : Quad → Quad) : (updQuad c i f).cfg = c.cfg := rfl
@[simp] theorem updQuad_sm (i : Nat) (f : Quad → Quad) : (updQuad c i f).sm = c.sm := rfl
@[simp] theorem updQuad_sysReady (i : Nat) (f : Quad → Quad) : (updQuad c i f).sysReady = c.sysReady := rfl
@[simp] theorem updQuad_porLow (i : Nat) (f : Quad → Quad) : (updQuad c i f).porLow = c.porLow := rfl
@[simp] theorem updQuad_pcie (i : Nat) (f : Quad → Quad) : (updQuad c i f).pcie = c.pcie := rfl
@[simp] theorem updQuad_cci (i : Nat) (f : Quad → Quad) : (updQuad c i f).cci = c.cci := rfl
@[simp] theorem updQuad_limits (i : Nat) (f : Quad → Quad) : (updQuad c i f).limits = c.limits := rfl
@[simp] theorem updQuad_eth (i : Nat) (f : Quad → Quad) : (updQuad c i f).eth = c.eth := rfl
@[simp] theorem updQuad_streams (i : Nat) (f : Quad → Quad) : (updQuad c i f).streams = c.streams := rfl
@[simp] theorem updQuad_decs (i : Nat) (f : Quad → Quad) : (updQuad c i f).decs = c.decs := rfl
@[simp] theorem updQuad_store (i : Nat) (f : Quad → Quad) : (updQuad c i f).store = c.store := rfl
@[simp] theorem updQuad_tables (i : Nat) (f : Quad → Quad) : (updQuad c i f).tables = c.tables := rfl
@[simp] theorem updQuad_tableGen (i : Nat) (f : Quad → Quad) : (updQuad c i f).tableGen = c.tableGen := rfl
@[simp] theorem updQuad_ports (i : Nat) (f : Quad → Quad) : (updQuad c i f).ports = c.ports := rfl
@[simp] theorem updQuad_regions (i : Nat) (f : Quad → Quad) : (updQuad c i f).regions = c.regions := rfl
@[simp] theorem updQuad_layers (i : Nat) (f : Quad → Quad) : (updQuad c i f).layers = c.layers := rfl
@[simp] theorem updQuad_surfs (i : Nat) (f : Quad → Quad) : (updQuad c i f).surfs = c.surfs := rfl
@[simp] theorem updQuad_mems (i : Nat) (f : Quad → Quad) : (updQuad c i f).mems = c.mems := rfl
@[simp] theorem updQuad_areas (i : Nat) (f : Quad → Quad) : (updQuad c i f).areas = c.areas := rfl
@[simp] theorem updQuad_mcs (i : Nat) (f : Quad → Quad) : (updQuad c i f).mcs = c.mcs := rfl
@[simp] theorem updQuad_banks (i : Nat) (f : Quad → Quad) : (updQuad c i f).banks = c.banks := rfl
@[simp] theorem updQuad_written (i : Nat) (f : Quad → Quad) : (updQuad c i f).written = c.written := rfl
@[simp] theorem updQuad_poison (i : Nat) (f : Quad → Quad) : (updQuad c i f).poison = c.poison := rfl
@[simp] theorem updQuad_crcBad (i : Nat) (f : Quad → Quad) : (updQuad c i f).crcBad = c.crcBad := rfl
@[simp] theorem updQuad_repairs (i : Nat) (f : Quad → Quad) : (updQuad c i f).repairs = c.repairs := rfl
@[simp] theorem updQuad_ram (i : Nat) (f : Quad → Quad) : (updQuad c i f).ram = c.ram := rfl
@[simp] theorem updQuad_poisonReads (i : Nat) (f : Quad → Quad) : (updQuad c i f).poisonReads = c.poisonReads := rfl
@[simp] theorem updQuad_unwrittenReads (i : Nat) (f : Quad → Quad) : (updQuad c i f).unwrittenReads = c.unwrittenReads := rfl
@[simp] theorem updQuad_linearMcs (i : Nat) (f : Quad → Quad) : (updQuad c i f).linearMcs = c.linearMcs := rfl
@[simp] theorem updQuad_movers (i : Nat) (f : Quad → Quad) : (updQuad c i f).movers = c.movers := rfl
@[simp] theorem updQuad_workRate (i : Nat) (f : Quad → Quad) : (updQuad c i f).workRate = c.workRate := rfl
@[simp] theorem updQuad_moverOut (i : Nat) (f : Quad → Quad) : (updQuad c i f).moverOut = c.moverOut := rfl
@[simp] theorem updQuad_laneUi (i : Nat) (f : Quad → Quad) : (updQuad c i f).laneUi = c.laneUi := rfl
@[simp] theorem updQuad_lanes (i : Nat) (f : Quad → Quad) : (updQuad c i f).lanes = c.lanes := rfl
@[simp] theorem updQuad_quads (i : Nat) (f : Quad → Quad) : (updQuad c i f).quads = upd c.quads i f := rfl
@[simp] theorem updQuad_drivers (i : Nat) (f : Quad → Quad) : (updQuad c i f).drivers = c.drivers := rfl
@[simp] theorem updQuad_power (i : Nat) (f : Quad → Quad) : (updQuad c i f).power = c.power := rfl
@[simp] theorem updQuad_faults (i : Nat) (f : Quad → Quad) : (updQuad c i f).faults = c.faults := rfl
@[simp] theorem updQuad_cal (i : Nat) (f : Quad → Quad) : (updQuad c i f).cal = c.cal := rfl
@[simp] theorem updQuad_perf (i : Nat) (f : Quad → Quad) : (updQuad c i f).perf = c.perf := rfl
@[simp] theorem updQuad_thermal (i : Nat) (f : Quad → Quad) : (updQuad c i f).thermal = c.thermal := rfl
@[simp] theorem updQuad_out (i : Nat) (f : Quad → Quad) : (updQuad c i f).out = c.out := rfl
@[simp] theorem updQuad_signals (i : Nat) (f : Quad → Quad) : (updQuad c i f).signals = c.signals := rfl
@[simp] theorem updQuad_free (i : Nat) (f : Quad → Quad) : (updQuad c i f).free = c.free := rfl

/-! ### `updMc` -/

@[simp] theorem updMc_time (i : Nat) (f : Mc → Mc) : (updMc c i f).time = c.time := rfl
@[simp] theorem updMc_start (i : Nat) (f : Mc → Mc) : (updMc c i f).start = c.start := rfl
@[simp] theorem updMc_shadow (i : Nat) (f : Mc → Mc) : (updMc c i f).shadow = c.shadow := rfl
@[simp] theorem updMc_flash (i : Nat) (f : Mc → Mc) : (updMc c i f).flash = c.flash := rfl
@[simp] theorem updMc_cfg (i : Nat) (f : Mc → Mc) : (updMc c i f).cfg = c.cfg := rfl
@[simp] theorem updMc_sm (i : Nat) (f : Mc → Mc) : (updMc c i f).sm = c.sm := rfl
@[simp] theorem updMc_sysReady (i : Nat) (f : Mc → Mc) : (updMc c i f).sysReady = c.sysReady := rfl
@[simp] theorem updMc_porLow (i : Nat) (f : Mc → Mc) : (updMc c i f).porLow = c.porLow := rfl
@[simp] theorem updMc_pcie (i : Nat) (f : Mc → Mc) : (updMc c i f).pcie = c.pcie := rfl
@[simp] theorem updMc_cci (i : Nat) (f : Mc → Mc) : (updMc c i f).cci = c.cci := rfl
@[simp] theorem updMc_limits (i : Nat) (f : Mc → Mc) : (updMc c i f).limits = c.limits := rfl
@[simp] theorem updMc_eth (i : Nat) (f : Mc → Mc) : (updMc c i f).eth = c.eth := rfl
@[simp] theorem updMc_streams (i : Nat) (f : Mc → Mc) : (updMc c i f).streams = c.streams := rfl
@[simp] theorem updMc_decs (i : Nat) (f : Mc → Mc) : (updMc c i f).decs = c.decs := rfl
@[simp] theorem updMc_store (i : Nat) (f : Mc → Mc) : (updMc c i f).store = c.store := rfl
@[simp] theorem updMc_tables (i : Nat) (f : Mc → Mc) : (updMc c i f).tables = c.tables := rfl
@[simp] theorem updMc_tableGen (i : Nat) (f : Mc → Mc) : (updMc c i f).tableGen = c.tableGen := rfl
@[simp] theorem updMc_ports (i : Nat) (f : Mc → Mc) : (updMc c i f).ports = c.ports := rfl
@[simp] theorem updMc_regions (i : Nat) (f : Mc → Mc) : (updMc c i f).regions = c.regions := rfl
@[simp] theorem updMc_layers (i : Nat) (f : Mc → Mc) : (updMc c i f).layers = c.layers := rfl
@[simp] theorem updMc_surfs (i : Nat) (f : Mc → Mc) : (updMc c i f).surfs = c.surfs := rfl
@[simp] theorem updMc_mems (i : Nat) (f : Mc → Mc) : (updMc c i f).mems = c.mems := rfl
@[simp] theorem updMc_areas (i : Nat) (f : Mc → Mc) : (updMc c i f).areas = c.areas := rfl
@[simp] theorem updMc_mcs (i : Nat) (f : Mc → Mc) : (updMc c i f).mcs = upd c.mcs i f := rfl
@[simp] theorem updMc_banks (i : Nat) (f : Mc → Mc) : (updMc c i f).banks = c.banks := rfl
@[simp] theorem updMc_written (i : Nat) (f : Mc → Mc) : (updMc c i f).written = c.written := rfl
@[simp] theorem updMc_poison (i : Nat) (f : Mc → Mc) : (updMc c i f).poison = c.poison := rfl
@[simp] theorem updMc_crcBad (i : Nat) (f : Mc → Mc) : (updMc c i f).crcBad = c.crcBad := rfl
@[simp] theorem updMc_repairs (i : Nat) (f : Mc → Mc) : (updMc c i f).repairs = c.repairs := rfl
@[simp] theorem updMc_ram (i : Nat) (f : Mc → Mc) : (updMc c i f).ram = c.ram := rfl
@[simp] theorem updMc_poisonReads (i : Nat) (f : Mc → Mc) : (updMc c i f).poisonReads = c.poisonReads := rfl
@[simp] theorem updMc_unwrittenReads (i : Nat) (f : Mc → Mc) : (updMc c i f).unwrittenReads = c.unwrittenReads := rfl
@[simp] theorem updMc_linearMcs (i : Nat) (f : Mc → Mc) : (updMc c i f).linearMcs = c.linearMcs := rfl
@[simp] theorem updMc_movers (i : Nat) (f : Mc → Mc) : (updMc c i f).movers = c.movers := rfl
@[simp] theorem updMc_workRate (i : Nat) (f : Mc → Mc) : (updMc c i f).workRate = c.workRate := rfl
@[simp] theorem updMc_moverOut (i : Nat) (f : Mc → Mc) : (updMc c i f).moverOut = c.moverOut := rfl
@[simp] theorem updMc_laneUi (i : Nat) (f : Mc → Mc) : (updMc c i f).laneUi = c.laneUi := rfl
@[simp] theorem updMc_lanes (i : Nat) (f : Mc → Mc) : (updMc c i f).lanes = c.lanes := rfl
@[simp] theorem updMc_quads (i : Nat) (f : Mc → Mc) : (updMc c i f).quads = c.quads := rfl
@[simp] theorem updMc_drivers (i : Nat) (f : Mc → Mc) : (updMc c i f).drivers = c.drivers := rfl
@[simp] theorem updMc_power (i : Nat) (f : Mc → Mc) : (updMc c i f).power = c.power := rfl
@[simp] theorem updMc_faults (i : Nat) (f : Mc → Mc) : (updMc c i f).faults = c.faults := rfl
@[simp] theorem updMc_cal (i : Nat) (f : Mc → Mc) : (updMc c i f).cal = c.cal := rfl
@[simp] theorem updMc_perf (i : Nat) (f : Mc → Mc) : (updMc c i f).perf = c.perf := rfl
@[simp] theorem updMc_thermal (i : Nat) (f : Mc → Mc) : (updMc c i f).thermal = c.thermal := rfl
@[simp] theorem updMc_out (i : Nat) (f : Mc → Mc) : (updMc c i f).out = c.out := rfl
@[simp] theorem updMc_signals (i : Nat) (f : Mc → Mc) : (updMc c i f).signals = c.signals := rfl
@[simp] theorem updMc_free (i : Nat) (f : Mc → Mc) : (updMc c i f).free = c.free := rfl

/-! ### `updLayer` -/

@[simp] theorem updLayer_time (i : Nat) (f : Layer → Layer) : (updLayer c i f).time = c.time := rfl
@[simp] theorem updLayer_start (i : Nat) (f : Layer → Layer) : (updLayer c i f).start = c.start := rfl
@[simp] theorem updLayer_shadow (i : Nat) (f : Layer → Layer) : (updLayer c i f).shadow = c.shadow := rfl
@[simp] theorem updLayer_flash (i : Nat) (f : Layer → Layer) : (updLayer c i f).flash = c.flash := rfl
@[simp] theorem updLayer_cfg (i : Nat) (f : Layer → Layer) : (updLayer c i f).cfg = c.cfg := rfl
@[simp] theorem updLayer_sm (i : Nat) (f : Layer → Layer) : (updLayer c i f).sm = c.sm := rfl
@[simp] theorem updLayer_sysReady (i : Nat) (f : Layer → Layer) : (updLayer c i f).sysReady = c.sysReady := rfl
@[simp] theorem updLayer_porLow (i : Nat) (f : Layer → Layer) : (updLayer c i f).porLow = c.porLow := rfl
@[simp] theorem updLayer_pcie (i : Nat) (f : Layer → Layer) : (updLayer c i f).pcie = c.pcie := rfl
@[simp] theorem updLayer_cci (i : Nat) (f : Layer → Layer) : (updLayer c i f).cci = c.cci := rfl
@[simp] theorem updLayer_limits (i : Nat) (f : Layer → Layer) : (updLayer c i f).limits = c.limits := rfl
@[simp] theorem updLayer_eth (i : Nat) (f : Layer → Layer) : (updLayer c i f).eth = c.eth := rfl
@[simp] theorem updLayer_streams (i : Nat) (f : Layer → Layer) : (updLayer c i f).streams = c.streams := rfl
@[simp] theorem updLayer_decs (i : Nat) (f : Layer → Layer) : (updLayer c i f).decs = c.decs := rfl
@[simp] theorem updLayer_store (i : Nat) (f : Layer → Layer) : (updLayer c i f).store = c.store := rfl
@[simp] theorem updLayer_tables (i : Nat) (f : Layer → Layer) : (updLayer c i f).tables = c.tables := rfl
@[simp] theorem updLayer_tableGen (i : Nat) (f : Layer → Layer) : (updLayer c i f).tableGen = c.tableGen := rfl
@[simp] theorem updLayer_ports (i : Nat) (f : Layer → Layer) : (updLayer c i f).ports = c.ports := rfl
@[simp] theorem updLayer_regions (i : Nat) (f : Layer → Layer) : (updLayer c i f).regions = c.regions := rfl
@[simp] theorem updLayer_layers (i : Nat) (f : Layer → Layer) : (updLayer c i f).layers = upd c.layers i f := rfl
@[simp] theorem updLayer_surfs (i : Nat) (f : Layer → Layer) : (updLayer c i f).surfs = c.surfs := rfl
@[simp] theorem updLayer_mems (i : Nat) (f : Layer → Layer) : (updLayer c i f).mems = c.mems := rfl
@[simp] theorem updLayer_areas (i : Nat) (f : Layer → Layer) : (updLayer c i f).areas = c.areas := rfl
@[simp] theorem updLayer_mcs (i : Nat) (f : Layer → Layer) : (updLayer c i f).mcs = c.mcs := rfl
@[simp] theorem updLayer_banks (i : Nat) (f : Layer → Layer) : (updLayer c i f).banks = c.banks := rfl
@[simp] theorem updLayer_written (i : Nat) (f : Layer → Layer) : (updLayer c i f).written = c.written := rfl
@[simp] theorem updLayer_poison (i : Nat) (f : Layer → Layer) : (updLayer c i f).poison = c.poison := rfl
@[simp] theorem updLayer_crcBad (i : Nat) (f : Layer → Layer) : (updLayer c i f).crcBad = c.crcBad := rfl
@[simp] theorem updLayer_repairs (i : Nat) (f : Layer → Layer) : (updLayer c i f).repairs = c.repairs := rfl
@[simp] theorem updLayer_ram (i : Nat) (f : Layer → Layer) : (updLayer c i f).ram = c.ram := rfl
@[simp] theorem updLayer_poisonReads (i : Nat) (f : Layer → Layer) : (updLayer c i f).poisonReads = c.poisonReads := rfl
@[simp] theorem updLayer_unwrittenReads (i : Nat) (f : Layer → Layer) : (updLayer c i f).unwrittenReads = c.unwrittenReads := rfl
@[simp] theorem updLayer_linearMcs (i : Nat) (f : Layer → Layer) : (updLayer c i f).linearMcs = c.linearMcs := rfl
@[simp] theorem updLayer_movers (i : Nat) (f : Layer → Layer) : (updLayer c i f).movers = c.movers := rfl
@[simp] theorem updLayer_workRate (i : Nat) (f : Layer → Layer) : (updLayer c i f).workRate = c.workRate := rfl
@[simp] theorem updLayer_moverOut (i : Nat) (f : Layer → Layer) : (updLayer c i f).moverOut = c.moverOut := rfl
@[simp] theorem updLayer_laneUi (i : Nat) (f : Layer → Layer) : (updLayer c i f).laneUi = c.laneUi := rfl
@[simp] theorem updLayer_lanes (i : Nat) (f : Layer → Layer) : (updLayer c i f).lanes = c.lanes := rfl
@[simp] theorem updLayer_quads (i : Nat) (f : Layer → Layer) : (updLayer c i f).quads = c.quads := rfl
@[simp] theorem updLayer_drivers (i : Nat) (f : Layer → Layer) : (updLayer c i f).drivers = c.drivers := rfl
@[simp] theorem updLayer_power (i : Nat) (f : Layer → Layer) : (updLayer c i f).power = c.power := rfl
@[simp] theorem updLayer_faults (i : Nat) (f : Layer → Layer) : (updLayer c i f).faults = c.faults := rfl
@[simp] theorem updLayer_cal (i : Nat) (f : Layer → Layer) : (updLayer c i f).cal = c.cal := rfl
@[simp] theorem updLayer_perf (i : Nat) (f : Layer → Layer) : (updLayer c i f).perf = c.perf := rfl
@[simp] theorem updLayer_thermal (i : Nat) (f : Layer → Layer) : (updLayer c i f).thermal = c.thermal := rfl
@[simp] theorem updLayer_out (i : Nat) (f : Layer → Layer) : (updLayer c i f).out = c.out := rfl
@[simp] theorem updLayer_signals (i : Nat) (f : Layer → Layer) : (updLayer c i f).signals = c.signals := rfl
@[simp] theorem updLayer_free (i : Nat) (f : Layer → Layer) : (updLayer c i f).free = c.free := rfl

/-! ### `updRegion` -/

@[simp] theorem updRegion_time (i : Nat) (f : Region → Region) : (updRegion c i f).time = c.time := rfl
@[simp] theorem updRegion_start (i : Nat) (f : Region → Region) : (updRegion c i f).start = c.start := rfl
@[simp] theorem updRegion_shadow (i : Nat) (f : Region → Region) : (updRegion c i f).shadow = c.shadow := rfl
@[simp] theorem updRegion_flash (i : Nat) (f : Region → Region) : (updRegion c i f).flash = c.flash := rfl
@[simp] theorem updRegion_cfg (i : Nat) (f : Region → Region) : (updRegion c i f).cfg = c.cfg := rfl
@[simp] theorem updRegion_sm (i : Nat) (f : Region → Region) : (updRegion c i f).sm = c.sm := rfl
@[simp] theorem updRegion_sysReady (i : Nat) (f : Region → Region) : (updRegion c i f).sysReady = c.sysReady := rfl
@[simp] theorem updRegion_porLow (i : Nat) (f : Region → Region) : (updRegion c i f).porLow = c.porLow := rfl
@[simp] theorem updRegion_pcie (i : Nat) (f : Region → Region) : (updRegion c i f).pcie = c.pcie := rfl
@[simp] theorem updRegion_cci (i : Nat) (f : Region → Region) : (updRegion c i f).cci = c.cci := rfl
@[simp] theorem updRegion_limits (i : Nat) (f : Region → Region) : (updRegion c i f).limits = c.limits := rfl
@[simp] theorem updRegion_eth (i : Nat) (f : Region → Region) : (updRegion c i f).eth = c.eth := rfl
@[simp] theorem updRegion_streams (i : Nat) (f : Region → Region) : (updRegion c i f).streams = c.streams := rfl
@[simp] theorem updRegion_decs (i : Nat) (f : Region → Region) : (updRegion c i f).decs = c.decs := rfl
@[simp] theorem updRegion_store (i : Nat) (f : Region → Region) : (updRegion c i f).store = c.store := rfl
@[simp] theorem updRegion_tables (i : Nat) (f : Region → Region) : (updRegion c i f).tables = c.tables := rfl
@[simp] theorem updRegion_tableGen (i : Nat) (f : Region → Region) : (updRegion c i f).tableGen = c.tableGen := rfl
@[simp] theorem updRegion_ports (i : Nat) (f : Region → Region) : (updRegion c i f).ports = c.ports := rfl
@[simp] theorem updRegion_regions (i : Nat) (f : Region → Region) : (updRegion c i f).regions = upd c.regions i f := rfl
@[simp] theorem updRegion_layers (i : Nat) (f : Region → Region) : (updRegion c i f).layers = c.layers := rfl
@[simp] theorem updRegion_surfs (i : Nat) (f : Region → Region) : (updRegion c i f).surfs = c.surfs := rfl
@[simp] theorem updRegion_mems (i : Nat) (f : Region → Region) : (updRegion c i f).mems = c.mems := rfl
@[simp] theorem updRegion_areas (i : Nat) (f : Region → Region) : (updRegion c i f).areas = c.areas := rfl
@[simp] theorem updRegion_mcs (i : Nat) (f : Region → Region) : (updRegion c i f).mcs = c.mcs := rfl
@[simp] theorem updRegion_banks (i : Nat) (f : Region → Region) : (updRegion c i f).banks = c.banks := rfl
@[simp] theorem updRegion_written (i : Nat) (f : Region → Region) : (updRegion c i f).written = c.written := rfl
@[simp] theorem updRegion_poison (i : Nat) (f : Region → Region) : (updRegion c i f).poison = c.poison := rfl
@[simp] theorem updRegion_crcBad (i : Nat) (f : Region → Region) : (updRegion c i f).crcBad = c.crcBad := rfl
@[simp] theorem updRegion_repairs (i : Nat) (f : Region → Region) : (updRegion c i f).repairs = c.repairs := rfl
@[simp] theorem updRegion_ram (i : Nat) (f : Region → Region) : (updRegion c i f).ram = c.ram := rfl
@[simp] theorem updRegion_poisonReads (i : Nat) (f : Region → Region) : (updRegion c i f).poisonReads = c.poisonReads := rfl
@[simp] theorem updRegion_unwrittenReads (i : Nat) (f : Region → Region) : (updRegion c i f).unwrittenReads = c.unwrittenReads := rfl
@[simp] theorem updRegion_linearMcs (i : Nat) (f : Region → Region) : (updRegion c i f).linearMcs = c.linearMcs := rfl
@[simp] theorem updRegion_movers (i : Nat) (f : Region → Region) : (updRegion c i f).movers = c.movers := rfl
@[simp] theorem updRegion_workRate (i : Nat) (f : Region → Region) : (updRegion c i f).workRate = c.workRate := rfl
@[simp] theorem updRegion_moverOut (i : Nat) (f : Region → Region) : (updRegion c i f).moverOut = c.moverOut := rfl
@[simp] theorem updRegion_laneUi (i : Nat) (f : Region → Region) : (updRegion c i f).laneUi = c.laneUi := rfl
@[simp] theorem updRegion_lanes (i : Nat) (f : Region → Region) : (updRegion c i f).lanes = c.lanes := rfl
@[simp] theorem updRegion_quads (i : Nat) (f : Region → Region) : (updRegion c i f).quads = c.quads := rfl
@[simp] theorem updRegion_drivers (i : Nat) (f : Region → Region) : (updRegion c i f).drivers = c.drivers := rfl
@[simp] theorem updRegion_power (i : Nat) (f : Region → Region) : (updRegion c i f).power = c.power := rfl
@[simp] theorem updRegion_faults (i : Nat) (f : Region → Region) : (updRegion c i f).faults = c.faults := rfl
@[simp] theorem updRegion_cal (i : Nat) (f : Region → Region) : (updRegion c i f).cal = c.cal := rfl
@[simp] theorem updRegion_perf (i : Nat) (f : Region → Region) : (updRegion c i f).perf = c.perf := rfl
@[simp] theorem updRegion_thermal (i : Nat) (f : Region → Region) : (updRegion c i f).thermal = c.thermal := rfl
@[simp] theorem updRegion_out (i : Nat) (f : Region → Region) : (updRegion c i f).out = c.out := rfl
@[simp] theorem updRegion_signals (i : Nat) (f : Region → Region) : (updRegion c i f).signals = c.signals := rfl
@[simp] theorem updRegion_free (i : Nat) (f : Region → Region) : (updRegion c i f).free = c.free := rfl

/-! ### `updSurface` -/

@[simp] theorem updSurface_time (i : Nat) (f : Surface → Surface) : (updSurface c i f).time = c.time := rfl
@[simp] theorem updSurface_start (i : Nat) (f : Surface → Surface) : (updSurface c i f).start = c.start := rfl
@[simp] theorem updSurface_shadow (i : Nat) (f : Surface → Surface) : (updSurface c i f).shadow = c.shadow := rfl
@[simp] theorem updSurface_flash (i : Nat) (f : Surface → Surface) : (updSurface c i f).flash = c.flash := rfl
@[simp] theorem updSurface_cfg (i : Nat) (f : Surface → Surface) : (updSurface c i f).cfg = c.cfg := rfl
@[simp] theorem updSurface_sm (i : Nat) (f : Surface → Surface) : (updSurface c i f).sm = c.sm := rfl
@[simp] theorem updSurface_sysReady (i : Nat) (f : Surface → Surface) : (updSurface c i f).sysReady = c.sysReady := rfl
@[simp] theorem updSurface_porLow (i : Nat) (f : Surface → Surface) : (updSurface c i f).porLow = c.porLow := rfl
@[simp] theorem updSurface_pcie (i : Nat) (f : Surface → Surface) : (updSurface c i f).pcie = c.pcie := rfl
@[simp] theorem updSurface_cci (i : Nat) (f : Surface → Surface) : (updSurface c i f).cci = c.cci := rfl
@[simp] theorem updSurface_limits (i : Nat) (f : Surface → Surface) : (updSurface c i f).limits = c.limits := rfl
@[simp] theorem updSurface_eth (i : Nat) (f : Surface → Surface) : (updSurface c i f).eth = c.eth := rfl
@[simp] theorem updSurface_streams (i : Nat) (f : Surface → Surface) : (updSurface c i f).streams = c.streams := rfl
@[simp] theorem updSurface_decs (i : Nat) (f : Surface → Surface) : (updSurface c i f).decs = c.decs := rfl
@[simp] theorem updSurface_store (i : Nat) (f : Surface → Surface) : (updSurface c i f).store = c.store := rfl
@[simp] theorem updSurface_tables (i : Nat) (f : Surface → Surface) : (updSurface c i f).tables = c.tables := rfl
@[simp] theorem updSurface_tableGen (i : Nat) (f : Surface → Surface) : (updSurface c i f).tableGen = c.tableGen := rfl
@[simp] theorem updSurface_ports (i : Nat) (f : Surface → Surface) : (updSurface c i f).ports = c.ports := rfl
@[simp] theorem updSurface_regions (i : Nat) (f : Surface → Surface) : (updSurface c i f).regions = c.regions := rfl
@[simp] theorem updSurface_layers (i : Nat) (f : Surface → Surface) : (updSurface c i f).layers = c.layers := rfl
@[simp] theorem updSurface_surfs (i : Nat) (f : Surface → Surface) : (updSurface c i f).surfs = c.surfs.map (fun x => if x.id = i then f x else x) := rfl
@[simp] theorem updSurface_mems (i : Nat) (f : Surface → Surface) : (updSurface c i f).mems = c.mems := rfl
@[simp] theorem updSurface_areas (i : Nat) (f : Surface → Surface) : (updSurface c i f).areas = c.areas := rfl
@[simp] theorem updSurface_mcs (i : Nat) (f : Surface → Surface) : (updSurface c i f).mcs = c.mcs := rfl
@[simp] theorem updSurface_banks (i : Nat) (f : Surface → Surface) : (updSurface c i f).banks = c.banks := rfl
@[simp] theorem updSurface_written (i : Nat) (f : Surface → Surface) : (updSurface c i f).written = c.written := rfl
@[simp] theorem updSurface_poison (i : Nat) (f : Surface → Surface) : (updSurface c i f).poison = c.poison := rfl
@[simp] theorem updSurface_crcBad (i : Nat) (f : Surface → Surface) : (updSurface c i f).crcBad = c.crcBad := rfl
@[simp] theorem updSurface_repairs (i : Nat) (f : Surface → Surface) : (updSurface c i f).repairs = c.repairs := rfl
@[simp] theorem updSurface_ram (i : Nat) (f : Surface → Surface) : (updSurface c i f).ram = c.ram := rfl
@[simp] theorem updSurface_poisonReads (i : Nat) (f : Surface → Surface) : (updSurface c i f).poisonReads = c.poisonReads := rfl
@[simp] theorem updSurface_unwrittenReads (i : Nat) (f : Surface → Surface) : (updSurface c i f).unwrittenReads = c.unwrittenReads := rfl
@[simp] theorem updSurface_linearMcs (i : Nat) (f : Surface → Surface) : (updSurface c i f).linearMcs = c.linearMcs := rfl
@[simp] theorem updSurface_movers (i : Nat) (f : Surface → Surface) : (updSurface c i f).movers = c.movers := rfl
@[simp] theorem updSurface_workRate (i : Nat) (f : Surface → Surface) : (updSurface c i f).workRate = c.workRate := rfl
@[simp] theorem updSurface_moverOut (i : Nat) (f : Surface → Surface) : (updSurface c i f).moverOut = c.moverOut := rfl
@[simp] theorem updSurface_laneUi (i : Nat) (f : Surface → Surface) : (updSurface c i f).laneUi = c.laneUi := rfl
@[simp] theorem updSurface_lanes (i : Nat) (f : Surface → Surface) : (updSurface c i f).lanes = c.lanes := rfl
@[simp] theorem updSurface_quads (i : Nat) (f : Surface → Surface) : (updSurface c i f).quads = c.quads := rfl
@[simp] theorem updSurface_drivers (i : Nat) (f : Surface → Surface) : (updSurface c i f).drivers = c.drivers := rfl
@[simp] theorem updSurface_power (i : Nat) (f : Surface → Surface) : (updSurface c i f).power = c.power := rfl
@[simp] theorem updSurface_faults (i : Nat) (f : Surface → Surface) : (updSurface c i f).faults = c.faults := rfl
@[simp] theorem updSurface_cal (i : Nat) (f : Surface → Surface) : (updSurface c i f).cal = c.cal := rfl
@[simp] theorem updSurface_perf (i : Nat) (f : Surface → Surface) : (updSurface c i f).perf = c.perf := rfl
@[simp] theorem updSurface_thermal (i : Nat) (f : Surface → Surface) : (updSurface c i f).thermal = c.thermal := rfl
@[simp] theorem updSurface_out (i : Nat) (f : Surface → Surface) : (updSurface c i f).out = c.out := rfl
@[simp] theorem updSurface_signals (i : Nat) (f : Surface → Surface) : (updSurface c i f).signals = c.signals := rfl
@[simp] theorem updSurface_free (i : Nat) (f : Surface → Surface) : (updSurface c i f).free = c.free := rfl

/-! ### `updEth` -/

@[simp] theorem updEth_time (i : Nat) (f : Eth → Eth) : (updEth c i f).time = c.time := rfl
@[simp] theorem updEth_start (i : Nat) (f : Eth → Eth) : (updEth c i f).start = c.start := rfl
@[simp] theorem updEth_shadow (i : Nat) (f : Eth → Eth) : (updEth c i f).shadow = c.shadow := rfl
@[simp] theorem updEth_flash (i : Nat) (f : Eth → Eth) : (updEth c i f).flash = c.flash := rfl
@[simp] theorem updEth_cfg (i : Nat) (f : Eth → Eth) : (updEth c i f).cfg = c.cfg := rfl
@[simp] theorem updEth_sm (i : Nat) (f : Eth → Eth) : (updEth c i f).sm = c.sm := rfl
@[simp] theorem updEth_sysReady (i : Nat) (f : Eth → Eth) : (updEth c i f).sysReady = c.sysReady := rfl
@[simp] theorem updEth_porLow (i : Nat) (f : Eth → Eth) : (updEth c i f).porLow = c.porLow := rfl
@[simp] theorem updEth_pcie (i : Nat) (f : Eth → Eth) : (updEth c i f).pcie = c.pcie := rfl
@[simp] theorem updEth_cci (i : Nat) (f : Eth → Eth) : (updEth c i f).cci = c.cci := rfl
@[simp] theorem updEth_limits (i : Nat) (f : Eth → Eth) : (updEth c i f).limits = c.limits := rfl
@[simp] theorem updEth_eth (i : Nat) (f : Eth → Eth) : (updEth c i f).eth = upd c.eth i f := rfl
@[simp] theorem updEth_streams (i : Nat) (f : Eth → Eth) : (updEth c i f).streams = c.streams := rfl
@[simp] theorem updEth_decs (i : Nat) (f : Eth → Eth) : (updEth c i f).decs = c.decs := rfl
@[simp] theorem updEth_store (i : Nat) (f : Eth → Eth) : (updEth c i f).store = c.store := rfl
@[simp] theorem updEth_tables (i : Nat) (f : Eth → Eth) : (updEth c i f).tables = c.tables := rfl
@[simp] theorem updEth_tableGen (i : Nat) (f : Eth → Eth) : (updEth c i f).tableGen = c.tableGen := rfl
@[simp] theorem updEth_ports (i : Nat) (f : Eth → Eth) : (updEth c i f).ports = c.ports := rfl
@[simp] theorem updEth_regions (i : Nat) (f : Eth → Eth) : (updEth c i f).regions = c.regions := rfl
@[simp] theorem updEth_layers (i : Nat) (f : Eth → Eth) : (updEth c i f).layers = c.layers := rfl
@[simp] theorem updEth_surfs (i : Nat) (f : Eth → Eth) : (updEth c i f).surfs = c.surfs := rfl
@[simp] theorem updEth_mems (i : Nat) (f : Eth → Eth) : (updEth c i f).mems = c.mems := rfl
@[simp] theorem updEth_areas (i : Nat) (f : Eth → Eth) : (updEth c i f).areas = c.areas := rfl
@[simp] theorem updEth_mcs (i : Nat) (f : Eth → Eth) : (updEth c i f).mcs = c.mcs := rfl
@[simp] theorem updEth_banks (i : Nat) (f : Eth → Eth) : (updEth c i f).banks = c.banks := rfl
@[simp] theorem updEth_written (i : Nat) (f : Eth → Eth) : (updEth c i f).written = c.written := rfl
@[simp] theorem updEth_poison (i : Nat) (f : Eth → Eth) : (updEth c i f).poison = c.poison := rfl
@[simp] theorem updEth_crcBad (i : Nat) (f : Eth → Eth) : (updEth c i f).crcBad = c.crcBad := rfl
@[simp] theorem updEth_repairs (i : Nat) (f : Eth → Eth) : (updEth c i f).repairs = c.repairs := rfl
@[simp] theorem updEth_ram (i : Nat) (f : Eth → Eth) : (updEth c i f).ram = c.ram := rfl
@[simp] theorem updEth_poisonReads (i : Nat) (f : Eth → Eth) : (updEth c i f).poisonReads = c.poisonReads := rfl
@[simp] theorem updEth_unwrittenReads (i : Nat) (f : Eth → Eth) : (updEth c i f).unwrittenReads = c.unwrittenReads := rfl
@[simp] theorem updEth_linearMcs (i : Nat) (f : Eth → Eth) : (updEth c i f).linearMcs = c.linearMcs := rfl
@[simp] theorem updEth_movers (i : Nat) (f : Eth → Eth) : (updEth c i f).movers = c.movers := rfl
@[simp] theorem updEth_workRate (i : Nat) (f : Eth → Eth) : (updEth c i f).workRate = c.workRate := rfl
@[simp] theorem updEth_moverOut (i : Nat) (f : Eth → Eth) : (updEth c i f).moverOut = c.moverOut := rfl
@[simp] theorem updEth_laneUi (i : Nat) (f : Eth → Eth) : (updEth c i f).laneUi = c.laneUi := rfl
@[simp] theorem updEth_lanes (i : Nat) (f : Eth → Eth) : (updEth c i f).lanes = c.lanes := rfl
@[simp] theorem updEth_quads (i : Nat) (f : Eth → Eth) : (updEth c i f).quads = c.quads := rfl
@[simp] theorem updEth_drivers (i : Nat) (f : Eth → Eth) : (updEth c i f).drivers = c.drivers := rfl
@[simp] theorem updEth_power (i : Nat) (f : Eth → Eth) : (updEth c i f).power = c.power := rfl
@[simp] theorem updEth_faults (i : Nat) (f : Eth → Eth) : (updEth c i f).faults = c.faults := rfl
@[simp] theorem updEth_cal (i : Nat) (f : Eth → Eth) : (updEth c i f).cal = c.cal := rfl
@[simp] theorem updEth_perf (i : Nat) (f : Eth → Eth) : (updEth c i f).perf = c.perf := rfl
@[simp] theorem updEth_thermal (i : Nat) (f : Eth → Eth) : (updEth c i f).thermal = c.thermal := rfl
@[simp] theorem updEth_out (i : Nat) (f : Eth → Eth) : (updEth c i f).out = c.out := rfl
@[simp] theorem updEth_signals (i : Nat) (f : Eth → Eth) : (updEth c i f).signals = c.signals := rfl
@[simp] theorem updEth_free (i : Nat) (f : Eth → Eth) : (updEth c i f).free = c.free := rfl

/-! ### `updDec` -/

@[simp] theorem updDec_time (i : Nat) (f : Decoder → Decoder) : (updDec c i f).time = c.time := rfl
@[simp] theorem updDec_start (i : Nat) (f : Decoder → Decoder) : (updDec c i f).start = c.start := rfl
@[simp] theorem updDec_shadow (i : Nat) (f : Decoder → Decoder) : (updDec c i f).shadow = c.shadow := rfl
@[simp] theorem updDec_flash (i : Nat) (f : Decoder → Decoder) : (updDec c i f).flash = c.flash := rfl
@[simp] theorem updDec_cfg (i : Nat) (f : Decoder → Decoder) : (updDec c i f).cfg = c.cfg := rfl
@[simp] theorem updDec_sm (i : Nat) (f : Decoder → Decoder) : (updDec c i f).sm = c.sm := rfl
@[simp] theorem updDec_sysReady (i : Nat) (f : Decoder → Decoder) : (updDec c i f).sysReady = c.sysReady := rfl
@[simp] theorem updDec_porLow (i : Nat) (f : Decoder → Decoder) : (updDec c i f).porLow = c.porLow := rfl
@[simp] theorem updDec_pcie (i : Nat) (f : Decoder → Decoder) : (updDec c i f).pcie = c.pcie := rfl
@[simp] theorem updDec_cci (i : Nat) (f : Decoder → Decoder) : (updDec c i f).cci = c.cci := rfl
@[simp] theorem updDec_limits (i : Nat) (f : Decoder → Decoder) : (updDec c i f).limits = c.limits := rfl
@[simp] theorem updDec_eth (i : Nat) (f : Decoder → Decoder) : (updDec c i f).eth = c.eth := rfl
@[simp] theorem updDec_streams (i : Nat) (f : Decoder → Decoder) : (updDec c i f).streams = c.streams := rfl
@[simp] theorem updDec_decs (i : Nat) (f : Decoder → Decoder) : (updDec c i f).decs = upd c.decs i f := rfl
@[simp] theorem updDec_store (i : Nat) (f : Decoder → Decoder) : (updDec c i f).store = c.store := rfl
@[simp] theorem updDec_tables (i : Nat) (f : Decoder → Decoder) : (updDec c i f).tables = c.tables := rfl
@[simp] theorem updDec_tableGen (i : Nat) (f : Decoder → Decoder) : (updDec c i f).tableGen = c.tableGen := rfl
@[simp] theorem updDec_ports (i : Nat) (f : Decoder → Decoder) : (updDec c i f).ports = c.ports := rfl
@[simp] theorem updDec_regions (i : Nat) (f : Decoder → Decoder) : (updDec c i f).regions = c.regions := rfl
@[simp] theorem updDec_layers (i : Nat) (f : Decoder → Decoder) : (updDec c i f).layers = c.layers := rfl
@[simp] theorem updDec_surfs (i : Nat) (f : Decoder → Decoder) : (updDec c i f).surfs = c.surfs := rfl
@[simp] theorem updDec_mems (i : Nat) (f : Decoder → Decoder) : (updDec c i f).mems = c.mems := rfl
@[simp] theorem updDec_areas (i : Nat) (f : Decoder → Decoder) : (updDec c i f).areas = c.areas := rfl
@[simp] theorem updDec_mcs (i : Nat) (f : Decoder → Decoder) : (updDec c i f).mcs = c.mcs := rfl
@[simp] theorem updDec_banks (i : Nat) (f : Decoder → Decoder) : (updDec c i f).banks = c.banks := rfl
@[simp] theorem updDec_written (i : Nat) (f : Decoder → Decoder) : (updDec c i f).written = c.written := rfl
@[simp] theorem updDec_poison (i : Nat) (f : Decoder → Decoder) : (updDec c i f).poison = c.poison := rfl
@[simp] theorem updDec_crcBad (i : Nat) (f : Decoder → Decoder) : (updDec c i f).crcBad = c.crcBad := rfl
@[simp] theorem updDec_repairs (i : Nat) (f : Decoder → Decoder) : (updDec c i f).repairs = c.repairs := rfl
@[simp] theorem updDec_ram (i : Nat) (f : Decoder → Decoder) : (updDec c i f).ram = c.ram := rfl
@[simp] theorem updDec_poisonReads (i : Nat) (f : Decoder → Decoder) : (updDec c i f).poisonReads = c.poisonReads := rfl
@[simp] theorem updDec_unwrittenReads (i : Nat) (f : Decoder → Decoder) : (updDec c i f).unwrittenReads = c.unwrittenReads := rfl
@[simp] theorem updDec_linearMcs (i : Nat) (f : Decoder → Decoder) : (updDec c i f).linearMcs = c.linearMcs := rfl
@[simp] theorem updDec_movers (i : Nat) (f : Decoder → Decoder) : (updDec c i f).movers = c.movers := rfl
@[simp] theorem updDec_workRate (i : Nat) (f : Decoder → Decoder) : (updDec c i f).workRate = c.workRate := rfl
@[simp] theorem updDec_moverOut (i : Nat) (f : Decoder → Decoder) : (updDec c i f).moverOut = c.moverOut := rfl
@[simp] theorem updDec_laneUi (i : Nat) (f : Decoder → Decoder) : (updDec c i f).laneUi = c.laneUi := rfl
@[simp] theorem updDec_lanes (i : Nat) (f : Decoder → Decoder) : (updDec c i f).lanes = c.lanes := rfl
@[simp] theorem updDec_quads (i : Nat) (f : Decoder → Decoder) : (updDec c i f).quads = c.quads := rfl
@[simp] theorem updDec_drivers (i : Nat) (f : Decoder → Decoder) : (updDec c i f).drivers = c.drivers := rfl
@[simp] theorem updDec_power (i : Nat) (f : Decoder → Decoder) : (updDec c i f).power = c.power := rfl
@[simp] theorem updDec_faults (i : Nat) (f : Decoder → Decoder) : (updDec c i f).faults = c.faults := rfl
@[simp] theorem updDec_cal (i : Nat) (f : Decoder → Decoder) : (updDec c i f).cal = c.cal := rfl
@[simp] theorem updDec_perf (i : Nat) (f : Decoder → Decoder) : (updDec c i f).perf = c.perf := rfl
@[simp] theorem updDec_thermal (i : Nat) (f : Decoder → Decoder) : (updDec c i f).thermal = c.thermal := rfl
@[simp] theorem updDec_out (i : Nat) (f : Decoder → Decoder) : (updDec c i f).out = c.out := rfl
@[simp] theorem updDec_signals (i : Nat) (f : Decoder → Decoder) : (updDec c i f).signals = c.signals := rfl
@[simp] theorem updDec_free (i : Nat) (f : Decoder → Decoder) : (updDec c i f).free = c.free := rfl

/-! ### `updCal` -/

@[simp] theorem updCal_time (d : Nat) (f : CalDomain → CalDomain) : (updCal c d f).time = c.time := rfl
@[simp] theorem updCal_start (d : Nat) (f : CalDomain → CalDomain) : (updCal c d f).start = c.start := rfl
@[simp] theorem updCal_shadow (d : Nat) (f : CalDomain → CalDomain) : (updCal c d f).shadow = c.shadow := rfl
@[simp] theorem updCal_flash (d : Nat) (f : CalDomain → CalDomain) : (updCal c d f).flash = c.flash := rfl
@[simp] theorem updCal_cfg (d : Nat) (f : CalDomain → CalDomain) : (updCal c d f).cfg = c.cfg := rfl
@[simp] theorem updCal_sm (d : Nat) (f : CalDomain → CalDomain) : (updCal c d f).sm = c.sm := rfl
@[simp] theorem updCal_sysReady (d : Nat) (f : CalDomain → CalDomain) : (updCal c d f).sysReady = c.sysReady := rfl
@[simp] theorem updCal_porLow (d : Nat) (f : CalDomain → CalDomain) : (updCal c d f).porLow = c.porLow := rfl
@[simp] theorem updCal_pcie (d : Nat) (f : CalDomain → CalDomain) : (updCal c d f).pcie = c.pcie := rfl
@[simp] theorem updCal_cci (d : Nat) (f : CalDomain → CalDomain) : (updCal c d f).cci = c.cci := rfl
@[simp] theorem updCal_limits (d : Nat) (f : CalDomain → CalDomain) : (updCal c d f).limits = c.limits := rfl
@[simp] theorem updCal_eth (d : Nat) (f : CalDomain → CalDomain) : (updCal c d f).eth = c.eth := rfl
@[simp] theorem updCal_streams (d : Nat) (f : CalDomain → CalDomain) : (updCal c d f).streams = c.streams := rfl
@[simp] theorem updCal_decs (d : Nat) (f : CalDomain → CalDomain) : (updCal c d f).decs = c.decs := rfl
@[simp] theorem updCal_store (d : Nat) (f : CalDomain → CalDomain) : (updCal c d f).store = c.store := rfl
@[simp] theorem updCal_tables (d : Nat) (f : CalDomain → CalDomain) : (updCal c d f).tables = c.tables := rfl
@[simp] theorem updCal_tableGen (d : Nat) (f : CalDomain → CalDomain) : (updCal c d f).tableGen = c.tableGen := rfl
@[simp] theorem updCal_ports (d : Nat) (f : CalDomain → CalDomain) : (updCal c d f).ports = c.ports := rfl
@[simp] theorem updCal_regions (d : Nat) (f : CalDomain → CalDomain) : (updCal c d f).regions = c.regions := rfl
@[simp] theorem updCal_layers (d : Nat) (f : CalDomain → CalDomain) : (updCal c d f).layers = c.layers := rfl
@[simp] theorem updCal_surfs (d : Nat) (f : CalDomain → CalDomain) : (updCal c d f).surfs = c.surfs := rfl
@[simp] theorem updCal_mems (d : Nat) (f : CalDomain → CalDomain) : (updCal c d f).mems = c.mems := rfl
@[simp] theorem updCal_areas (d : Nat) (f : CalDomain → CalDomain) : (updCal c d f).areas = c.areas := rfl
@[simp] theorem updCal_mcs (d : Nat) (f : CalDomain → CalDomain) : (updCal c d f).mcs = c.mcs := rfl
@[simp] theorem updCal_banks (d : Nat) (f : CalDomain → CalDomain) : (updCal c d f).banks = c.banks := rfl
@[simp] theorem updCal_written (d : Nat) (f : CalDomain → CalDomain) : (updCal c d f).written = c.written := rfl
@[simp] theorem updCal_poison (d : Nat) (f : CalDomain → CalDomain) : (updCal c d f).poison = c.poison := rfl
@[simp] theorem updCal_crcBad (d : Nat) (f : CalDomain → CalDomain) : (updCal c d f).crcBad = c.crcBad := rfl
@[simp] theorem updCal_repairs (d : Nat) (f : CalDomain → CalDomain) : (updCal c d f).repairs = c.repairs := rfl
@[simp] theorem updCal_ram (d : Nat) (f : CalDomain → CalDomain) : (updCal c d f).ram = c.ram := rfl
@[simp] theorem updCal_poisonReads (d : Nat) (f : CalDomain → CalDomain) : (updCal c d f).poisonReads = c.poisonReads := rfl
@[simp] theorem updCal_unwrittenReads (d : Nat) (f : CalDomain → CalDomain) : (updCal c d f).unwrittenReads = c.unwrittenReads := rfl
@[simp] theorem updCal_linearMcs (d : Nat) (f : CalDomain → CalDomain) : (updCal c d f).linearMcs = c.linearMcs := rfl
@[simp] theorem updCal_movers (d : Nat) (f : CalDomain → CalDomain) : (updCal c d f).movers = c.movers := rfl
@[simp] theorem updCal_workRate (d : Nat) (f : CalDomain → CalDomain) : (updCal c d f).workRate = c.workRate := rfl
@[simp] theorem updCal_moverOut (d : Nat) (f : CalDomain → CalDomain) : (updCal c d f).moverOut = c.moverOut := rfl
@[simp] theorem updCal_laneUi (d : Nat) (f : CalDomain → CalDomain) : (updCal c d f).laneUi = c.laneUi := rfl
@[simp] theorem updCal_lanes (d : Nat) (f : CalDomain → CalDomain) : (updCal c d f).lanes = c.lanes := rfl
@[simp] theorem updCal_quads (d : Nat) (f : CalDomain → CalDomain) : (updCal c d f).quads = c.quads := rfl
@[simp] theorem updCal_drivers (d : Nat) (f : CalDomain → CalDomain) : (updCal c d f).drivers = c.drivers := rfl
@[simp] theorem updCal_power (d : Nat) (f : CalDomain → CalDomain) : (updCal c d f).power = c.power := rfl
@[simp] theorem updCal_faults (d : Nat) (f : CalDomain → CalDomain) : (updCal c d f).faults = c.faults := rfl
@[simp] theorem updCal_cal (d : Nat) (f : CalDomain → CalDomain) : (updCal c d f).cal = { c.cal with domains := upd c.cal.domains d f } := rfl
@[simp] theorem updCal_perf (d : Nat) (f : CalDomain → CalDomain) : (updCal c d f).perf = c.perf := rfl
@[simp] theorem updCal_thermal (d : Nat) (f : CalDomain → CalDomain) : (updCal c d f).thermal = c.thermal := rfl
@[simp] theorem updCal_out (d : Nat) (f : CalDomain → CalDomain) : (updCal c d f).out = c.out := rfl
@[simp] theorem updCal_signals (d : Nat) (f : CalDomain → CalDomain) : (updCal c d f).signals = c.signals := rfl
@[simp] theorem updCal_free (d : Nat) (f : CalDomain → CalDomain) : (updCal c d f).free = c.free := rfl

/-! ### `updPower` -/

@[simp] theorem updPower_time (f : Power → Power) : (updPower c f).time = c.time := rfl
@[simp] theorem updPower_start (f : Power → Power) : (updPower c f).start = c.start := rfl
@[simp] theorem updPower_shadow (f : Power → Power) : (updPower c f).shadow = c.shadow := rfl
@[simp] theorem updPower_flash (f : Power → Power) : (updPower c f).flash = c.flash := rfl
@[simp] theorem updPower_cfg (f : Power → Power) : (updPower c f).cfg = c.cfg := rfl
@[simp] theorem updPower_sm (f : Power → Power) : (updPower c f).sm = c.sm := rfl
@[simp] theorem updPower_sysReady (f : Power → Power) : (updPower c f).sysReady = c.sysReady := rfl
@[simp] theorem updPower_porLow (f : Power → Power) : (updPower c f).porLow = c.porLow := rfl
@[simp] theorem updPower_pcie (f : Power → Power) : (updPower c f).pcie = c.pcie := rfl
@[simp] theorem updPower_cci (f : Power → Power) : (updPower c f).cci = c.cci := rfl
@[simp] theorem updPower_limits (f : Power → Power) : (updPower c f).limits = c.limits := rfl
@[simp] theorem updPower_eth (f : Power → Power) : (updPower c f).eth = c.eth := rfl
@[simp] theorem updPower_streams (f : Power → Power) : (updPower c f).streams = c.streams := rfl
@[simp] theorem updPower_decs (f : Power → Power) : (updPower c f).decs = c.decs := rfl
@[simp] theorem updPower_store (f : Power → Power) : (updPower c f).store = c.store := rfl
@[simp] theorem updPower_tables (f : Power → Power) : (updPower c f).tables = c.tables := rfl
@[simp] theorem updPower_tableGen (f : Power → Power) : (updPower c f).tableGen = c.tableGen := rfl
@[simp] theorem updPower_ports (f : Power → Power) : (updPower c f).ports = c.ports := rfl
@[simp] theorem updPower_regions (f : Power → Power) : (updPower c f).regions = c.regions := rfl
@[simp] theorem updPower_layers (f : Power → Power) : (updPower c f).layers = c.layers := rfl
@[simp] theorem updPower_surfs (f : Power → Power) : (updPower c f).surfs = c.surfs := rfl
@[simp] theorem updPower_mems (f : Power → Power) : (updPower c f).mems = c.mems := rfl
@[simp] theorem updPower_areas (f : Power → Power) : (updPower c f).areas = c.areas := rfl
@[simp] theorem updPower_mcs (f : Power → Power) : (updPower c f).mcs = c.mcs := rfl
@[simp] theorem updPower_banks (f : Power → Power) : (updPower c f).banks = c.banks := rfl
@[simp] theorem updPower_written (f : Power → Power) : (updPower c f).written = c.written := rfl
@[simp] theorem updPower_poison (f : Power → Power) : (updPower c f).poison = c.poison := rfl
@[simp] theorem updPower_crcBad (f : Power → Power) : (updPower c f).crcBad = c.crcBad := rfl
@[simp] theorem updPower_repairs (f : Power → Power) : (updPower c f).repairs = c.repairs := rfl
@[simp] theorem updPower_ram (f : Power → Power) : (updPower c f).ram = c.ram := rfl
@[simp] theorem updPower_poisonReads (f : Power → Power) : (updPower c f).poisonReads = c.poisonReads := rfl
@[simp] theorem updPower_unwrittenReads (f : Power → Power) : (updPower c f).unwrittenReads = c.unwrittenReads := rfl
@[simp] theorem updPower_linearMcs (f : Power → Power) : (updPower c f).linearMcs = c.linearMcs := rfl
@[simp] theorem updPower_movers (f : Power → Power) : (updPower c f).movers = c.movers := rfl
@[simp] theorem updPower_workRate (f : Power → Power) : (updPower c f).workRate = c.workRate := rfl
@[simp] theorem updPower_moverOut (f : Power → Power) : (updPower c f).moverOut = c.moverOut := rfl
@[simp] theorem updPower_laneUi (f : Power → Power) : (updPower c f).laneUi = c.laneUi := rfl
@[simp] theorem updPower_lanes (f : Power → Power) : (updPower c f).lanes = c.lanes := rfl
@[simp] theorem updPower_quads (f : Power → Power) : (updPower c f).quads = c.quads := rfl
@[simp] theorem updPower_drivers (f : Power → Power) : (updPower c f).drivers = c.drivers := rfl
@[simp] theorem updPower_power (f : Power → Power) : (updPower c f).power = f c.power := rfl
@[simp] theorem updPower_faults (f : Power → Power) : (updPower c f).faults = c.faults := rfl
@[simp] theorem updPower_cal (f : Power → Power) : (updPower c f).cal = c.cal := rfl
@[simp] theorem updPower_perf (f : Power → Power) : (updPower c f).perf = c.perf := rfl
@[simp] theorem updPower_thermal (f : Power → Power) : (updPower c f).thermal = c.thermal := rfl
@[simp] theorem updPower_out (f : Power → Power) : (updPower c f).out = c.out := rfl
@[simp] theorem updPower_signals (f : Power → Power) : (updPower c f).signals = c.signals := rfl
@[simp] theorem updPower_free (f : Power → Power) : (updPower c f).free = c.free := rfl

/-! ### `updTime` -/

@[simp] theorem updTime_time (f : Time → Time) : (updTime c f).time = f c.time := rfl
@[simp] theorem updTime_start (f : Time → Time) : (updTime c f).start = c.start := rfl
@[simp] theorem updTime_shadow (f : Time → Time) : (updTime c f).shadow = c.shadow := rfl
@[simp] theorem updTime_flash (f : Time → Time) : (updTime c f).flash = c.flash := rfl
@[simp] theorem updTime_cfg (f : Time → Time) : (updTime c f).cfg = c.cfg := rfl
@[simp] theorem updTime_sm (f : Time → Time) : (updTime c f).sm = c.sm := rfl
@[simp] theorem updTime_sysReady (f : Time → Time) : (updTime c f).sysReady = c.sysReady := rfl
@[simp] theorem updTime_porLow (f : Time → Time) : (updTime c f).porLow = c.porLow := rfl
@[simp] theorem updTime_pcie (f : Time → Time) : (updTime c f).pcie = c.pcie := rfl
@[simp] theorem updTime_cci (f : Time → Time) : (updTime c f).cci = c.cci := rfl
@[simp] theorem updTime_limits (f : Time → Time) : (updTime c f).limits = c.limits := rfl
@[simp] theorem updTime_eth (f : Time → Time) : (updTime c f).eth = c.eth := rfl
@[simp] theorem updTime_streams (f : Time → Time) : (updTime c f).streams = c.streams := rfl
@[simp] theorem updTime_decs (f : Time → Time) : (updTime c f).decs = c.decs := rfl
@[simp] theorem updTime_store (f : Time → Time) : (updTime c f).store = c.store := rfl
@[simp] theorem updTime_tables (f : Time → Time) : (updTime c f).tables = c.tables := rfl
@[simp] theorem updTime_tableGen (f : Time → Time) : (updTime c f).tableGen = c.tableGen := rfl
@[simp] theorem updTime_ports (f : Time → Time) : (updTime c f).ports = c.ports := rfl
@[simp] theorem updTime_regions (f : Time → Time) : (updTime c f).regions = c.regions := rfl
@[simp] theorem updTime_layers (f : Time → Time) : (updTime c f).layers = c.layers := rfl
@[simp] theorem updTime_surfs (f : Time → Time) : (updTime c f).surfs = c.surfs := rfl
@[simp] theorem updTime_mems (f : Time → Time) : (updTime c f).mems = c.mems := rfl
@[simp] theorem updTime_areas (f : Time → Time) : (updTime c f).areas = c.areas := rfl
@[simp] theorem updTime_mcs (f : Time → Time) : (updTime c f).mcs = c.mcs := rfl
@[simp] theorem updTime_banks (f : Time → Time) : (updTime c f).banks = c.banks := rfl
@[simp] theorem updTime_written (f : Time → Time) : (updTime c f).written = c.written := rfl
@[simp] theorem updTime_poison (f : Time → Time) : (updTime c f).poison = c.poison := rfl
@[simp] theorem updTime_crcBad (f : Time → Time) : (updTime c f).crcBad = c.crcBad := rfl
@[simp] theorem updTime_repairs (f : Time → Time) : (updTime c f).repairs = c.repairs := rfl
@[simp] theorem updTime_ram (f : Time → Time) : (updTime c f).ram = c.ram := rfl
@[simp] theorem updTime_poisonReads (f : Time → Time) : (updTime c f).poisonReads = c.poisonReads := rfl
@[simp] theorem updTime_unwrittenReads (f : Time → Time) : (updTime c f).unwrittenReads = c.unwrittenReads := rfl
@[simp] theorem updTime_linearMcs (f : Time → Time) : (updTime c f).linearMcs = c.linearMcs := rfl
@[simp] theorem updTime_movers (f : Time → Time) : (updTime c f).movers = c.movers := rfl
@[simp] theorem updTime_workRate (f : Time → Time) : (updTime c f).workRate = c.workRate := rfl
@[simp] theorem updTime_moverOut (f : Time → Time) : (updTime c f).moverOut = c.moverOut := rfl
@[simp] theorem updTime_laneUi (f : Time → Time) : (updTime c f).laneUi = c.laneUi := rfl
@[simp] theorem updTime_lanes (f : Time → Time) : (updTime c f).lanes = c.lanes := rfl
@[simp] theorem updTime_quads (f : Time → Time) : (updTime c f).quads = c.quads := rfl
@[simp] theorem updTime_drivers (f : Time → Time) : (updTime c f).drivers = c.drivers := rfl
@[simp] theorem updTime_power (f : Time → Time) : (updTime c f).power = c.power := rfl
@[simp] theorem updTime_faults (f : Time → Time) : (updTime c f).faults = c.faults := rfl
@[simp] theorem updTime_cal (f : Time → Time) : (updTime c f).cal = c.cal := rfl
@[simp] theorem updTime_perf (f : Time → Time) : (updTime c f).perf = c.perf := rfl
@[simp] theorem updTime_thermal (f : Time → Time) : (updTime c f).thermal = c.thermal := rfl
@[simp] theorem updTime_out (f : Time → Time) : (updTime c f).out = c.out := rfl
@[simp] theorem updTime_signals (f : Time → Time) : (updTime c f).signals = c.signals := rfl
@[simp] theorem updTime_free (f : Time → Time) : (updTime c f).free = c.free := rfl

/-! ### `updCci` -/

@[simp] theorem updCci_time (f : Cci → Cci) : (updCci c f).time = c.time := rfl
@[simp] theorem updCci_start (f : Cci → Cci) : (updCci c f).start = c.start := rfl
@[simp] theorem updCci_shadow (f : Cci → Cci) : (updCci c f).shadow = c.shadow := rfl
@[simp] theorem updCci_flash (f : Cci → Cci) : (updCci c f).flash = c.flash := rfl
@[simp] theorem updCci_cfg (f : Cci → Cci) : (updCci c f).cfg = c.cfg := rfl
@[simp] theorem updCci_sm (f : Cci → Cci) : (updCci c f).sm = c.sm := rfl
@[simp] theorem updCci_sysReady (f : Cci → Cci) : (updCci c f).sysReady = c.sysReady := rfl
@[simp] theorem updCci_porLow (f : Cci → Cci) : (updCci c f).porLow = c.porLow := rfl
@[simp] theorem updCci_pcie (f : Cci → Cci) : (updCci c f).pcie = c.pcie := rfl
@[simp] theorem updCci_cci (f : Cci → Cci) : (updCci c f).cci = f c.cci := rfl
@[simp] theorem updCci_limits (f : Cci → Cci) : (updCci c f).limits = c.limits := rfl
@[simp] theorem updCci_eth (f : Cci → Cci) : (updCci c f).eth = c.eth := rfl
@[simp] theorem updCci_streams (f : Cci → Cci) : (updCci c f).streams = c.streams := rfl
@[simp] theorem updCci_decs (f : Cci → Cci) : (updCci c f).decs = c.decs := rfl
@[simp] theorem updCci_store (f : Cci → Cci) : (updCci c f).store = c.store := rfl
@[simp] theorem updCci_tables (f : Cci → Cci) : (updCci c f).tables = c.tables := rfl
@[simp] theorem updCci_tableGen (f : Cci → Cci) : (updCci c f).tableGen = c.tableGen := rfl
@[simp] theorem updCci_ports (f : Cci → Cci) : (updCci c f).ports = c.ports := rfl
@[simp] theorem updCci_regions (f : Cci → Cci) : (updCci c f).regions = c.regions := rfl
@[simp] theorem updCci_layers (f : Cci → Cci) : (updCci c f).layers = c.layers := rfl
@[simp] theorem updCci_surfs (f : Cci → Cci) : (updCci c f).surfs = c.surfs := rfl
@[simp] theorem updCci_mems (f : Cci → Cci) : (updCci c f).mems = c.mems := rfl
@[simp] theorem updCci_areas (f : Cci → Cci) : (updCci c f).areas = c.areas := rfl
@[simp] theorem updCci_mcs (f : Cci → Cci) : (updCci c f).mcs = c.mcs := rfl
@[simp] theorem updCci_banks (f : Cci → Cci) : (updCci c f).banks = c.banks := rfl
@[simp] theorem updCci_written (f : Cci → Cci) : (updCci c f).written = c.written := rfl
@[simp] theorem updCci_poison (f : Cci → Cci) : (updCci c f).poison = c.poison := rfl
@[simp] theorem updCci_crcBad (f : Cci → Cci) : (updCci c f).crcBad = c.crcBad := rfl
@[simp] theorem updCci_repairs (f : Cci → Cci) : (updCci c f).repairs = c.repairs := rfl
@[simp] theorem updCci_ram (f : Cci → Cci) : (updCci c f).ram = c.ram := rfl
@[simp] theorem updCci_poisonReads (f : Cci → Cci) : (updCci c f).poisonReads = c.poisonReads := rfl
@[simp] theorem updCci_unwrittenReads (f : Cci → Cci) : (updCci c f).unwrittenReads = c.unwrittenReads := rfl
@[simp] theorem updCci_linearMcs (f : Cci → Cci) : (updCci c f).linearMcs = c.linearMcs := rfl
@[simp] theorem updCci_movers (f : Cci → Cci) : (updCci c f).movers = c.movers := rfl
@[simp] theorem updCci_workRate (f : Cci → Cci) : (updCci c f).workRate = c.workRate := rfl
@[simp] theorem updCci_moverOut (f : Cci → Cci) : (updCci c f).moverOut = c.moverOut := rfl
@[simp] theorem updCci_laneUi (f : Cci → Cci) : (updCci c f).laneUi = c.laneUi := rfl
@[simp] theorem updCci_lanes (f : Cci → Cci) : (updCci c f).lanes = c.lanes := rfl
@[simp] theorem updCci_quads (f : Cci → Cci) : (updCci c f).quads = c.quads := rfl
@[simp] theorem updCci_drivers (f : Cci → Cci) : (updCci c f).drivers = c.drivers := rfl
@[simp] theorem updCci_power (f : Cci → Cci) : (updCci c f).power = c.power := rfl
@[simp] theorem updCci_faults (f : Cci → Cci) : (updCci c f).faults = c.faults := rfl
@[simp] theorem updCci_cal (f : Cci → Cci) : (updCci c f).cal = c.cal := rfl
@[simp] theorem updCci_perf (f : Cci → Cci) : (updCci c f).perf = c.perf := rfl
@[simp] theorem updCci_thermal (f : Cci → Cci) : (updCci c f).thermal = c.thermal := rfl
@[simp] theorem updCci_out (f : Cci → Cci) : (updCci c f).out = c.out := rfl
@[simp] theorem updCci_signals (f : Cci → Cci) : (updCci c f).signals = c.signals := rfl
@[simp] theorem updCci_free (f : Cci → Cci) : (updCci c f).free = c.free := rfl

/-! ### `updStart` -/

@[simp] theorem updStart_time (f : Start → Start) : (updStart c f).time = c.time := rfl
@[simp] theorem updStart_start (f : Start → Start) : (updStart c f).start = f c.start := rfl
@[simp] theorem updStart_shadow (f : Start → Start) : (updStart c f).shadow = c.shadow := rfl
@[simp] theorem updStart_flash (f : Start → Start) : (updStart c f).flash = c.flash := rfl
@[simp] theorem updStart_cfg (f : Start → Start) : (updStart c f).cfg = c.cfg := rfl
@[simp] theorem updStart_sm (f : Start → Start) : (updStart c f).sm = c.sm := rfl
@[simp] theorem updStart_sysReady (f : Start → Start) : (updStart c f).sysReady = c.sysReady := rfl
@[simp] theorem updStart_porLow (f : Start → Start) : (updStart c f).porLow = c.porLow := rfl
@[simp] theorem updStart_pcie (f : Start → Start) : (updStart c f).pcie = c.pcie := rfl
@[simp] theorem updStart_cci (f : Start → Start) : (updStart c f).cci = c.cci := rfl
@[simp] theorem updStart_limits (f : Start → Start) : (updStart c f).limits = c.limits := rfl
@[simp] theorem updStart_eth (f : Start → Start) : (updStart c f).eth = c.eth := rfl
@[simp] theorem updStart_streams (f : Start → Start) : (updStart c f).streams = c.streams := rfl
@[simp] theorem updStart_decs (f : Start → Start) : (updStart c f).decs = c.decs := rfl
@[simp] theorem updStart_store (f : Start → Start) : (updStart c f).store = c.store := rfl
@[simp] theorem updStart_tables (f : Start → Start) : (updStart c f).tables = c.tables := rfl
@[simp] theorem updStart_tableGen (f : Start → Start) : (updStart c f).tableGen = c.tableGen := rfl
@[simp] theorem updStart_ports (f : Start → Start) : (updStart c f).ports = c.ports := rfl
@[simp] theorem updStart_regions (f : Start → Start) : (updStart c f).regions = c.regions := rfl
@[simp] theorem updStart_layers (f : Start → Start) : (updStart c f).layers = c.layers := rfl
@[simp] theorem updStart_surfs (f : Start → Start) : (updStart c f).surfs = c.surfs := rfl
@[simp] theorem updStart_mems (f : Start → Start) : (updStart c f).mems = c.mems := rfl
@[simp] theorem updStart_areas (f : Start → Start) : (updStart c f).areas = c.areas := rfl
@[simp] theorem updStart_mcs (f : Start → Start) : (updStart c f).mcs = c.mcs := rfl
@[simp] theorem updStart_banks (f : Start → Start) : (updStart c f).banks = c.banks := rfl
@[simp] theorem updStart_written (f : Start → Start) : (updStart c f).written = c.written := rfl
@[simp] theorem updStart_poison (f : Start → Start) : (updStart c f).poison = c.poison := rfl
@[simp] theorem updStart_crcBad (f : Start → Start) : (updStart c f).crcBad = c.crcBad := rfl
@[simp] theorem updStart_repairs (f : Start → Start) : (updStart c f).repairs = c.repairs := rfl
@[simp] theorem updStart_ram (f : Start → Start) : (updStart c f).ram = c.ram := rfl
@[simp] theorem updStart_poisonReads (f : Start → Start) : (updStart c f).poisonReads = c.poisonReads := rfl
@[simp] theorem updStart_unwrittenReads (f : Start → Start) : (updStart c f).unwrittenReads = c.unwrittenReads := rfl
@[simp] theorem updStart_linearMcs (f : Start → Start) : (updStart c f).linearMcs = c.linearMcs := rfl
@[simp] theorem updStart_movers (f : Start → Start) : (updStart c f).movers = c.movers := rfl
@[simp] theorem updStart_workRate (f : Start → Start) : (updStart c f).workRate = c.workRate := rfl
@[simp] theorem updStart_moverOut (f : Start → Start) : (updStart c f).moverOut = c.moverOut := rfl
@[simp] theorem updStart_laneUi (f : Start → Start) : (updStart c f).laneUi = c.laneUi := rfl
@[simp] theorem updStart_lanes (f : Start → Start) : (updStart c f).lanes = c.lanes := rfl
@[simp] theorem updStart_quads (f : Start → Start) : (updStart c f).quads = c.quads := rfl
@[simp] theorem updStart_drivers (f : Start → Start) : (updStart c f).drivers = c.drivers := rfl
@[simp] theorem updStart_power (f : Start → Start) : (updStart c f).power = c.power := rfl
@[simp] theorem updStart_faults (f : Start → Start) : (updStart c f).faults = c.faults := rfl
@[simp] theorem updStart_cal (f : Start → Start) : (updStart c f).cal = c.cal := rfl
@[simp] theorem updStart_perf (f : Start → Start) : (updStart c f).perf = c.perf := rfl
@[simp] theorem updStart_thermal (f : Start → Start) : (updStart c f).thermal = c.thermal := rfl
@[simp] theorem updStart_out (f : Start → Start) : (updStart c f).out = c.out := rfl
@[simp] theorem updStart_signals (f : Start → Start) : (updStart c f).signals = c.signals := rfl
@[simp] theorem updStart_free (f : Start → Start) : (updStart c f).free = c.free := rfl

/-! ### `updStore` -/

@[simp] theorem updStore_time (f : Store → Store) : (updStore c f).time = c.time := rfl
@[simp] theorem updStore_start (f : Store → Store) : (updStore c f).start = c.start := rfl
@[simp] theorem updStore_shadow (f : Store → Store) : (updStore c f).shadow = c.shadow := rfl
@[simp] theorem updStore_flash (f : Store → Store) : (updStore c f).flash = c.flash := rfl
@[simp] theorem updStore_cfg (f : Store → Store) : (updStore c f).cfg = c.cfg := rfl
@[simp] theorem updStore_sm (f : Store → Store) : (updStore c f).sm = c.sm := rfl
@[simp] theorem updStore_sysReady (f : Store → Store) : (updStore c f).sysReady = c.sysReady := rfl
@[simp] theorem updStore_porLow (f : Store → Store) : (updStore c f).porLow = c.porLow := rfl
@[simp] theorem updStore_pcie (f : Store → Store) : (updStore c f).pcie = c.pcie := rfl
@[simp] theorem updStore_cci (f : Store → Store) : (updStore c f).cci = c.cci := rfl
@[simp] theorem updStore_limits (f : Store → Store) : (updStore c f).limits = c.limits := rfl
@[simp] theorem updStore_eth (f : Store → Store) : (updStore c f).eth = c.eth := rfl
@[simp] theorem updStore_streams (f : Store → Store) : (updStore c f).streams = c.streams := rfl
@[simp] theorem updStore_decs (f : Store → Store) : (updStore c f).decs = c.decs := rfl
@[simp] theorem updStore_store (f : Store → Store) : (updStore c f).store = f c.store := rfl
@[simp] theorem updStore_tables (f : Store → Store) : (updStore c f).tables = c.tables := rfl
@[simp] theorem updStore_tableGen (f : Store → Store) : (updStore c f).tableGen = c.tableGen := rfl
@[simp] theorem updStore_ports (f : Store → Store) : (updStore c f).ports = c.ports := rfl
@[simp] theorem updStore_regions (f : Store → Store) : (updStore c f).regions = c.regions := rfl
@[simp] theorem updStore_layers (f : Store → Store) : (updStore c f).layers = c.layers := rfl
@[simp] theorem updStore_surfs (f : Store → Store) : (updStore c f).surfs = c.surfs := rfl
@[simp] theorem updStore_mems (f : Store → Store) : (updStore c f).mems = c.mems := rfl
@[simp] theorem updStore_areas (f : Store → Store) : (updStore c f).areas = c.areas := rfl
@[simp] theorem updStore_mcs (f : Store → Store) : (updStore c f).mcs = c.mcs := rfl
@[simp] theorem updStore_banks (f : Store → Store) : (updStore c f).banks = c.banks := rfl
@[simp] theorem updStore_written (f : Store → Store) : (updStore c f).written = c.written := rfl
@[simp] theorem updStore_poison (f : Store → Store) : (updStore c f).poison = c.poison := rfl
@[simp] theorem updStore_crcBad (f : Store → Store) : (updStore c f).crcBad = c.crcBad := rfl
@[simp] theorem updStore_repairs (f : Store → Store) : (updStore c f).repairs = c.repairs := rfl
@[simp] theorem updStore_ram (f : Store → Store) : (updStore c f).ram = c.ram := rfl
@[simp] theorem updStore_poisonReads (f : Store → Store) : (updStore c f).poisonReads = c.poisonReads := rfl
@[simp] theorem updStore_unwrittenReads (f : Store → Store) : (updStore c f).unwrittenReads = c.unwrittenReads := rfl
@[simp] theorem updStore_linearMcs (f : Store → Store) : (updStore c f).linearMcs = c.linearMcs := rfl
@[simp] theorem updStore_movers (f : Store → Store) : (updStore c f).movers = c.movers := rfl
@[simp] theorem updStore_workRate (f : Store → Store) : (updStore c f).workRate = c.workRate := rfl
@[simp] theorem updStore_moverOut (f : Store → Store) : (updStore c f).moverOut = c.moverOut := rfl
@[simp] theorem updStore_laneUi (f : Store → Store) : (updStore c f).laneUi = c.laneUi := rfl
@[simp] theorem updStore_lanes (f : Store → Store) : (updStore c f).lanes = c.lanes := rfl
@[simp] theorem updStore_quads (f : Store → Store) : (updStore c f).quads = c.quads := rfl
@[simp] theorem updStore_drivers (f : Store → Store) : (updStore c f).drivers = c.drivers := rfl
@[simp] theorem updStore_power (f : Store → Store) : (updStore c f).power = c.power := rfl
@[simp] theorem updStore_faults (f : Store → Store) : (updStore c f).faults = c.faults := rfl
@[simp] theorem updStore_cal (f : Store → Store) : (updStore c f).cal = c.cal := rfl
@[simp] theorem updStore_perf (f : Store → Store) : (updStore c f).perf = c.perf := rfl
@[simp] theorem updStore_thermal (f : Store → Store) : (updStore c f).thermal = c.thermal := rfl
@[simp] theorem updStore_out (f : Store → Store) : (updStore c f).out = c.out := rfl
@[simp] theorem updStore_signals (f : Store → Store) : (updStore c f).signals = c.signals := rfl
@[simp] theorem updStore_free (f : Store → Store) : (updStore c f).free = c.free := rfl

/-! ### `updPerf` -/

@[simp] theorem updPerf_time (f : Perf → Perf) : (updPerf c f).time = c.time := rfl
@[simp] theorem updPerf_start (f : Perf → Perf) : (updPerf c f).start = c.start := rfl
@[simp] theorem updPerf_shadow (f : Perf → Perf) : (updPerf c f).shadow = c.shadow := rfl
@[simp] theorem updPerf_flash (f : Perf → Perf) : (updPerf c f).flash = c.flash := rfl
@[simp] theorem updPerf_cfg (f : Perf → Perf) : (updPerf c f).cfg = c.cfg := rfl
@[simp] theorem updPerf_sm (f : Perf → Perf) : (updPerf c f).sm = c.sm := rfl
@[simp] theorem updPerf_sysReady (f : Perf → Perf) : (updPerf c f).sysReady = c.sysReady := rfl
@[simp] theorem updPerf_porLow (f : Perf → Perf) : (updPerf c f).porLow = c.porLow := rfl
@[simp] theorem updPerf_pcie (f : Perf → Perf) : (updPerf c f).pcie = c.pcie := rfl
@[simp] theorem updPerf_cci (f : Perf → Perf) : (updPerf c f).cci = c.cci := rfl
@[simp] theorem updPerf_limits (f : Perf → Perf) : (updPerf c f).limits = c.limits := rfl
@[simp] theorem updPerf_eth (f : Perf → Perf) : (updPerf c f).eth = c.eth := rfl
@[simp] theorem updPerf_streams (f : Perf → Perf) : (updPerf c f).streams = c.streams := rfl
@[simp] theorem updPerf_decs (f : Perf → Perf) : (updPerf c f).decs = c.decs := rfl
@[simp] theorem updPerf_store (f : Perf → Perf) : (updPerf c f).store = c.store := rfl
@[simp] theorem updPerf_tables (f : Perf → Perf) : (updPerf c f).tables = c.tables := rfl
@[simp] theorem updPerf_tableGen (f : Perf → Perf) : (updPerf c f).tableGen = c.tableGen := rfl
@[simp] theorem updPerf_ports (f : Perf → Perf) : (updPerf c f).ports = c.ports := rfl
@[simp] theorem updPerf_regions (f : Perf → Perf) : (updPerf c f).regions = c.regions := rfl
@[simp] theorem updPerf_layers (f : Perf → Perf) : (updPerf c f).layers = c.layers := rfl
@[simp] theorem updPerf_surfs (f : Perf → Perf) : (updPerf c f).surfs = c.surfs := rfl
@[simp] theorem updPerf_mems (f : Perf → Perf) : (updPerf c f).mems = c.mems := rfl
@[simp] theorem updPerf_areas (f : Perf → Perf) : (updPerf c f).areas = c.areas := rfl
@[simp] theorem updPerf_mcs (f : Perf → Perf) : (updPerf c f).mcs = c.mcs := rfl
@[simp] theorem updPerf_banks (f : Perf → Perf) : (updPerf c f).banks = c.banks := rfl
@[simp] theorem updPerf_written (f : Perf → Perf) : (updPerf c f).written = c.written := rfl
@[simp] theorem updPerf_poison (f : Perf → Perf) : (updPerf c f).poison = c.poison := rfl
@[simp] theorem updPerf_crcBad (f : Perf → Perf) : (updPerf c f).crcBad = c.crcBad := rfl
@[simp] theorem updPerf_repairs (f : Perf → Perf) : (updPerf c f).repairs = c.repairs := rfl
@[simp] theorem updPerf_ram (f : Perf → Perf) : (updPerf c f).ram = c.ram := rfl
@[simp] theorem updPerf_poisonReads (f : Perf → Perf) : (updPerf c f).poisonReads = c.poisonReads := rfl
@[simp] theorem updPerf_unwrittenReads (f : Perf → Perf) : (updPerf c f).unwrittenReads = c.unwrittenReads := rfl
@[simp] theorem updPerf_linearMcs (f : Perf → Perf) : (updPerf c f).linearMcs = c.linearMcs := rfl
@[simp] theorem updPerf_movers (f : Perf → Perf) : (updPerf c f).movers = c.movers := rfl
@[simp] theorem updPerf_workRate (f : Perf → Perf) : (updPerf c f).workRate = c.workRate := rfl
@[simp] theorem updPerf_moverOut (f : Perf → Perf) : (updPerf c f).moverOut = c.moverOut := rfl
@[simp] theorem updPerf_laneUi (f : Perf → Perf) : (updPerf c f).laneUi = c.laneUi := rfl
@[simp] theorem updPerf_lanes (f : Perf → Perf) : (updPerf c f).lanes = c.lanes := rfl
@[simp] theorem updPerf_quads (f : Perf → Perf) : (updPerf c f).quads = c.quads := rfl
@[simp] theorem updPerf_drivers (f : Perf → Perf) : (updPerf c f).drivers = c.drivers := rfl
@[simp] theorem updPerf_power (f : Perf → Perf) : (updPerf c f).power = c.power := rfl
@[simp] theorem updPerf_faults (f : Perf → Perf) : (updPerf c f).faults = c.faults := rfl
@[simp] theorem updPerf_cal (f : Perf → Perf) : (updPerf c f).cal = c.cal := rfl
@[simp] theorem updPerf_perf (f : Perf → Perf) : (updPerf c f).perf = f c.perf := rfl
@[simp] theorem updPerf_thermal (f : Perf → Perf) : (updPerf c f).thermal = c.thermal := rfl
@[simp] theorem updPerf_out (f : Perf → Perf) : (updPerf c f).out = c.out := rfl
@[simp] theorem updPerf_signals (f : Perf → Perf) : (updPerf c f).signals = c.signals := rfl
@[simp] theorem updPerf_free (f : Perf → Perf) : (updPerf c f).free = c.free := rfl

/-! ### `updFaults` -/

@[simp] theorem updFaults_time (f : Faults → Faults) : (updFaults c f).time = c.time := rfl
@[simp] theorem updFaults_start (f : Faults → Faults) : (updFaults c f).start = c.start := rfl
@[simp] theorem updFaults_shadow (f : Faults → Faults) : (updFaults c f).shadow = c.shadow := rfl
@[simp] theorem updFaults_flash (f : Faults → Faults) : (updFaults c f).flash = c.flash := rfl
@[simp] theorem updFaults_cfg (f : Faults → Faults) : (updFaults c f).cfg = c.cfg := rfl
@[simp] theorem updFaults_sm (f : Faults → Faults) : (updFaults c f).sm = c.sm := rfl
@[simp] theorem updFaults_sysReady (f : Faults → Faults) : (updFaults c f).sysReady = c.sysReady := rfl
@[simp] theorem updFaults_porLow (f : Faults → Faults) : (updFaults c f).porLow = c.porLow := rfl
@[simp] theorem updFaults_pcie (f : Faults → Faults) : (updFaults c f).pcie = c.pcie := rfl
@[simp] theorem updFaults_cci (f : Faults → Faults) : (updFaults c f).cci = c.cci := rfl
@[simp] theorem updFaults_limits (f : Faults → Faults) : (updFaults c f).limits = c.limits := rfl
@[simp] theorem updFaults_eth (f : Faults → Faults) : (updFaults c f).eth = c.eth := rfl
@[simp] theorem updFaults_streams (f : Faults → Faults) : (updFaults c f).streams = c.streams := rfl
@[simp] theorem updFaults_decs (f : Faults → Faults) : (updFaults c f).decs = c.decs := rfl
@[simp] theorem updFaults_store (f : Faults → Faults) : (updFaults c f).store = c.store := rfl
@[simp] theorem updFaults_tables (f : Faults → Faults) : (updFaults c f).tables = c.tables := rfl
@[simp] theorem updFaults_tableGen (f : Faults → Faults) : (updFaults c f).tableGen = c.tableGen := rfl
@[simp] theorem updFaults_ports (f : Faults → Faults) : (updFaults c f).ports = c.ports := rfl
@[simp] theorem updFaults_regions (f : Faults → Faults) : (updFaults c f).regions = c.regions := rfl
@[simp] theorem updFaults_layers (f : Faults → Faults) : (updFaults c f).layers = c.layers := rfl
@[simp] theorem updFaults_surfs (f : Faults → Faults) : (updFaults c f).surfs = c.surfs := rfl
@[simp] theorem updFaults_mems (f : Faults → Faults) : (updFaults c f).mems = c.mems := rfl
@[simp] theorem updFaults_areas (f : Faults → Faults) : (updFaults c f).areas = c.areas := rfl
@[simp] theorem updFaults_mcs (f : Faults → Faults) : (updFaults c f).mcs = c.mcs := rfl
@[simp] theorem updFaults_banks (f : Faults → Faults) : (updFaults c f).banks = c.banks := rfl
@[simp] theorem updFaults_written (f : Faults → Faults) : (updFaults c f).written = c.written := rfl
@[simp] theorem updFaults_poison (f : Faults → Faults) : (updFaults c f).poison = c.poison := rfl
@[simp] theorem updFaults_crcBad (f : Faults → Faults) : (updFaults c f).crcBad = c.crcBad := rfl
@[simp] theorem updFaults_repairs (f : Faults → Faults) : (updFaults c f).repairs = c.repairs := rfl
@[simp] theorem updFaults_ram (f : Faults → Faults) : (updFaults c f).ram = c.ram := rfl
@[simp] theorem updFaults_poisonReads (f : Faults → Faults) : (updFaults c f).poisonReads = c.poisonReads := rfl
@[simp] theorem updFaults_unwrittenReads (f : Faults → Faults) : (updFaults c f).unwrittenReads = c.unwrittenReads := rfl
@[simp] theorem updFaults_linearMcs (f : Faults → Faults) : (updFaults c f).linearMcs = c.linearMcs := rfl
@[simp] theorem updFaults_movers (f : Faults → Faults) : (updFaults c f).movers = c.movers := rfl
@[simp] theorem updFaults_workRate (f : Faults → Faults) : (updFaults c f).workRate = c.workRate := rfl
@[simp] theorem updFaults_moverOut (f : Faults → Faults) : (updFaults c f).moverOut = c.moverOut := rfl
@[simp] theorem updFaults_laneUi (f : Faults → Faults) : (updFaults c f).laneUi = c.laneUi := rfl
@[simp] theorem updFaults_lanes (f : Faults → Faults) : (updFaults c f).lanes = c.lanes := rfl
@[simp] theorem updFaults_quads (f : Faults → Faults) : (updFaults c f).quads = c.quads := rfl
@[simp] theorem updFaults_drivers (f : Faults → Faults) : (updFaults c f).drivers = c.drivers := rfl
@[simp] theorem updFaults_power (f : Faults → Faults) : (updFaults c f).power = c.power := rfl
@[simp] theorem updFaults_faults (f : Faults → Faults) : (updFaults c f).faults = f c.faults := rfl
@[simp] theorem updFaults_cal (f : Faults → Faults) : (updFaults c f).cal = c.cal := rfl
@[simp] theorem updFaults_perf (f : Faults → Faults) : (updFaults c f).perf = c.perf := rfl
@[simp] theorem updFaults_thermal (f : Faults → Faults) : (updFaults c f).thermal = c.thermal := rfl
@[simp] theorem updFaults_out (f : Faults → Faults) : (updFaults c f).out = c.out := rfl
@[simp] theorem updFaults_signals (f : Faults → Faults) : (updFaults c f).signals = c.signals := rfl
@[simp] theorem updFaults_free (f : Faults → Faults) : (updFaults c f).free = c.free := rfl

/-! ### `signal` -/

@[simp] theorem signal_time (v : Nat) : (signal c v).time = c.time := rfl
@[simp] theorem signal_start (v : Nat) : (signal c v).start = c.start := rfl
@[simp] theorem signal_shadow (v : Nat) : (signal c v).shadow = c.shadow := rfl
@[simp] theorem signal_flash (v : Nat) : (signal c v).flash = c.flash := rfl
@[simp] theorem signal_cfg (v : Nat) : (signal c v).cfg = c.cfg := rfl
@[simp] theorem signal_sm (v : Nat) : (signal c v).sm = c.sm := rfl
@[simp] theorem signal_sysReady (v : Nat) : (signal c v).sysReady = c.sysReady := rfl
@[simp] theorem signal_porLow (v : Nat) : (signal c v).porLow = c.porLow := rfl
@[simp] theorem signal_pcie (v : Nat) : (signal c v).pcie = c.pcie := rfl
@[simp] theorem signal_cci (v : Nat) : (signal c v).cci = c.cci := rfl
@[simp] theorem signal_limits (v : Nat) : (signal c v).limits = c.limits := rfl
@[simp] theorem signal_eth (v : Nat) : (signal c v).eth = c.eth := rfl
@[simp] theorem signal_streams (v : Nat) : (signal c v).streams = c.streams := rfl
@[simp] theorem signal_decs (v : Nat) : (signal c v).decs = c.decs := rfl
@[simp] theorem signal_store (v : Nat) : (signal c v).store = c.store := rfl
@[simp] theorem signal_tables (v : Nat) : (signal c v).tables = c.tables := rfl
@[simp] theorem signal_tableGen (v : Nat) : (signal c v).tableGen = c.tableGen := rfl
@[simp] theorem signal_ports (v : Nat) : (signal c v).ports = c.ports := rfl
@[simp] theorem signal_regions (v : Nat) : (signal c v).regions = c.regions := rfl
@[simp] theorem signal_layers (v : Nat) : (signal c v).layers = c.layers := rfl
@[simp] theorem signal_surfs (v : Nat) : (signal c v).surfs = c.surfs := rfl
@[simp] theorem signal_mems (v : Nat) : (signal c v).mems = c.mems := rfl
@[simp] theorem signal_areas (v : Nat) : (signal c v).areas = c.areas := rfl
@[simp] theorem signal_mcs (v : Nat) : (signal c v).mcs = c.mcs := rfl
@[simp] theorem signal_banks (v : Nat) : (signal c v).banks = c.banks := rfl
@[simp] theorem signal_written (v : Nat) : (signal c v).written = c.written := rfl
@[simp] theorem signal_poison (v : Nat) : (signal c v).poison = c.poison := rfl
@[simp] theorem signal_crcBad (v : Nat) : (signal c v).crcBad = c.crcBad := rfl
@[simp] theorem signal_repairs (v : Nat) : (signal c v).repairs = c.repairs := rfl
@[simp] theorem signal_ram (v : Nat) : (signal c v).ram = c.ram := rfl
@[simp] theorem signal_poisonReads (v : Nat) : (signal c v).poisonReads = c.poisonReads := rfl
@[simp] theorem signal_unwrittenReads (v : Nat) : (signal c v).unwrittenReads = c.unwrittenReads := rfl
@[simp] theorem signal_linearMcs (v : Nat) : (signal c v).linearMcs = c.linearMcs := rfl
@[simp] theorem signal_movers (v : Nat) : (signal c v).movers = c.movers := rfl
@[simp] theorem signal_workRate (v : Nat) : (signal c v).workRate = c.workRate := rfl
@[simp] theorem signal_moverOut (v : Nat) : (signal c v).moverOut = c.moverOut := rfl
@[simp] theorem signal_laneUi (v : Nat) : (signal c v).laneUi = c.laneUi := rfl
@[simp] theorem signal_lanes (v : Nat) : (signal c v).lanes = c.lanes := rfl
@[simp] theorem signal_quads (v : Nat) : (signal c v).quads = c.quads := rfl
@[simp] theorem signal_drivers (v : Nat) : (signal c v).drivers = c.drivers := rfl
@[simp] theorem signal_power (v : Nat) : (signal c v).power = c.power := rfl
@[simp] theorem signal_faults (v : Nat) : (signal c v).faults = c.faults := rfl
@[simp] theorem signal_cal (v : Nat) : (signal c v).cal = c.cal := rfl
@[simp] theorem signal_perf (v : Nat) : (signal c v).perf = c.perf := rfl
@[simp] theorem signal_thermal (v : Nat) : (signal c v).thermal = c.thermal := rfl
@[simp] theorem signal_out (v : Nat) : (signal c v).out = c.out := rfl
@[simp] theorem signal_signals (v : Nat) : (signal c v).signals = c.signals ++ [.cause v] := rfl
@[simp] theorem signal_free (v : Nat) : (signal c v).free = c.free := rfl

/-! ### `raiseFor` -/

@[simp] theorem raiseFor_time (code : Nat) (tag : U32) (session : Nat) (data : List U32) : (raiseFor c code tag session data).time = c.time := rfl
@[simp] theorem raiseFor_start (code : Nat) (tag : U32) (session : Nat) (data : List U32) : (raiseFor c code tag session data).start = c.start := rfl
@[simp] theorem raiseFor_shadow (code : Nat) (tag : U32) (session : Nat) (data : List U32) : (raiseFor c code tag session data).shadow = c.shadow := rfl
@[simp] theorem raiseFor_flash (code : Nat) (tag : U32) (session : Nat) (data : List U32) : (raiseFor c code tag session data).flash = c.flash := rfl
@[simp] theorem raiseFor_cfg (code : Nat) (tag : U32) (session : Nat) (data : List U32) : (raiseFor c code tag session data).cfg = c.cfg := rfl
@[simp] theorem raiseFor_sm (code : Nat) (tag : U32) (session : Nat) (data : List U32) : (raiseFor c code tag session data).sm = c.sm := rfl
@[simp] theorem raiseFor_sysReady (code : Nat) (tag : U32) (session : Nat) (data : List U32) : (raiseFor c code tag session data).sysReady = c.sysReady := rfl
@[simp] theorem raiseFor_porLow (code : Nat) (tag : U32) (session : Nat) (data : List U32) : (raiseFor c code tag session data).porLow = c.porLow := rfl
@[simp] theorem raiseFor_pcie (code : Nat) (tag : U32) (session : Nat) (data : List U32) : (raiseFor c code tag session data).pcie = c.pcie := rfl
@[simp] theorem raiseFor_cci (code : Nat) (tag : U32) (session : Nat) (data : List U32) : (raiseFor c code tag session data).cci = c.cci := rfl
@[simp] theorem raiseFor_limits (code : Nat) (tag : U32) (session : Nat) (data : List U32) : (raiseFor c code tag session data).limits = c.limits := rfl
@[simp] theorem raiseFor_eth (code : Nat) (tag : U32) (session : Nat) (data : List U32) : (raiseFor c code tag session data).eth = c.eth := rfl
@[simp] theorem raiseFor_streams (code : Nat) (tag : U32) (session : Nat) (data : List U32) : (raiseFor c code tag session data).streams = c.streams := rfl
@[simp] theorem raiseFor_decs (code : Nat) (tag : U32) (session : Nat) (data : List U32) : (raiseFor c code tag session data).decs = c.decs := rfl
@[simp] theorem raiseFor_store (code : Nat) (tag : U32) (session : Nat) (data : List U32) : (raiseFor c code tag session data).store = c.store := rfl
@[simp] theorem raiseFor_tables (code : Nat) (tag : U32) (session : Nat) (data : List U32) : (raiseFor c code tag session data).tables = c.tables := rfl
@[simp] theorem raiseFor_tableGen (code : Nat) (tag : U32) (session : Nat) (data : List U32) : (raiseFor c code tag session data).tableGen = c.tableGen := rfl
@[simp] theorem raiseFor_ports (code : Nat) (tag : U32) (session : Nat) (data : List U32) : (raiseFor c code tag session data).ports = c.ports := rfl
@[simp] theorem raiseFor_regions (code : Nat) (tag : U32) (session : Nat) (data : List U32) : (raiseFor c code tag session data).regions = c.regions := rfl
@[simp] theorem raiseFor_layers (code : Nat) (tag : U32) (session : Nat) (data : List U32) : (raiseFor c code tag session data).layers = c.layers := rfl
@[simp] theorem raiseFor_surfs (code : Nat) (tag : U32) (session : Nat) (data : List U32) : (raiseFor c code tag session data).surfs = c.surfs := rfl
@[simp] theorem raiseFor_mems (code : Nat) (tag : U32) (session : Nat) (data : List U32) : (raiseFor c code tag session data).mems = c.mems := rfl
@[simp] theorem raiseFor_areas (code : Nat) (tag : U32) (session : Nat) (data : List U32) : (raiseFor c code tag session data).areas = c.areas := rfl
@[simp] theorem raiseFor_mcs (code : Nat) (tag : U32) (session : Nat) (data : List U32) : (raiseFor c code tag session data).mcs = c.mcs := rfl
@[simp] theorem raiseFor_banks (code : Nat) (tag : U32) (session : Nat) (data : List U32) : (raiseFor c code tag session data).banks = c.banks := rfl
@[simp] theorem raiseFor_written (code : Nat) (tag : U32) (session : Nat) (data : List U32) : (raiseFor c code tag session data).written = c.written := rfl
@[simp] theorem raiseFor_poison (code : Nat) (tag : U32) (session : Nat) (data : List U32) : (raiseFor c code tag session data).poison = c.poison := rfl
@[simp] theorem raiseFor_crcBad (code : Nat) (tag : U32) (session : Nat) (data : List U32) : (raiseFor c code tag session data).crcBad = c.crcBad := rfl
@[simp] theorem raiseFor_repairs (code : Nat) (tag : U32) (session : Nat) (data : List U32) : (raiseFor c code tag session data).repairs = c.repairs := rfl
@[simp] theorem raiseFor_ram (code : Nat) (tag : U32) (session : Nat) (data : List U32) : (raiseFor c code tag session data).ram = c.ram := rfl
@[simp] theorem raiseFor_poisonReads (code : Nat) (tag : U32) (session : Nat) (data : List U32) : (raiseFor c code tag session data).poisonReads = c.poisonReads := rfl
@[simp] theorem raiseFor_unwrittenReads (code : Nat) (tag : U32) (session : Nat) (data : List U32) : (raiseFor c code tag session data).unwrittenReads = c.unwrittenReads := rfl
@[simp] theorem raiseFor_linearMcs (code : Nat) (tag : U32) (session : Nat) (data : List U32) : (raiseFor c code tag session data).linearMcs = c.linearMcs := rfl
@[simp] theorem raiseFor_movers (code : Nat) (tag : U32) (session : Nat) (data : List U32) : (raiseFor c code tag session data).movers = c.movers := rfl
@[simp] theorem raiseFor_workRate (code : Nat) (tag : U32) (session : Nat) (data : List U32) : (raiseFor c code tag session data).workRate = c.workRate := rfl
@[simp] theorem raiseFor_moverOut (code : Nat) (tag : U32) (session : Nat) (data : List U32) : (raiseFor c code tag session data).moverOut = c.moverOut := rfl
@[simp] theorem raiseFor_laneUi (code : Nat) (tag : U32) (session : Nat) (data : List U32) : (raiseFor c code tag session data).laneUi = c.laneUi := rfl
@[simp] theorem raiseFor_lanes (code : Nat) (tag : U32) (session : Nat) (data : List U32) : (raiseFor c code tag session data).lanes = c.lanes := rfl
@[simp] theorem raiseFor_quads (code : Nat) (tag : U32) (session : Nat) (data : List U32) : (raiseFor c code tag session data).quads = c.quads := rfl
@[simp] theorem raiseFor_drivers (code : Nat) (tag : U32) (session : Nat) (data : List U32) : (raiseFor c code tag session data).drivers = c.drivers := rfl
@[simp] theorem raiseFor_power (code : Nat) (tag : U32) (session : Nat) (data : List U32) : (raiseFor c code tag session data).power = c.power := rfl
@[simp] theorem raiseFor_faults (code : Nat) (tag : U32) (session : Nat) (data : List U32) : (raiseFor c code tag session data).faults = c.faults := rfl
@[simp] theorem raiseFor_cal (code : Nat) (tag : U32) (session : Nat) (data : List U32) : (raiseFor c code tag session data).cal = c.cal := rfl
@[simp] theorem raiseFor_perf (code : Nat) (tag : U32) (session : Nat) (data : List U32) : (raiseFor c code tag session data).perf = c.perf := rfl
@[simp] theorem raiseFor_thermal (code : Nat) (tag : U32) (session : Nat) (data : List U32) : (raiseFor c code tag session data).thermal = c.thermal := rfl
@[simp] theorem raiseFor_out (code : Nat) (tag : U32) (session : Nat) (data : List U32) : (raiseFor c code tag session data).out = c.out := rfl
@[simp] theorem raiseFor_signals (code : Nat) (tag : U32) (session : Nat) (data : List U32) : (raiseFor c code tag session data).signals = c.signals ++ [.event (mkEvent c code tag session data)] := rfl
@[simp] theorem raiseFor_free (code : Nat) (tag : U32) (session : Nat) (data : List U32) : (raiseFor c code tag session data).free = c.free := rfl

/-! ### `raise` -/

@[simp] theorem raise_time (code : Nat) (data : List U32) : (raise c code data).time = c.time := rfl
@[simp] theorem raise_start (code : Nat) (data : List U32) : (raise c code data).start = c.start := rfl
@[simp] theorem raise_shadow (code : Nat) (data : List U32) : (raise c code data).shadow = c.shadow := rfl
@[simp] theorem raise_flash (code : Nat) (data : List U32) : (raise c code data).flash = c.flash := rfl
@[simp] theorem raise_cfg (code : Nat) (data : List U32) : (raise c code data).cfg = c.cfg := rfl
@[simp] theorem raise_sm (code : Nat) (data : List U32) : (raise c code data).sm = c.sm := rfl
@[simp] theorem raise_sysReady (code : Nat) (data : List U32) : (raise c code data).sysReady = c.sysReady := rfl
@[simp] theorem raise_porLow (code : Nat) (data : List U32) : (raise c code data).porLow = c.porLow := rfl
@[simp] theorem raise_pcie (code : Nat) (data : List U32) : (raise c code data).pcie = c.pcie := rfl
@[simp] theorem raise_cci (code : Nat) (data : List U32) : (raise c code data).cci = c.cci := rfl
@[simp] theorem raise_limits (code : Nat) (data : List U32) : (raise c code data).limits = c.limits := rfl
@[simp] theorem raise_eth (code : Nat) (data : List U32) : (raise c code data).eth = c.eth := rfl
@[simp] theorem raise_streams (code : Nat) (data : List U32) : (raise c code data).streams = c.streams := rfl
@[simp] theorem raise_decs (code : Nat) (data : List U32) : (raise c code data).decs = c.decs := rfl
@[simp] theorem raise_store (code : Nat) (data : List U32) : (raise c code data).store = c.store := rfl
@[simp] theorem raise_tables (code : Nat) (data : List U32) : (raise c code data).tables = c.tables := rfl
@[simp] theorem raise_tableGen (code : Nat) (data : List U32) : (raise c code data).tableGen = c.tableGen := rfl
@[simp] theorem raise_ports (code : Nat) (data : List U32) : (raise c code data).ports = c.ports := rfl
@[simp] theorem raise_regions (code : Nat) (data : List U32) : (raise c code data).regions = c.regions := rfl
@[simp] theorem raise_layers (code : Nat) (data : List U32) : (raise c code data).layers = c.layers := rfl
@[simp] theorem raise_surfs (code : Nat) (data : List U32) : (raise c code data).surfs = c.surfs := rfl
@[simp] theorem raise_mems (code : Nat) (data : List U32) : (raise c code data).mems = c.mems := rfl
@[simp] theorem raise_areas (code : Nat) (data : List U32) : (raise c code data).areas = c.areas := rfl
@[simp] theorem raise_mcs (code : Nat) (data : List U32) : (raise c code data).mcs = c.mcs := rfl
@[simp] theorem raise_banks (code : Nat) (data : List U32) : (raise c code data).banks = c.banks := rfl
@[simp] theorem raise_written (code : Nat) (data : List U32) : (raise c code data).written = c.written := rfl
@[simp] theorem raise_poison (code : Nat) (data : List U32) : (raise c code data).poison = c.poison := rfl
@[simp] theorem raise_crcBad (code : Nat) (data : List U32) : (raise c code data).crcBad = c.crcBad := rfl
@[simp] theorem raise_repairs (code : Nat) (data : List U32) : (raise c code data).repairs = c.repairs := rfl
@[simp] theorem raise_ram (code : Nat) (data : List U32) : (raise c code data).ram = c.ram := rfl
@[simp] theorem raise_poisonReads (code : Nat) (data : List U32) : (raise c code data).poisonReads = c.poisonReads := rfl
@[simp] theorem raise_unwrittenReads (code : Nat) (data : List U32) : (raise c code data).unwrittenReads = c.unwrittenReads := rfl
@[simp] theorem raise_linearMcs (code : Nat) (data : List U32) : (raise c code data).linearMcs = c.linearMcs := rfl
@[simp] theorem raise_movers (code : Nat) (data : List U32) : (raise c code data).movers = c.movers := rfl
@[simp] theorem raise_workRate (code : Nat) (data : List U32) : (raise c code data).workRate = c.workRate := rfl
@[simp] theorem raise_moverOut (code : Nat) (data : List U32) : (raise c code data).moverOut = c.moverOut := rfl
@[simp] theorem raise_laneUi (code : Nat) (data : List U32) : (raise c code data).laneUi = c.laneUi := rfl
@[simp] theorem raise_lanes (code : Nat) (data : List U32) : (raise c code data).lanes = c.lanes := rfl
@[simp] theorem raise_quads (code : Nat) (data : List U32) : (raise c code data).quads = c.quads := rfl
@[simp] theorem raise_drivers (code : Nat) (data : List U32) : (raise c code data).drivers = c.drivers := rfl
@[simp] theorem raise_power (code : Nat) (data : List U32) : (raise c code data).power = c.power := rfl
@[simp] theorem raise_faults (code : Nat) (data : List U32) : (raise c code data).faults = c.faults := rfl
@[simp] theorem raise_cal (code : Nat) (data : List U32) : (raise c code data).cal = c.cal := rfl
@[simp] theorem raise_perf (code : Nat) (data : List U32) : (raise c code data).perf = c.perf := rfl
@[simp] theorem raise_thermal (code : Nat) (data : List U32) : (raise c code data).thermal = c.thermal := rfl
@[simp] theorem raise_out (code : Nat) (data : List U32) : (raise c code data).out = c.out := rfl
@[simp] theorem raise_signals (code : Nat) (data : List U32) : (raise c code data).signals = c.signals ++ [.event (mkEvent c code 0 0xFFFF data)] := rfl
@[simp] theorem raise_free (code : Nat) (data : List U32) : (raise c code data).free = c.free := rfl

/-! ### `raiseOwn` -/

@[simp] theorem raiseOwn_time (owner code : Nat) (data : List U32) : (raiseOwn c owner code data).time = c.time := rfl
@[simp] theorem raiseOwn_start (owner code : Nat) (data : List U32) : (raiseOwn c owner code data).start = c.start := rfl
@[simp] theorem raiseOwn_shadow (owner code : Nat) (data : List U32) : (raiseOwn c owner code data).shadow = c.shadow := rfl
@[simp] theorem raiseOwn_flash (owner code : Nat) (data : List U32) : (raiseOwn c owner code data).flash = c.flash := rfl
@[simp] theorem raiseOwn_cfg (owner code : Nat) (data : List U32) : (raiseOwn c owner code data).cfg = c.cfg := rfl
@[simp] theorem raiseOwn_sm (owner code : Nat) (data : List U32) : (raiseOwn c owner code data).sm = c.sm := rfl
@[simp] theorem raiseOwn_sysReady (owner code : Nat) (data : List U32) : (raiseOwn c owner code data).sysReady = c.sysReady := rfl
@[simp] theorem raiseOwn_porLow (owner code : Nat) (data : List U32) : (raiseOwn c owner code data).porLow = c.porLow := rfl
@[simp] theorem raiseOwn_pcie (owner code : Nat) (data : List U32) : (raiseOwn c owner code data).pcie = c.pcie := rfl
@[simp] theorem raiseOwn_cci (owner code : Nat) (data : List U32) : (raiseOwn c owner code data).cci = c.cci := rfl
@[simp] theorem raiseOwn_limits (owner code : Nat) (data : List U32) : (raiseOwn c owner code data).limits = c.limits := rfl
@[simp] theorem raiseOwn_eth (owner code : Nat) (data : List U32) : (raiseOwn c owner code data).eth = c.eth := rfl
@[simp] theorem raiseOwn_streams (owner code : Nat) (data : List U32) : (raiseOwn c owner code data).streams = c.streams := rfl
@[simp] theorem raiseOwn_decs (owner code : Nat) (data : List U32) : (raiseOwn c owner code data).decs = c.decs := rfl
@[simp] theorem raiseOwn_store (owner code : Nat) (data : List U32) : (raiseOwn c owner code data).store = c.store := rfl
@[simp] theorem raiseOwn_tables (owner code : Nat) (data : List U32) : (raiseOwn c owner code data).tables = c.tables := rfl
@[simp] theorem raiseOwn_tableGen (owner code : Nat) (data : List U32) : (raiseOwn c owner code data).tableGen = c.tableGen := rfl
@[simp] theorem raiseOwn_ports (owner code : Nat) (data : List U32) : (raiseOwn c owner code data).ports = c.ports := rfl
@[simp] theorem raiseOwn_regions (owner code : Nat) (data : List U32) : (raiseOwn c owner code data).regions = c.regions := rfl
@[simp] theorem raiseOwn_layers (owner code : Nat) (data : List U32) : (raiseOwn c owner code data).layers = c.layers := rfl
@[simp] theorem raiseOwn_surfs (owner code : Nat) (data : List U32) : (raiseOwn c owner code data).surfs = c.surfs := rfl
@[simp] theorem raiseOwn_mems (owner code : Nat) (data : List U32) : (raiseOwn c owner code data).mems = c.mems := rfl
@[simp] theorem raiseOwn_areas (owner code : Nat) (data : List U32) : (raiseOwn c owner code data).areas = c.areas := rfl
@[simp] theorem raiseOwn_mcs (owner code : Nat) (data : List U32) : (raiseOwn c owner code data).mcs = c.mcs := rfl
@[simp] theorem raiseOwn_banks (owner code : Nat) (data : List U32) : (raiseOwn c owner code data).banks = c.banks := rfl
@[simp] theorem raiseOwn_written (owner code : Nat) (data : List U32) : (raiseOwn c owner code data).written = c.written := rfl
@[simp] theorem raiseOwn_poison (owner code : Nat) (data : List U32) : (raiseOwn c owner code data).poison = c.poison := rfl
@[simp] theorem raiseOwn_crcBad (owner code : Nat) (data : List U32) : (raiseOwn c owner code data).crcBad = c.crcBad := rfl
@[simp] theorem raiseOwn_repairs (owner code : Nat) (data : List U32) : (raiseOwn c owner code data).repairs = c.repairs := rfl
@[simp] theorem raiseOwn_ram (owner code : Nat) (data : List U32) : (raiseOwn c owner code data).ram = c.ram := rfl
@[simp] theorem raiseOwn_poisonReads (owner code : Nat) (data : List U32) : (raiseOwn c owner code data).poisonReads = c.poisonReads := rfl
@[simp] theorem raiseOwn_unwrittenReads (owner code : Nat) (data : List U32) : (raiseOwn c owner code data).unwrittenReads = c.unwrittenReads := rfl
@[simp] theorem raiseOwn_linearMcs (owner code : Nat) (data : List U32) : (raiseOwn c owner code data).linearMcs = c.linearMcs := rfl
@[simp] theorem raiseOwn_movers (owner code : Nat) (data : List U32) : (raiseOwn c owner code data).movers = c.movers := rfl
@[simp] theorem raiseOwn_workRate (owner code : Nat) (data : List U32) : (raiseOwn c owner code data).workRate = c.workRate := rfl
@[simp] theorem raiseOwn_moverOut (owner code : Nat) (data : List U32) : (raiseOwn c owner code data).moverOut = c.moverOut := rfl
@[simp] theorem raiseOwn_laneUi (owner code : Nat) (data : List U32) : (raiseOwn c owner code data).laneUi = c.laneUi := rfl
@[simp] theorem raiseOwn_lanes (owner code : Nat) (data : List U32) : (raiseOwn c owner code data).lanes = c.lanes := rfl
@[simp] theorem raiseOwn_quads (owner code : Nat) (data : List U32) : (raiseOwn c owner code data).quads = c.quads := rfl
@[simp] theorem raiseOwn_drivers (owner code : Nat) (data : List U32) : (raiseOwn c owner code data).drivers = c.drivers := rfl
@[simp] theorem raiseOwn_power (owner code : Nat) (data : List U32) : (raiseOwn c owner code data).power = c.power := rfl
@[simp] theorem raiseOwn_faults (owner code : Nat) (data : List U32) : (raiseOwn c owner code data).faults = c.faults := rfl
@[simp] theorem raiseOwn_cal (owner code : Nat) (data : List U32) : (raiseOwn c owner code data).cal = c.cal := rfl
@[simp] theorem raiseOwn_perf (owner code : Nat) (data : List U32) : (raiseOwn c owner code data).perf = c.perf := rfl
@[simp] theorem raiseOwn_thermal (owner code : Nat) (data : List U32) : (raiseOwn c owner code data).thermal = c.thermal := rfl
@[simp] theorem raiseOwn_out (owner code : Nat) (data : List U32) : (raiseOwn c owner code data).out = c.out := rfl
@[simp] theorem raiseOwn_signals (owner code : Nat) (data : List U32) : (raiseOwn c owner code data).signals = c.signals ++ [.event (mkEvent c code 0 (if owner = 0 then 0xFFFF else owner) data)] := rfl
@[simp] theorem raiseOwn_free (owner code : Nat) (data : List U32) : (raiseOwn c owner code data).free = c.free := rfl

/-! ### `setNs` -/

@[simp] theorem setNs_time (t : Nat) : (setNs c t).time = { c.time with sec := BitVec.ofNat 48 (t / 1000000000), ns := BitVec.ofNat 30 (t % 1000000000), frac := 0 } := rfl
@[simp] theorem setNs_start (t : Nat) : (setNs c t).start = c.start := rfl
@[simp] theorem setNs_shadow (t : Nat) : (setNs c t).shadow = c.shadow := rfl
@[simp] theorem setNs_flash (t : Nat) : (setNs c t).flash = c.flash := rfl
@[simp] theorem setNs_cfg (t : Nat) : (setNs c t).cfg = c.cfg := rfl
@[simp] theorem setNs_sm (t : Nat) : (setNs c t).sm = c.sm := rfl
@[simp] theorem setNs_sysReady (t : Nat) : (setNs c t).sysReady = c.sysReady := rfl
@[simp] theorem setNs_porLow (t : Nat) : (setNs c t).porLow = c.porLow := rfl
@[simp] theorem setNs_pcie (t : Nat) : (setNs c t).pcie = c.pcie := rfl
@[simp] theorem setNs_cci (t : Nat) : (setNs c t).cci = c.cci := rfl
@[simp] theorem setNs_limits (t : Nat) : (setNs c t).limits = c.limits := rfl
@[simp] theorem setNs_eth (t : Nat) : (setNs c t).eth = c.eth := rfl
@[simp] theorem setNs_streams (t : Nat) : (setNs c t).streams = c.streams := rfl
@[simp] theorem setNs_decs (t : Nat) : (setNs c t).decs = c.decs := rfl
@[simp] theorem setNs_store (t : Nat) : (setNs c t).store = c.store := rfl
@[simp] theorem setNs_tables (t : Nat) : (setNs c t).tables = c.tables := rfl
@[simp] theorem setNs_tableGen (t : Nat) : (setNs c t).tableGen = c.tableGen := rfl
@[simp] theorem setNs_ports (t : Nat) : (setNs c t).ports = c.ports := rfl
@[simp] theorem setNs_regions (t : Nat) : (setNs c t).regions = c.regions := rfl
@[simp] theorem setNs_layers (t : Nat) : (setNs c t).layers = c.layers := rfl
@[simp] theorem setNs_surfs (t : Nat) : (setNs c t).surfs = c.surfs := rfl
@[simp] theorem setNs_mems (t : Nat) : (setNs c t).mems = c.mems := rfl
@[simp] theorem setNs_areas (t : Nat) : (setNs c t).areas = c.areas := rfl
@[simp] theorem setNs_mcs (t : Nat) : (setNs c t).mcs = c.mcs := rfl
@[simp] theorem setNs_banks (t : Nat) : (setNs c t).banks = c.banks := rfl
@[simp] theorem setNs_written (t : Nat) : (setNs c t).written = c.written := rfl
@[simp] theorem setNs_poison (t : Nat) : (setNs c t).poison = c.poison := rfl
@[simp] theorem setNs_crcBad (t : Nat) : (setNs c t).crcBad = c.crcBad := rfl
@[simp] theorem setNs_repairs (t : Nat) : (setNs c t).repairs = c.repairs := rfl
@[simp] theorem setNs_ram (t : Nat) : (setNs c t).ram = c.ram := rfl
@[simp] theorem setNs_poisonReads (t : Nat) : (setNs c t).poisonReads = c.poisonReads := rfl
@[simp] theorem setNs_unwrittenReads (t : Nat) : (setNs c t).unwrittenReads = c.unwrittenReads := rfl
@[simp] theorem setNs_linearMcs (t : Nat) : (setNs c t).linearMcs = c.linearMcs := rfl
@[simp] theorem setNs_movers (t : Nat) : (setNs c t).movers = c.movers := rfl
@[simp] theorem setNs_workRate (t : Nat) : (setNs c t).workRate = c.workRate := rfl
@[simp] theorem setNs_moverOut (t : Nat) : (setNs c t).moverOut = c.moverOut := rfl
@[simp] theorem setNs_laneUi (t : Nat) : (setNs c t).laneUi = c.laneUi := rfl
@[simp] theorem setNs_lanes (t : Nat) : (setNs c t).lanes = c.lanes := rfl
@[simp] theorem setNs_quads (t : Nat) : (setNs c t).quads = c.quads := rfl
@[simp] theorem setNs_drivers (t : Nat) : (setNs c t).drivers = c.drivers := rfl
@[simp] theorem setNs_power (t : Nat) : (setNs c t).power = c.power := rfl
@[simp] theorem setNs_faults (t : Nat) : (setNs c t).faults = c.faults := rfl
@[simp] theorem setNs_cal (t : Nat) : (setNs c t).cal = c.cal := rfl
@[simp] theorem setNs_perf (t : Nat) : (setNs c t).perf = c.perf := rfl
@[simp] theorem setNs_thermal (t : Nat) : (setNs c t).thermal = c.thermal := rfl
@[simp] theorem setNs_out (t : Nat) : (setNs c t).out = c.out := rfl
@[simp] theorem setNs_signals (t : Nat) : (setNs c t).signals = c.signals := rfl
@[simp] theorem setNs_free (t : Nat) : (setNs c t).free = c.free := rfl

end

end Sys2Proof.Machine
end

