-- ==== Sys2Proof/Machine/Context.lean ====
section
/-!
DEFINITION. The decoder context memory (R157, Table 5-12): the bytes of the contexts that `Channel` and `Stream` hold. The
flags bytes to which Table 5-12 gives no meaning are 0 (log 97).
-/

namespace Sys2Proof.Machine

/-- Bytes filled up with zeros to a length. -/
def padTo (n : Nat) (l : List Byte) : List Byte := l.take n ++ List.replicate (n - l.length) 0#8

/-- A frame header in bitstream byte order (Table 5-2). -/
def frameHdrBytes (h : List Nat) : List Byte :=
  if h = [] then List.replicate 12 0#8
  else beBytes (2 ^ 28 + nth h 0 * 2 ^ 27 + (nth h 1 - 1) * 2 ^ 22 + (nth h 2 - 8) / 2 * 2 ^ 20) 4 ++
    beBytes (nth h 3 * 2 ^ 16 + nth h 4) 4 ++ beBytes (nth h 5 * 2 ^ 24) 4
/-- A plane header in bitstream byte order (Table 5-3). -/
def planeHdrBytes (a : HistArray) : List Byte :=
  let s32 := fun (x : Int) => (x % 2 ^ 32).toNat
  beBytes (if a.ray then 0 else a.w * 2 ^ 16 + a.h) 4 ++ beBytes (s32 a.z) 4 ++ beBytes (s32 a.orgX) 4 ++ beBytes (s32 a.orgY) 4 ++
    beBytes (a.pitch * 2 ^ 16 + a.array * 2 ^ 8) 4

/-- A slot of SLOTS: GEN, first frame, flags (valid, doubtful), lengths. -/
def slotBytes (t : DynSlot) : List Byte :=
  leBytes t.gen 4 ++ leBytes t.firstFrame 4 ++ leBytes (b01 t.valid + 2 * b01 t.doubt) 4 ++ leBytes 0 4 ++
    (List.range 48).map (fun k => BitVec.ofNat 8 (nth t.lens (2 * k) * 16 + nth t.lens (2 * k + 1)))

/-- PLANE_PROGRESS of array n: the first frame in decoding that has not finished it, else the newest that holds it since the
context was last restored (R158). -/
def progressBytes (ch : Channel) (n : Nat) : List Byte :=
  let open_ := ch.frames.find? (fun x => match ch.hist.find? (fun a => a.frame = x.num && a.array = n) with
    | some a => a.rows.contains []
    | none => n < arraysSeen ch x)
  let done := ch.hist.find? (fun a => a.array = n && !a.restored)
  let f := match open_, done with
    | some x, _ => some x.num
    | none, some a => some a.frame
    | none, none => none
  match f with
  | none => List.replicate 32 0#8
  | some f =>
    let a := (ch.hist.find? (fun a => a.frame = f && a.array = n)).getD ((shapeFor ch f n).getD {})
    let x := (sceneFrame? ch f).getD {}
    padTo 32 (leBytes f 4 ++ leBytes (a.rows.takeWhile (· ≠ [])).length 2 ++ leBytes a.rows.length 2 ++
      (List.range 4).flatMap (fun k => leBytes ((f + 4 - k) % 4) 1) ++ leBytes (w32 (f + 2 ^ 32 - ch.ctx.chainStation) + 1) 1 ++
      leBytes (b01 x.late + 2 * b01 x.concealed) 1)

/-- The packet, and the byte within its payload, at which byte `off` of a tile row lies. -/
def readPosition : List (Nat × Nat) → Nat → Nat × Nat
  | [], _ => (0, 0)
  | [p], off => (p.1, off)
  | p :: l, off => if off < p.2 then (p.1, off) else readPosition l (off - p.2)
/-- ROW_STATE of a tile row (R154). -/
def rowStateBytes (f : Nat) (d : RowData) (s : RowState) : List Byte :=
  let s16 := fun (x : Int) => (x % 2 ^ 16).toNat
  let bits := s.unread.take 64
  let at_ := readPosition d.parts (s.pos / 8 + (if d.row = 0 then 32 else 0))
  padTo 64 (leBytes f 4 ++ leBytes d.array 1 ++ leBytes 0 1 ++ leBytes d.row 2 ++ leBytes s.position 4 ++ leBytes s.kind 1 ++
    leBytes s.tabsel 1 ++ leBytes s.remaining 2 ++ leBytes s.ref 1 ++ leBytes s.comp 1 ++ leBytes (b01 s.zeroRest) 1 ++ leBytes 0 1 ++
    leBytes (s16 s.dy) 2 ++ leBytes (s16 s.dx) 2 ++ (List.range 4).flatMap (fun k => leBytes (nth s.seed k) 2) ++ leBytes s.check 4 ++
    leBytes at_.1 4 ++ leBytes at_.2 2 ++ leBytes bits.length 1 ++ leBytes 0 1 ++
    leBytes (bits.foldl (fun n b => 2 * n + b01 b) 0) 8)
/-- The tile rows of a channel in progress, as they began, and those suspended. -/
def rowStates (c : Chip) (i : Nat) (item : Bool) : List (List Byte) :=
  let inHand := fun (f : Nat) (d : RowData) => c.decs.any (fun e => e.work = some (i, item, f, d.array, d.row))
  (chan c i item).frames.flatMap (fun x => x.rows.filterMap (fun d =>
    (d.saved.or (if inHand x.num d then some {} else none)).map (rowStateBytes x.num d)))

/-- The slots' versions in force for the earliest frame in decoding, where a later table has replaced them. -/
def priorSlots (ch : Channel) : List DynSlot :=
  let old := (ch.frames.headD {}).slots
  (List.range 4).map (fun k => if ch.frames ≠ [] && nth old k ≠ nth ch.ctx.slots k then nth old k else {})

/-- The address of an offset in the history reserve: in the linear order of the area's controllers (R313). -/
def historyAddress (c : Chip) (off : Nat) : Nat := match findArea c 5 0 with
  | some a => a.base * a.mcs.length * 4096 + off
  | none => off

/-- A context's 64 KiB with STATE as given: 0 empty, 1 unanchored, 2 anchored, 3 saved. -/
def contextBytes (c : Chip) (i : Nat) (item : Bool) (state : Nat) : List Byte :=
  let s := stream c i
  let ch := if state = 0 then {} else chan c i item
  let rows := if state = 0 then [] else rowStates c i item
  let x := ch.ctx
  let mask := fun (f : DynSlot → Bool) => maskOf ((List.range 4).filter (fun k => f (nth x.slots k)))
  let planes := (List.range 32).flatMap (fun n => match ch.hist.find? (fun a => a.array = n) with
    | some a => planeHdrBytes a
    | none => List.replicate 20 0#8)
  let head := leBytes 0x44435458 4 ++ leBytes (1 + i * 2 ^ 16 + state * 2 ^ 20) 4 ++ leBytes x.chainStation 4 ++
    leBytes (x.lastFrame.getD 0) 4 ++ leBytes x.doneFrame 4 ++ leBytes x.lastGen 4 ++
    leBytes (mask (·.valid) + 16 * mask (·.doubt)) 4 ++ frameHdrBytes (newestHdr ch) ++
    leBytes (historyAddress c s.histBase) 8 ++ leBytes (cdiv s.reserve 4096) 4 ++ List.replicate 12 0#8
  let b := padTo 0x400 (head ++ planes) ++ (List.range 32).flatMap (progressBytes ch) ++
    padTo 0x800 (rows.take 32).flatten ++ (List.range 4).flatMap (fun k => slotBytes (nth x.slots k)) ++
    (priorSlots ch).flatMap slotBytes ++ List.replicate 0xEE00 0#8
  patch b 0x3C (leBytes (crc32c b) 4)

/-- The decoder context memory of 2 MiB: the live contexts of streams 0 to 15, then their saved ones (log 97). -/
def contextMemory (c : Chip) : List Byte :=
  (List.range 16).flatMap (fun i =>
    let s := stream c i
    if s.st = .unbound then contextBytes c i false 0
    else if itemPlays s then contextBytes c i true (if s.item.ctx.anchored then 2 else 1)
    else contextBytes c i false (if s.live.ctx.anchored then 2 else 1)) ++
  (List.range 16).flatMap (fun i =>
    let s := stream c i
    if s.st ≠ .unbound && itemPlays s then contextBytes c i false 3 else contextBytes c i false 0)
/-- R158: the CRC of a context is right. -/
def contextGood (b : List Byte) : Bool := le32 b 0x3C = crcZeroed b 0x3C

end Sys2Proof.Machine
end

