-- ==== Sys2Proof/Machine/Registers.lean ====
section
/-!
DEFINITION. What reads of the host interface return (R424, R427 to R440, R418, R97): a read of BAR0, of the configuration
space's identity and of the I²C target changes nothing, so the table has no row for it, and its answer is a function of the state.
-/

namespace Sys2Proof.Machine

/-- HIF_START (Table 17-3). -/
def startWord (c : Chip) : Nat :=
  startCode c.start.st + startKind c * 2 ^ 4 + runningSlot c * 2 ^ 5 + reliefStands c * 2 ^ 6 + b01 (allSeeded c) * 2 ^ 7 +
    activePair c * 2 ^ 8 + b01 c.sysReady * 2 ^ 9
/-- PART of HIF_ID, which is the Device ID too (Tables 17-1 and 17-3). -/
def partNumber (c : Chip) : Nat := if fullPart c then 0x9648 else 0x9624
/-- IDCODE of the test access port: revision A2, the part number and Eloavia's identity (R451, Table 18-11). -/
def idcode (c : Chip) : Nat := 0x2 * 2 ^ 28 + partNumber c * 2 ^ 12 + 0x2F1 * 2 + 1
/-- The port offers an instruction (R451): those beyond BYPASS, IDCODE and SAMPLE/PRELOAD need TEST_EN high and POR_N low. -/
def tapOffers (s : State) : TapInstr → Bool
  | .bypass | .idcode | .samplePreload => true
  | .other => s.tap.testEn && s.chip.porLow
/-- The port selects an instruction; TRST_N low holds it in its own reset, and one that it does not offer selects BYPASS (PRESUMED,
IEEE 1149.1, log 86). Nothing but the port changes. -/
def tapSelect (i : TapInstr) (s : State) : State :=
  { s with tap := { s.tap with instr := if !s.tap.trstN then .idcode else if tapOffers s i then i else .bypass } }
/-- What the data register between TDI and TDO captures, least significant bit first: IDCODE's 32 bits, BYPASS's one bit 0; of the
boundary register and of other registers the spec gives no order (log 86). -/
def tapCapture (s : State) : Option (List Bool) :=
  match s.tap.instr with
  | .idcode => some ((List.range 32).map (idcode s.chip).testBit)
  | .bypass => some [false]
  | .samplePreload | .other => none
/-- The registers of Tables 17-3 to 17-7 by offset; write-only fields and offsets without a register read 0. -/
def readRegister (off : Nat) (s : State) : Nat :=
  let c := s.chip
  let h := s.hif
  match off with
  | 0x0000 => partNumber c * 65536 + 0xA2 * 256 + c.shadow.orderingCode.toNat
  | 0x0004 => c.shadow.deviceId.toNat % 2 ^ 32
  | 0x0008 => c.shadow.deviceId.toNat / 2 ^ 32
  | 0x000C => c.start.build.toNat
  | 0x0010 => startWord c
  | 0x1004 => h.inAccepted.toNat
  | 0x1008 => h.inConsumed.toNat
  | 0x100C => h.rspProduced.toNat
  | 0x1010 => h.rspConsumed.toNat
  | 0x1014 => h.evtProduced.toNat
  | 0x1018 => h.evtConsumed.toNat
  | 0x101C => h.doorbellBad.toNat
  | 0x1020 => h.discarded.toNat
  | 0x1024 => h.idxBad.toNat
  | 0x2000 => h.irqStatus.toNat
  | 0x2004 => h.irqMask.toNat
  | 0x2008 => h.holdoff * 65536 + h.threshold
  | 0x3000 => b01 h.aptMode1 + h.aptRegion * 256
  | 0x3004 => h.aptBase % 2 ^ 32
  | 0x3008 => h.aptBase / 2 ^ 32
  | 0x300C => h.linearSize.toNat
  | 0x3010 => h.aptStatus.toNat
  | 0x3014 => h.aptFault.toNat % 2 ^ 32
  | 0x3018 => h.aptFault.toNat / 2 ^ 32
  | 0x3020 => h.guardCount.toNat
  | 0x3024 => h.guardLast.toNat
  | 0x4008 => h.prfLastId.toNat
  | _ => 0
/-- A word of the MSI-X table or of its PBA. -/
def readMsix (off : Nat) (h : Hif) : Nat :=
  if off < 0x8200 then
    let e := nth h.msixTable ((off - 0x8000) / 16)
    match (off - 0x8000) / 4 % 4 with
    | 0 => e.1.toNat % 2 ^ 32
    | 1 => e.1.toNat / 2 ^ 32
    | 2 => e.2.1.toNat
    | _ => b01 e.2.2
  else if off = 0x9000 then h.pba.toNat else 0
/-- A register read of any size returns bytes of the containing word. -/
def readWord (off : Nat) (s : State) : List Byte :=
  let a := off / 4 * 4
  leBytes (if 0x8000 ≤ a && a < 0x9008 then readMsix a s.hif else readRegister a s) 4
/-- A slot of a ring that the controller writes, newest first in the list; a slot not written yet reads 0 (log 11). -/
def readSlot (ring : List (List U32)) (size produced i : Nat) : List Byte :=
  let back := (produced + size - 1 - i) % size
  if back < ring.length then slice (bytesOf (nth ring back)) 0 64 else List.replicate 64 0#8
/-- The counter window (Table 16-3). -/
def counterWindow (c : Chip) : List Byte :=
  let half := fun (m : Nat) (x : CounterWindow) => slice (windowBytes c m x) 0 0x2000
  half 0x5052464C c.perf.live ++ half 0x50524653 c.perf.snap
/-- A read of 1 to 64 bytes of BAR0 (Table 17-2). -/
def barRead (off n : Nat) (s : State) : List Byte :=
  let c := s.chip
  let h := s.hif
  let ring := fun (base : Nat) (slot : Nat → List Byte) => slice (slot ((off - base) / 64) ++ slot ((off - base) / 64 + 1)) ((off - base) % 64) n
  if off < 0x100000 then slice (readWord off s) (off % 4) (min n (4 - off % 4))
  else if off < 0x104000 then Memory.getBytes h.inRing (off - 0x100000) n
  else if off < 0x108000 then ring 0x104000 (readSlot h.rspRing 256 h.rspProduced.toNat)
  else if off < 0x118000 then ring 0x108000 (readSlot h.evtRing 1024 h.evtProduced.toNat)
  else if 0x200000 ≤ off && off < 0x204000 then slice (counterWindow c) (off - 0x200000) n
  else if 0x210000 ≤ off && off < 0x214000 then
    (if c.perf.userGrant then slice (counterWindow c) (off - 0x210000) n else List.replicate n 0#8)
  else List.replicate n 0#8

/-- A host read of BAR0: none where HP takes no memory request, as in D3hot, where it answers Unsupported Request (R424). -/
def hostRead (off n : Nat) (s : State) : Option (List Byte) := if hpReach s.chip then some (barRead off n s) else none

/-- A base address register: 64-bit, prefetchable, bytes. -/
structure PciBar where
  wide : Bool := true
  prefetchable : Bool := false
  bytes : Nat := 0
deriving DecidableEq, Repr, Inhabited
/-- The configuration space by name (Table 17-1, R425); a BAR that is not implemented is none. -/
structure PciConfig where
  vendor : Nat := 0x1F5C
  device : Nat := 0x9648
  revision : Nat := 0xA2
  classCode : Nat := 0x038000
  subsystemVendor : Nat := 0x1F5C
  subsystem : Nat := 0x0001
  /-- PCI Express generation and lanes at most -/
  linkSpeed : Nat := 5
  linkWidth : Nat := 4
  aspm : Bool := false
  maxPayload : Nat := 512
  tagBits : Nat := 10
  msi : Bool := false
  interruptPin : Nat := 0
  msixVectors : Nat := 32
  /-- MSI-X table and PBA: offsets in BAR0 -/
  msixTable : Nat := 0x8000
  msixPba : Nat := 0x9000
  /-- power management: D3hot beside D0, and whether the function is in it -/
  hasD3hot : Bool := true
  inD3hot : Bool := false
  busMaster : Bool := false
  advancedErrors : Bool := true
  serial : Nat := 0
  functionReset : Bool := true
  sriov : Bool := false
  ats : Bool := false
  pasid : Bool := false
  resizableBar : Bool := false
  expansionRom : Bool := false
  bar0 : Option PciBar := some { bytes := 16 * 2 ^ 20 }
  bar2 : Option PciBar := some { prefetchable := true, bytes := 4 * 2 ^ 30 }
  bar4 : Option PciBar := none
deriving DecidableEq, Repr, Inhabited
/-- What HP presents from the end of stage S1 on (R59, R424); none before, and while its link is down. -/
def pciConfig (c : Chip) : Option PciConfig :=
  if !hpUp c then none
  else some { device := partNumber c, serial := c.shadow.deviceId.toNat, inD3hot := c.pcie.d3hot, busMaster := c.pcie.busMaster }
/-- The 7-bit address at which the I²C and SMBus target answers (R41, Table 2-2). -/
def i2cAddress (c : Chip) : Nat := 0x58 + c.start.strapI2c.toNat
/-- The I²C target's address space as the host reads it (R97): START_STATE, the flags, and the three windows. -/
def i2cRegister (a : Nat) (c : Chip) : Byte :=
  let i := c.cci.i2c
  if a = 0 then BitVec.ofNat 8 (startCode c.start.st)
  else if a = 1 then BitVec.ofNat 8 (b01 i.msgBusy + 2 * b01 i.rspReady + 4 * b01 i.dataReady + 8 * b01 i.dataTaken)
  else if 0x40 ≤ a && a < 0x80 then nth i.window (a - 0x40)
  else if 0x80 ≤ a && a < 0xC0 then nth i.response (a - 0x80)
  else if 0xC0 ≤ a && a < 0x100 then nth i.dataWin (a - 0xC0)
  else 0#8

end Sys2Proof.Machine
end

