-- ==== Sys2Proof/WellFormed.lean ====
section
/-!
DEFINITION. Which operands a command may carry: the limits that the spec sets on what reaches the block from outside.
A command that breaks one has no effect in the model where its rule says so; the checks name the limits in one place.
-/

namespace Sys2Proof

/-- The operands of a command lie within the limits of their rules. -/
def Instr.WellFormed (i : Instr) : Bool :=
  match i with
  -- R427: a register write is of 1 to 64 bytes inside the 16 MiB of BAR0
  | .registerWrite off data => 1 ≤ data.length && data.length ≤ 64 && off + data.length ≤ 2 ^ 24
  -- R425: BAR2 is 4 GiB
  | .bar2Read off len => 1 ≤ len && off.toNat + len ≤ 2 ^ 32
  | .bar2Write off data => 1 ≤ data.length && off.toNat + data.length ≤ 2 ^ 32
  -- R97: the message window and the data window hold 64 bytes
  | .i2cSubmit msg => msg.length = 64
  | .i2cDataFull piece => piece.length ≤ 64
  -- R93, Table 3-15: framing, body and MAC, with at most 1,024 bytes of data
  | .cciDatagramReceived _ _ bytes => 96 ≤ bytes.length && bytes.length ≤ 1120
  -- R98: what one UDP datagram can hold
  | .dstPacketReceived _ d => d.payload.length ≤ 65527
  -- R260: a return message is one 16-byte payload
  | .laneReport _ p => p.length = 16
  | .laneFault _ p => p.length = 16
  | .drvHello _ p => p.length = 16
  | .cmdAck _ p => p.length = 16
  | .drvStatus _ p => p.length = 16
  -- R311: a local word address of a device
  | .scrubVisit _ word _ => word < 2 ^ 26
  | .memRepaired _ word => word < 2 ^ 26
  | .bulkCopyPage _ page => page < 2 ^ 20
  -- R173: a tile index is a u32 whose port is 0 to 3
  | .tileComplete t => t.toNat / 2 ^ 24 < 4
  | .tileRunStopped t => t.toNat / 2 ^ 24 < 4
  | .tileRedispatch t => t.toNat / 2 ^ 24 < 4
  | .latestStartPassed t => t.toNat / 2 ^ 24 < 4
  | .l3CopyDone t => t.toNat / 2 ^ 24 < 4
  -- R99: the two rates of Table 4-1
  | .dstPathUp _ rate => rate = 200 || rate = 100
  -- Table 15-2: 51 sensors
  | .trimEvaluate l => l.length ≤ 51
  | .thermalSample l => l.length ≤ 51
  -- Table 14-1 and R388
  | .retest u => u.cls ≤ 15
  | .retestDone u _ _ => u.cls ≤ 15
  | .junctionDrainEnd u => u.cls ≤ 15
  | .junctionClosed u => u.cls ≤ 15
  | .railOrClockGoodAgain u => u.cls ≤ 15
  | .porNFall _ | .porNRise _ _ | .startStageDone _ | .endpointReset _ | .hifMbxDoorbell _ | .hifMbxRspConsumed _
  | .hifEvtConsumed _ | .hifIrqStatus _ _ | .hifIrqMask _ | .holdoffEnd _ | .hifReset _ | .hifPrfSnapshot _
  | .i2cDataRelease | .i2cResponseRead | .sessionOpen _ | .sessionClose _ | .resync _ | .logRead _ | .streamBind _
  | .timetableSet _ | .frameCommit _ | .layerDefine _ | .layerCommit _ | .crcWindowSet _ | .tableLoad _
  | .memRegionDefine _ | .surfaceAlloc _ | .surfaceFree _ | .moverSubmit _ | .moverAbort _ | .scrubSet _ | .memWrite _
  | .memRead _ | .storePut _ | .storeDelete _ | .storeSchedule _ | .storeList _ | .storeAbort _ | .laneStatus _
  | .calibRun _ | .powerSequence _ | .perfConfig _ | .perfSnapshot _ | .fwUpdate _ | .faultInject _ | .shutdown _
  | .shutdownStepDone _ | .keyLoad _ | .timeSet _ | .sessionLapsed _ | .abortSettled _ | .holeDeclaredLost _ _
  | .dstPathSilent _ _ | .dstPathDown _ | .dstStreamLost _ | .dstAnchorRequested _ | .authTrailerTimeout _ _
  | .dstCounters _ | .tileRowDecoded _ | .decodeResume _ | .projection _ | .frameDeadline _ | .frameBoundary _
  | .lineInstant _ | .departureWindowClose _ | .cellFault _ _ _ _ | .blockFault _ _ _ | .regionFault _ _ | .mcFault _ _
  | .mcHeartbeat _ _ | .decoderFault _ _ | .moverFault _ _ | .scanOutPortFault _ | .trunkLinkFault _ _
  | .schedulerFault | .fltTimeVote _ | .hpEndpointFault | .stoDriveDown _ | .stoDriveUp _ _ | .fltTakeover _
  | .reliefFault _ | .commonRailLoss | .fltRelocated _ | .trainingPhaseEnd _ _ | .trainingTimeout _ _
  | .pointsSwitch _ | .laneRetry _ | .lnkReturnLost _ _ | .lnkReturnUp _ | .tapAdapt _ | .laneWake _ | .cmdRepeat _
  | .pseqGoodRise _ | .powerSequenceStep | .pseqGoodTimeout _ | .pwrFault _ | .mapRestoreDone | .persistenceTimer
  | .stoPersisted _ | .storePutDone _ | .storeReadAhead _ | .itemEnd _ _ | .memTemperatureRead _ _
  | .refreshDue _ _ _ _ | .refreshWindowStart _ | .rowActivation _ _ _ _ | .retrainDue _ _ _ _ | .retrainPauseEnd _ _ _
  | .strongFillDone _ | .moverLineComplete _ | .ptpMessage _ _ | .announceTimeout | .syncSend _ | .ppsInEdge
  | .ppsInLost | .ref10mLost | .ref10mRestored | .wholeSecond | .ppsOutPulseEnd | .holdoverLimit | .timStatus
  | .calAutoRun _ | .calRunDone _ _ | .calRecord | .perfConfigApply | .readerPass | .snapshotLatch | .prfSnapshotDone
  | .islandClockStep _ | .unknownCommand _ | .fwUpdateDone | .pseqGoodFall _ | .referenceClockLoss _
  | .pcieConfigWrite _ | .msixTableWrite _ _ _ _ | .networkControlFrame _ _ | .delayReqSend _ => true

end Sys2Proof
end

