-- ==== Sys2Proof/Tests/Slice0.lean ====
section
/-!
SUPPORT. Tests: ill-formed commands are refused, a few steps do what the spec says, and for each statement a concrete
state and operands meet its hypotheses, clause by clause.
-/

open Sys2Proof Sys2Proof.Machine

namespace Sys2Proof.Tests

set_option Elab.async false

/-! ## Ill-formed commands, one for each check of `WellFormed` -/

theorem test_illformed_hp :
    (Instr.registerWrite 0x1000 []).WellFormed = false ∧
    (Instr.registerWrite 0x1000 (List.replicate 65 0)).WellFormed = false ∧
    (Instr.registerWrite 0xFFFFFD (List.replicate 4 0)).WellFormed = false ∧
    (Instr.bar2Read 0 0).WellFormed = false ∧ (Instr.bar2Read 0xFFFFFFFF 2).WellFormed = false ∧
    (Instr.bar2Write 0 []).WellFormed = false ∧ (Instr.bar2Write 0xFFFFFFFF [1, 2]).WellFormed = false := by
  decide +kernel

theorem test_illformed_transports :
    (Instr.i2cSubmit (List.replicate 63 0)).WellFormed = false ∧
    (Instr.i2cDataFull (List.replicate 65 0)).WellFormed = false ∧
    (Instr.cciDatagramReceived 0 {} (List.replicate 95 0)).WellFormed = false ∧
    (Instr.cciDatagramReceived 0 {} (List.replicate 1121 0)).WellFormed = false ∧
    (Instr.dstPathUp 0 150).WellFormed = false := by
  decide +kernel

theorem test_illformed_payload (d : Datagram) (h : 65527 < d.payload.length) : (Instr.dstPacketReceived 0 d).WellFormed = false :=
  decide_eq_false (Nat.not_le.mpr h)

theorem test_illformed_panel :
    (Instr.laneReport 0 []).WellFormed = false ∧ (Instr.laneFault 0 (List.replicate 15 0)).WellFormed = false ∧
    (Instr.drvHello 0 (List.replicate 17 0)).WellFormed = false ∧ (Instr.cmdAck 0 []).WellFormed = false ∧
    (Instr.drvStatus 0 []).WellFormed = false ∧ (Instr.trimEvaluate (List.replicate 52 0)).WellFormed = false ∧
    (Instr.thermalSample (List.replicate 52 0)).WellFormed = false := by
  decide +kernel

theorem test_illformed_units :
    (Instr.scrubVisit 0 (2 ^ 26) .clean).WellFormed = false ∧ (Instr.memRepaired 0 (2 ^ 26)).WellFormed = false ∧
    (Instr.bulkCopyPage 0 (2 ^ 20)).WellFormed = false ∧ (Instr.tileComplete 0x04000000).WellFormed = false ∧
    (Instr.tileRunStopped 0x04000000).WellFormed = false ∧ (Instr.tileRedispatch 0x04000000).WellFormed = false ∧
    (Instr.latestStartPassed 0x04000000).WellFormed = false ∧ (Instr.l3CopyDone 0x04000000).WellFormed = false ∧
    (Instr.retest { cls := 16 }).WellFormed = false ∧ (Instr.retestDone { cls := 16 } true 0).WellFormed = false ∧
    (Instr.junctionDrainEnd { cls := 16 }).WellFormed = false ∧ (Instr.junctionClosed { cls := 16 }).WellFormed = false ∧
    (Instr.railOrClockGoodAgain { cls := 16 }).WellFormed = false := by
  decide +kernel

/-! ## Small states and messages -/

/-- A released controller with every controller and region in service and nothing defined. -/
def live : Chip :=
  { State.resetChip {} with
    porLow := false
    sysReady := true
    start := { st := .released }
    sm := { active := some 0, relief := some 1 }
    shadow := { orderingCode := 1 }
    cfg := { density := 16 }
    mcs := List.replicate 16 { inService := true }
    regions := List.replicate 16 { inService := true, mhz := 1800, blocks := List.replicate 4 {} } }
/-- The state around a chip, with the host interface as reset leaves it. -/
def on (c : Chip) : State := { chip := c, hif := State.resetHif, evt := { nextSeq := 1 } }
/-- A message of SEQ 1 and TAG 7 (Table 3-2). -/
def message (op sess : Nat) (p : List Nat) : List Byte :=
  let body := bytesOf ((List.range 15).map (fun i => w (([op + 2 ^ 24, 1, 7, sess] ++ p).getD i 0)))
  body ++ bytesOf [w (crc32c body)]
/-- The chip with session 1, of both roles, open on a transport. -/
def withSession (via : Via) (c : Chip) : Chip :=
  { c with cci := { c.cci with sessions := [{ id := 1, via := via, control := true, admin := true }] } }
/-- A message in a session on I²C, with its inline data. -/
def ask (c : Chip) (op : Nat) (p : List Nat) (d : List Byte) : State :=
  on (let c := withSession .i2c c
      { c with cci := { c.cci with i2c := { window := message op 1 p, msgBusy := true, inData := d } } })
def got (op : Nat) (p : List Nat) (d : List Byte) : Waiting := { msg := wordsOf (message op 1 p), inline := d }
/-- The message is admitted. -/
abbrev takes (c : Chip) (op : Nat) (p : List Nat) (d : List Byte) : Prop := Admitted (ask c op p d) .i2c (got op p d) op true
/-- The message and the chip as the command sees them. -/
def env (c : Chip) (op : Nat) (p : List Nat) (d : List Byte) : Env := envAt (ask c op p d) .i2c (got op p d)
def seen (c : Chip) (op : Nat) (p : List Nat) (d : List Byte) : Chip := chipAt (ask c op p d) .i2c (got op p d)

/-! General facts about checks and bytes, for tables too long to evaluate -/

theorem crcBit_lt {c : Nat} (h : c < 2 ^ 32) : crc32cBit c < 2 ^ 32 := by
  have h2 : c >>> 1 < 2 ^ 32 := by rw [Nat.shiftRight_eq_div_pow]; omega
  unfold crc32cBit; split
  · exact Nat.xor_lt_two_pow h2 (by decide)
  · exact h2
theorem crcByte_lt {c : Nat} (b : Byte) (h : c < 2 ^ 32) : crc32cByte c b < 2 ^ 32 := by
  unfold crc32cByte
  iterate 8 apply crcBit_lt
  exact Nat.xor_lt_two_pow h (by have := b.isLt; omega)
theorem crcUpdate_lt (l : List Byte) : ∀ c, c < 2 ^ 32 → crc32cUpdate c l < 2 ^ 32 := by
  induction l with
  | nil => exact fun c h => h
  | cons b l ih => exact fun c h => ih _ (crcByte_lt b h)
theorem crc_lt (l : List Byte) : crc32c l < 2 ^ 32 := Nat.xor_lt_two_pow (crcUpdate_lt l _ (by decide)) (by decide)

theorem le_read (q : Nat) (h : q < 2 ^ 32) : ofLe (leBytes q 4) = q := by
  simp only [leBytes, List.range, List.range.loop, List.map, ofLe, BitVec.toNat_ofNat, Nat.shiftRight_eq_div_pow]
  omega
theorem patch_end (p a d : List Byte) (n : Nat) (h : p.length = n) (k : a.length = d.length) : patch (p ++ a) n d = p ++ d := by
  subst h; simp [patch, slice, ← k]
theorem slice_front (p a : List Byte) (o n : Nat) (h : o + n ≤ p.length) : slice (p ++ a) o n = slice p o n := by
  have : List.take n (List.drop o (p ++ a)) = List.take n (List.drop o p) := by
    rw [List.drop_append_of_le_length (by omega), List.take_append_of_le_length (by simp; omega)]
  simp only [slice, this]
theorem slice_back (p a : List Byte) (o n : Nat) (h : p.length = o) (k : a.length = n) : slice (p ++ a) o n = a := by
  subst h; subst k; simp [slice]

/-- A table of a length, from its first bytes, with its CRC at an offset and zeros behind it. -/
def zeroTable (head : List Byte) (n : Nat) : List Byte :=
  head ++ leBytes (crc32c (head ++ List.replicate 4 0#8 ++ List.replicate n 0#8)) 4 ++ List.replicate n 0#8
theorem zeroTable_front (head : List Byte) (n o k : Nat) (h : o + k ≤ head.length) :
    slice (zeroTable head n) o k = slice head o k := by
  rw [zeroTable, List.append_assoc, slice_front _ _ _ _ h]
theorem zeroTable_zeros (head : List Byte) (n o k : Nat) (h : head.length + 4 ≤ o) :
    slice (zeroTable head n) o k = List.replicate k 0#8 := by
  have hl : (head ++ leBytes (crc32c (head ++ List.replicate 4 0#8 ++ List.replicate n 0#8)) 4).length ≤ o := by
    rw [List.length_append]; simpa [leBytes] using h
  rw [slice, zeroTable, List.drop_append, List.drop_eq_nil_of_le hl, List.nil_append, List.drop_replicate, List.take_replicate,
    List.length_replicate, List.replicate_append_replicate]
  congr 1; omega
theorem zeroTable_byte (head : List Byte) (n i : Nat) (h : i < head.length) : byteOf (zeroTable head n) i = byteOf head i := by
  rw [byteOf, nth, zeroTable, List.append_assoc, List.getD_append _ _ _ _ h]; rfl
theorem zeroTable_length (head : List Byte) (n : Nat) : (zeroTable head n).length = head.length + 4 + n := by
  simp [zeroTable, leBytes, Nat.add_assoc]
theorem zeroTable_crc (head : List Byte) (n k : Nat) (h : head.length = k) :
    le32 (zeroTable head n) k = crcZeroed (zeroTable head n) k := by
  subst h
  have hlt := crc_lt (head ++ List.replicate 4 0#8 ++ List.replicate n 0#8)
  unfold zeroTable
  generalize hq : crc32c (head ++ List.replicate 4 0#8 ++ List.replicate n 0#8) = q at *
  have e1 : slice (head ++ leBytes q 4 ++ List.replicate n 0#8) head.length 4 = leBytes q 4 := by
    have : (leBytes q 4).length = 4 := by simp [leBytes]
    simp [slice, this]
  have e2 : patch (head ++ leBytes q 4 ++ List.replicate n 0#8) head.length (List.replicate 4 0#8) =
      head ++ List.replicate 4 0#8 ++ List.replicate n 0#8 := by
    have : (leBytes q 4).length = 4 := by simp [leBytes]
    have z : (head ++ leBytes q 4 ++ List.replicate n 0#8).drop (head.length + 4) = List.replicate n 0#8 := by
      rw [show head.length + 4 = (head ++ leBytes q 4).length by rw [List.length_append, this], List.drop_left]
    have y : slice (head ++ leBytes q 4 ++ List.replicate n 0#8) 0 head.length = head := by
      simp [slice]
    rw [patch, List.length_replicate, z, y]
  rw [le32, e1, le_read q hlt, crcZeroed, e2, hq]

/-! ## Check functions, against the values that their standards publish -/

theorem test_crc32c : crc32c ([0x31, 0x32, 0x33, 0x34, 0x35, 0x36, 0x37, 0x38, 0x39] : List Byte) = 0xE3069283 := by decide +kernel

theorem test_sha256 : (sha256 ([0x61, 0x62, 0x63] : List Byte)).take 4 = [0xba, 0x78, 0x16, 0xbf] := by decide +kernel

theorem test_crc16 : crc16 ([0x31, 0x32, 0x33, 0x34, 0x35, 0x36, 0x37, 0x38, 0x39] : List Byte) = 0x29B1 := by decide +kernel

/-- R250: α⁰ to α²⁹ are the roots of g, and a lone last symbol has the coefficients of x³⁰ mod g as its parity. -/
theorem test_generator :
    (∀ j < 30, (rsGenerator 30).foldl (fun v s => gfMul v (gfPower j) ^^^ s) 0 = 0) ∧ rsParity [1] = (rsGenerator 30).tail := by
  decide +kernel

/-- R247, R248: the levels of Table 9-1, and the order of a comma's first bits. -/
theorem test_symbols :
    pam4Symbols [false, false, false, true, true, true, true, false] = [-3, -1, 1, 3] ∧
    (superframeBits 17 16 0 []).take 10 = [true, false, false, true, false, false, true, true, true, false] := by decide +kernel

/-- R279, Table 10-1: the header of the second packet of a row of 1,088 bytes at 4:1. -/
theorem test_packet :
    (rowPacket false 3 5 (List.replicate 1088 0) 1).take 12 = [1, 2, 0, 4, 0, 3, 0, 32, 0, 0, 0, 5] ∧
    rowBlocks { w := 2048, dirs := 96 } false = 18720 := by decide +kernel

/-! ## The worked examples of the spec, one operation each -/

/-- Chapter 10, block 5 of section B-17 at 4:1 (Table 10-6). -/
theorem test_encode_block :
    let v := [4, 1391, 3037, 6, 1200, 3010, 0, 1420, 3050] ++ (List.replicate 19 [6, 1300, 3020]).flatten.take 55
    (encodeBlock v 5 3).take 9 = [0x04, 0xB0, 0x0B, 0xC2, 0x00, 0x00, 0x53, 0x00, 0x99] ∧
    (nth (encodeBlock v 5 3) 9).toNat / 16 = 0b1110 := by
  decide +kernel

/-- Chapters 1 and 8: a row of section B-17, and its line time on 7 active lanes. -/
theorem test_row_time :
    let pd : Panel := { w := 2048, h := 1152, dirs := 96 }
    rowBits pd false 7 = 2430075 ∧ rowTime pd false 7 ≤ 6634819 ∧ rowFits pd false 7 6634819 = true ∧
    rowFits pd false 7 6633000 = false := by
  decide +kernel

/-- Chapter 8: the three commits around blanking (Table 8-5). -/
theorem test_commit_frames :
    let t : Timetable := { period := 8333333, active := 1152, blank := 104, lineTime := 6634819 }
    let x : Port := { tt := some t, cur := firstCount + 9000 }
    enterFrame { x with windowOpen := true } 0 = (firstCount + 9001, false) ∧
    enterFrame x 0 = (firstCount + 9002, true) ∧ enterFrame x 9002 = (firstCount + 9002, false) ∧
    windowNs x t = 9000 * 8333333 + 7630041 := by
  decide +kernel

/-- Chapter 13: START_S names a second before the wrap of the low 32 bits. -/
theorem test_full_seconds :
    fullSeconds { live with time := { live.time with sec := 0x000100000010 } } 0xFFFFFFF0 = 0x0000FFFFFFF0 := by decide +kernel

/-- Chapter 15: the trim of IREF0 gain at 43.5 °C and at 48.0 °C. -/
theorem test_trim :
    let c := fun (tj : Int) =>
      { live with
        shadow := { orderingCode := 1, trim := [(0x10, 538)] }
        cal := { live.cal with corr := [(0x10, -2)], sets := [(0, 50, [(0x10, -6)]), (1, 110, [(0x10, 9)])]
                               temps := List.replicate 50 0 ++ [tj] } }
    let eval := fun (c : Chip) => { c with cal := { c.cal with deltas := [(0x10, tempDelta c 0x10)] } }
    trimOf (eval (c 87)) 0x10 = 539 ∧ trimOf (eval (c 96)) 0x10 = 542 := by
  decide +kernel

/-! ## The step, reset and the host interface -/

/-- No word spells a command. -/
theorem test_decode : decodeTableWord 32 0 = none := by decide

/-- R42, R428: after a long pulse of POR_N and its rise, the start is in stage S1 with START_STATE FUSES. -/
theorem test_por : ∃ t, exec (.porNRise 0 0) { State.reset with pending := [] } = .next t ∧ t.chip.start.stage = .s1 ∧
    t.chip.start.st = .fuses := ⟨_, rfl, by decide +kernel, by decide +kernel⟩

theorem witness_step : State.reset.pending = [] := by decide

theorem witness_DoorbellsAreChecked :
    hpReach live = true ∧ 0x100000 + (List.replicate 64 1#8).length ≤ 0x104000 ∧
    0x103FC0 + (List.replicate 64 1#8).length ≤ 0x104000 ∧
    ((256 - (on live).hif.inConsumed).toNat ≤ 256 ∧ (256 - (on live).hif.inAccepted).toNat < 2 ^ 31) ∧
    ¬((257 - (on live).hif.inConsumed).toNat ≤ 256 ∧ (257 - (on live).hif.inAccepted).toNat < 2 ^ 31) ∧
    (let h : Hif := { inAccepted := 3 }
     ¬((2 - h.inConsumed).toNat ≤ 256 ∧ (2 - h.inAccepted).toNat < 2 ^ 31)) := by
  decide +kernel

theorem witness_ConsumerIndicesAreChecked :
    hpReach live = true ∧
    (let h : Hif := { rspProduced := 2, rspConsumed := 1, evtProduced := 2, evtConsumed := 1 }
     (2 - h.rspConsumed).toNat ≤ (h.rspProduced - h.rspConsumed).toNat ∧
     ¬(3 - h.rspConsumed).toNat ≤ (h.rspProduced - h.rspConsumed).toNat ∧
     (2 - h.evtConsumed).toNat ≤ (h.evtProduced - h.evtConsumed).toNat ∧
     ¬(0 - h.evtConsumed).toNat ≤ (h.evtProduced - h.evtConsumed).toNat) ∧
    0x104000 + (List.replicate 64 1#8).length ≤ 0x118000 ∧ 0x117FC0 + (List.replicate 64 1#8).length ≤ 0x118000 ∧
    (let h : Hif := { evtProduced := 1024, rspProduced := 256 }
     1024 ≤ (h.evtProduced - h.evtConsumed).toNat ∧ 256 ≤ (h.rspProduced - h.rspConsumed).toNat) := by
  decide +kernel

theorem witness_InterruptsAreSent :
    hpReach live = true ∧ (4 : U32) &&& 2 &&& irqBits = 0 ∧ (2 ^ 22 : U32).toNat.testBit 22 = true ∧
    (let h : Hif := { irqStatus := 4, inHoldoff := [2], msixEnable := true, msixTable := List.replicate 32 (0, 0, false) }
     h.irqStatus &&& ~~~(4 : U32) = 0 ∧ h.irqStatus &&& ~~~(0 : U32) = w (2 ^ 2) ∧ h.inHoldoff.contains 2 = true ∧
     (h.irqStatus.toNat.testBit 2 && !{ h with irqMask := 4 : Hif }.irqMask.toNat.testBit 2) = false ∧
     (h.irqStatus.toNat.testBit 2 && !h.irqMask.toNat.testBit 2) = true ∧
     h.irqStatus.toNat.testBit 22 = false ∧ h.irqMask.toNat.testBit 22 = false ∧ msixBlocked h 22 = false ∧
     h.inHoldoff.contains 22 = false) ∧
    (State.resetHif.irqStatus.toNat.testBit 0 = false ∧ State.resetHif.irqMask.toNat.testBit 0 = true) ∧
    (let h : Hif := { State.resetHif with irqMask := 0, inHoldoff := [2] }
     (∀ v ∈ [2, 22], h.irqStatus.toNat.testBit v = false ∧ h.irqMask.toNat.testBit v = false ∧ msixBlocked h v = true) ∧
     2 ∈ h.inHoldoff ∧ ¬(2 ≤ 22 ∧ 22 ≤ 15 ∧ 22 ∈ h.inHoldoff)) := by
  decide +kernel

theorem witness_ConfigurationAndEndpointReset :
    hpUp live = true ∧ hpReach live = true ∧ (on live).hif.pba = 0 ∧
    (let h : Hif := { State.resetHif with pba := w (2 ^ 31), msixEnable := true }
     31 < h.msixTable.length ∧ 31 ∉ h.inHoldoff ∧ h.pba = w (2 ^ 31) ∧ h.msixEnable = true ∧ h.functionMask = false) := by
  decide +kernel

theorem witness_RegisterWrites :
    hpReach live = true ∧ [1#8].length ≠ 4 ∧ 0x1001 % 4 ≠ 0 ∧ 0xFFFFF < 0x100000 ∧ ([1, 2, 3, 4] : List Byte).length = 4 := by
  decide +kernel

/-- A region of one page on MC00, and a surface in display on it. -/
def withRegion : Chip :=
  { live with
    mems := [{ id := 0, owner := 1, size := 4096, mcs := [0], base := 0x20000, pages := 1 }]
    surfs := [{ id := 0, region := 0, w := 16, h := 16, stride := 256, size := 4096, owner := 1, inDisplay := true }] }

theorem witness_AperturesReadAndWrite :
    hpReach live = true ∧ hpReach State.reset.chip = false ∧
    (let c := { live with start := { st := .bringUp } }; hpReach c = true ∧ bar2Open c = false) ∧
    bar2Open live = true ∧ memRegion? live 0 = none ∧
    (let h : Hif := { State.resetHif with aptMode1 := true }
     h.aptMode1 = true ∧ memRegion? withRegion h.aptRegion = some (nth withRegion.mems 0) ∧
     h.aptBase + (4095#32).toNat + 1 ≤ (nth withRegion.mems 0).size ∧
     ¬h.aptBase + (4095#32).toNat + 2 ≤ (nth withRegion.mems 0).size ∧
     (let inside := fun (a : Nat) (d : List Byte) => d.take ((nth withRegion.mems 0).size - a)
      inside 4096 [1, 2] = [] ∧ inside 4095 [1, 2] = [1] ∧
      guardedSurface withRegion (nth withRegion.mems 0) (h.aptBase + 4095) 1 = some (nth withRegion.surfs 0) ∧
      guardedSurface { withRegion with surfs := [] } (nth withRegion.mems 0) 0 4096 = none)) := by
  decide +kernel

theorem witness_WordsReadBack :
    mcOk live 15 = true ∧ lostPage live 15 (0xFFFFFFC0 / 4096) = false ∧ 0xFFFFFFC0 % 64 = 0 ∧
    (List.replicate 64 7#8).length = 64 ∧ 0xFFFFFFC0 + 64 ≤ 2 ^ 32 ∧ Memory.wf live.ram = true ∧
    live.crcBad.contains (wordKey 15 (0xFFFFFFC0 / 64)) = false := by
  decide +kernel

theorem witness_ClockTickAddsIncrement :
    (on live).pending = [] ∧ lossWaits live = false ∧ live.time.ns.toNat < 1000000000 ∧ live.time.sec.toNat < 2 ^ 48 - 1 ∧
    live.time.runs = false ∧
    (let t : Time := { live.time with runs := true, ns := 999999999 }; t.runs = true ∧ t.ns.toNat < 1000000000) := by
  decide +kernel

/-! ## Events and messages -/

theorem witness_EventsReachTheRing :
    (let x : Writer := { hif := State.resetHif, evt := { nextSeq := 1 } }
     evtFree x.hif ≠ 0 ∧ x.evt.hold = [] ∧ x.evt.lostFirst = none) ∧
    (let x : Writer := { hif := { evtProduced := 1024 }, evt := {} }
     evtFree x.hif = 0 ∧ x.evt.hold.length < 256 ∧ ({ keep := true } : Event).keep = true ∧ ({} : Event).keep = false) ∧
    (let x : Writer := { hif := { evtProduced := 1024 }, evt := { hold := List.replicate 256 {} } }
     evtFree x.hif = 0 ∧ 256 ≤ x.evt.hold.length) := by
  decide +kernel

theorem witness_DeliveryLeavesTheChip : live.cci.held = none := by decide

theorem witness_EventsAreNumberedInOrder : ({} : Evt).history.length + ([{}, {}] : List Event).length ≤ 65536 := by decide +kernel

theorem witness_EventsLostComesFirst :
    ringOpen live = true ∧ evtFree State.resetHif ≠ 0 ∧ ({ lostFirst := some 5 } : Evt).lostFirst = some 5 := by
  decide +kernel

/-- A message whose CHECK is wrong, and one whose opcode is not known. -/
theorem witness_UnknownMessages :
    (let s := on { live with cci := { i2c := { window := List.replicate 64 0, msgBusy := true } } }
     let m : Waiting := { msg := List.replicate 16 0 }
     front s .i2c = some m ∧ opcodeOf m.msg = none ∧ s.chip.start.st ≠ .halted ∧ checkGood m.msg = false) ∧
    (let s := ask live 0x7F [] []
     front s .i2c = some (got 0x7F [] []) ∧ opcodeOf (got 0x7F [] []).msg = none ∧ checkGood (got 0x7F [] []).msg = true) := by
  decide +kernel

def at_ (n : U32) : Session := { id := 1, via := .i2c, nextSeq := n }
theorem witness_SequenceNumbers :
    let e := env live 0x25 [] []
    live.start.st ≠ .recovery ∧ fld (nth e.msg 3).toNat 15 0 ≠ 0 ∧ sessionFor live e.via e.peer 1 = none ∧
    ([1, 0, 30, 17].all (fun n => sessionFor { live with cci := { live.cci with sessions := [at_ n] } } e.via e.peer 1 =
      some (at_ n))) = true ∧
    nth e.msg 1 = 1 ∧ 2 ^ 31 ≤ ((0 : U32) - nth e.msg 1).toNat ∧ 16 < ((30 : U32) - nth e.msg 1).toNat ∧
    ((30 : U32) - nth e.msg 1).toNat < 2 ^ 31 ∧ ((17 : U32) - nth e.msg 1).toNat ≤ 16 ∧ (17 : U32) ≠ nth e.msg 1 ∧
    (let k : Cached := { seq := 1, opcode := 0x25, tag := 7 }
     [k].find? (fun k => k.seq = nth e.msg 1 && k.opcode = 0x25 && k.tag = nth e.msg 2) = some k ∧
     ¬((8 : U32) = nth e.msg 2)) := by
  decide +kernel

theorem witness_LaterChecks :
    running { live with start := { st := .bringUp } } = false ∧ live.start.st = .released ∧
    ({ st := .shuttingDown } : Start).st = .shuttingDown ∧
    denied live { env live 0x42 [] [] with sess := { control := true } } 0x42 = true ∧
    denied (withSession .i2c live) (env live 0x25 [] []) 0x25 = false ∧
    (let c := { live with start := { st := .recovery } }
     c.start.st = .recovery ∧ fld (nth (env c 0x60 [] []).msg 3).toNat 15 0 ≠ 0 ∧
     fld (nth (wordsOf (message 0x60 0 [])) 3).toNat 15 0 = 0) := by
  decide +kernel

/-- A message in slot 0 of the inbound ring, in session 1 of HP. -/
def askHp (c : Chip) (op : Nat) (p : List Nat) : State :=
  { on (withSession .hp c) with hif := { State.resetHif with
      inAccepted := 1, inRing := Memory.setBytes [] 0 (message op 1 p) } }
def gotHp (op : Nat) (p : List Nat) : Waiting := { msg := wordsOf (message op 1 p) }

theorem witness_MessagesAreAnsweredOrCounted :
    (let s := askHp live 0x02 []
     let e := envAt s .hp (gotHp 0x02 [])
     front s .hp = some (gotHp 0x02 []) ∧ e.via = .hp ∧ (reply 0).held = none ∧ rspFull s.hif = false) ∧
    (let c := { live with start := { st := .halted } }
     front (askHp c 0x02 []) .hp = some (gotHp 0x02 []) ∧ c.start.st = .halted ∧ opcodeOf (gotHp 0x02 []).msg = some 0x02 ∧
     opcodeOf (gotHp 0x12 []).msg = some 0x12 ∧ opcodeOf (gotHp 0x42 []).msg = some 0x42 ∧ opcodeOf (gotHp 0x7F []).msg = none ∧
     front (askHp c 0x12 []) .hp = some (gotHp 0x12 []) ∧ front (askHp c 0x42 []) .hp = some (gotHp 0x42 []) ∧
     front (askHp c 0x7F []) .hp = some (gotHp 0x7F [])) := by
  decide +kernel

theorem witness_NothingLive : running State.reset.chip = false ∧ State.reset.chip.cci.held = none ∧
    liveCommand (.laneWake 47) = true := by decide

/-! ## Start, shutdown and jobs -/

theorem witness_ResetsAndRestarts :
    999 < 1000 ∧ 1000 ≤ 1000 ∧ live.porLow = false ∧ live.start.shutStep ≠ 5 ∧ State.reset.chip.porLow = true ∧ (0 : BitVec 2) ≠ 3 ∧
    hpReach live = true ∧ ¬(fld (0 : U32).toNat 7 0 = 0xA5 ∧ fld (0 : U32).toNat 11 8 = 1) ∧
    live.start.st = .released ∧ live.cfg.hostRestart = false ∧ fld (0x1A5 : U32).toNat 7 0 = 0xA5 ∧ fld (0x1A5 : U32).toNat 11 8 = 1 ∧
    (let c := { live with cfg := { live.cfg with hostRestart := true } }
     hpReach c = true ∧ c.start.st = .released ∧ c.cfg.hostRestart = true ∧ c.power.railsUp = false ∧ c.power.run = .idle) ∧
    (let c := { live with start := { st := .recovery, restartDue := true } }; hpReach c = true ∧ c.start.st = .recovery) ∧
    (let c := { live with start := { st := .halted } }; hpReach c = true ∧ c.start.st = .halted) := by
  decide +kernel

/-- The controller at one stage of its start. -/
def starting (st : StartState) (g : Stage) : State :=
  { State.reset with chip := { State.reset.chip with porLow := false, start := { st := st, stage := g } } }

theorem witness_StartRunsToRelease :
    (let s := starting .fuses .s1
     s.chip.start.stage = .s1 ∧ s.chip.start.st = .fuses ∧ s.fuses.unsettled = false ∧ (shadowOf s.fuses).orderingCode = 1 ∧
     { s.fuses with unsettled := true }.unsettled = true) ∧
    (let s := starting .bootRom .s2
     let r : StageReport := { pair0Pass := false, pair1Pass := false }
     s.chip.start.stage = .s2 ∧ s.chip.start.st = .bootRom ∧ r.pair0Pass = false ∧ r.pair1Pass = false ∧
     ({} : StageReport).pair0Pass = true ∧ ({} : StageReport).pair1Pass = true ∧ strapOf s.chip ≠ 2 ∧
     ((bootBlock s.chip).getD {}).trial = false) ∧
    (let s := starting .sramTest .s6
     s.chip.start.stage = .s6 ∧ s.chip.start.st = .sramTest ∧ ({} : StageReport).failedRegions = 0 ∧
     ({} : StageReport).failedCells = [] ∧ ({} : StageReport).failedBlocks = []) ∧
    (let s := starting .opening .s8
     s.chip.start.stage = .s8 ∧ s.chip.start.st = .opening ∧ s.chip.start.failedCells = [] ∧
     s.chip.start.failedBlocks = []) := by
  decide +kernel

/-- The controller at one step of `shutdown`. -/
def shutting (n : Nat) : Chip := { live with start := { st := .shuttingDown, shutStep := n } }

/-- The chip with one unfinished job. -/
def withJob (op : Nat) (c : Chip) : Chip := { c with cci := { c.cci with jobs := [{ id := 5, opcode := op, owner := 1 }] } }

theorem witness_ShutdownRunsItsSteps :
    takes live 0x62 [7] [] ∧ (seen live 0x62 [7] []).start.st = .released ∧ (seen live 0x62 [7] []).cci.jobs.length < 192 ∧
    (∀ n : Fin 7, (shutting n.val).start.st = .shuttingDown ∧ smServes (shutting n.val) = true ∧ (shutting n.val).start.shutStep = n.val) ∧
    (shutting 1).power.run = .idle ∧ (shutting 1).power.railsUp = false ∧
    { live.power with run := .up }.run = .up ∧ job? (shutting 6) (shutting 6).start.shutJob = none ∧
    (let c := { withJob 0x62 (shutting 6) with start := { (shutting 6).start with shutJob := 5 } }
     c.start.shutStep = 6 ∧ smServes c = true ∧ (job? c c.start.shutJob).isSome = true) := by
  decide +kernel

/-- A message without a session in RECOVERY, on a transport, and the chip as the command sees it. -/
def askFree (via : Via) (p : List Nat) (d : List Byte) : State :=
  let c := { live with start := { st := .recovery }, pcie := { busMaster := true }
                       cci := { i2c := { window := message 0x60 0 p, msgBusy := via = .i2c, inData := d } } }
  { on c with hif := { State.resetHif with
      inAccepted := if via = .hp then 1 else 0, inRing := Memory.setBytes [] 0 (message 0x60 0 p) } }
def gotFree (p : List Nat) (d : List Byte) : Waiting := { msg := wordsOf (message 0x60 0 p), inline := d }

theorem witness_FirmwareIsUpdated :
    (∀ f : Fin 2,
     let p := [0, 0, 4, 2, 0, f.val]
     let d : List Byte := [1, 2, 3, 4]
     let e := env live 0x60 p d
     let c := seen live 0x60 p d
     let b := bufAt e 0x10
     takes live 0x60 p d ∧ c.start.fwJob = 0 ∧ c.start.st ≠ .recovery ∧ c.cci.jobs.length < 192 ∧ bufKindOk e b = true ∧
     bufFault c (sid e) false b = none ∧ mw e 0x20 = 0 ∧ b.len ≤ 0x02000000 ∧ b.kind = 2 ∧ b.len ≤ e.inline.length ∧
     (mw e 0x24).testBit 0 = decide (f.val = 1)) ∧
    (let p := [0, 0, 4096, 1]
     let e := env withRegion 0x60 p []
     let c := seen withRegion 0x60 p []
     takes withRegion 0x60 p [] ∧ c.start.fwJob = 0 ∧ bufKindOk e (bufAt e 0x10) = true ∧
     bufFault c (sid e) false (bufAt e 0x10) = none ∧ mw e 0x20 = 0 ∧ (bufAt e 0x10).kind ≠ 2) ∧
    (let p := [0, 0, 4, 2, 0, 1]
     let s := askFree .i2c p [1, 2, 3, 4]
     let m := gotFree p [1, 2, 3, 4]
     Admitted s .i2c m 0x60 false ∧ (chipAt s .i2c m).start.st = .recovery ∧ (chipAt s .i2c m).start.fwJob = 0 ∧
     bufKindOk (envAt s .i2c m) (bufAt (envAt s .i2c m) 0x10) = true ∧ (mw (envAt s .i2c m) 0x24).testBit 0 = true) ∧
    (let p := [0, 0, 4, 0]
     let s := askFree .hp p []
     let m := gotFree p []
     let b := bufAt (envAt s .hp m) 0x10
     Admitted s .hp m 0x60 false ∧ (chipAt s .hp m).start.st = .recovery ∧ bufKindOk (envAt s .hp m) b = true ∧ b.kind ≠ 2 ∧
     (bufRead (chipAt s .hp m) [] b 0 b.len).2.isSome = true) := by
  decide +kernel

theorem witness_FirmwareUpdateEnds :
    (let c := { live with start := { live.start with fwJob := 1 } }
     running c = true ∧ c.start.fwJob ≠ 0 ∧ c.start.fwBuf = [] ∧ c.start.fwCut = false ∧
     (let d := { c with start := { c.start with fwCut := true } }; running d = true ∧ d.start.fwJob ≠ 0 ∧ d.start.fwCut = true)) ∧
    (∀ k : Fin 2,
     let c := { withRegion with start := { live.start with fwJob := 1, fwBuf := [0, 0, 64, k.val] } }
     let l := c.start.fwBuf
     c.start.fwCut = false ∧ l ≠ [] ∧ (bufRead c [] { lo := nth l 0, hi := nth l 1, len := nth l 2, kind := nth l 3 } 0 (nth l 2)).2.isSome =
       decide (k = 1)) := by
  decide +kernel

theorem witness_JobsEndOnce : job? live 5 = none ∧ job? (withJob 0x23 live) 5 = some (nth (withJob 0x23 live).cci.jobs 0) := by
  decide +kernel

/-! ## Sessions, logs and transports -/

theorem witness_SessionsOpen :
    let p := [1, 0, 5]
    let s := on { live with cci := { i2c := { window := message 0x01 0 p, msgBusy := true } } }
    let m : Waiting := { msg := wordsOf (message 0x01 0 p) }
    let e := envAt s .i2c m
    let c := chipAt s .i2c m
    Admitted s .i2c m 0x01 false ∧ fld (mw e 0x10) 1 0 ≤ 1 ∧ (mw e 0x10).testBit 3 = false ∧ fld (mw e 0x10) 31 16 ≤ 600 ∧
    (mw e 0x10).testBit 2 = false ∧ sameNonce c e (mw e 0x18 + mw e 0x1C * 2 ^ 32) = none ∧ c.cci.sessions.length < 8 := by
  decide +kernel

theorem witness_SessionsAndKeys :
    takes live 0x02 [] [] ∧
    (let x : Session := { id := 1, keepalive := 600 }
     let c := { live with cci := { live.cci with sessions := [x] } }
     session? c (1 : U16).toNat = some x ∧ x.keepalive ≠ 0 ∧ smServes c = true) ∧
    (takes live 0x63 [0x11] [] ∧ takes live 0x63 [0x31] [] ∧ takes live 0x63 [0x70] [] ∧ takes live 0x63 [0x01] [] ∧ takes live 0x63 [0x41] []) ∧
    mf (env live 0x63 [0x11] []) 0x10 7 4 = 1 ∧ mf (env live 0x63 [0x31] []) 0x10 7 4 = 3 ∧ (mw (env live 0x63 [0x31] []) 0x10).testBit 0 = true ∧
    mf (env live 0x63 [0x70] []) 0x10 7 4 = 7 ∧ (mw (env live 0x63 [0x70] []) 0x10).testBit 0 = false ∧
    mf (env live 0x63 [0x01] []) 0x10 7 4 = 0 ∧ 3 < mf (env live 0x63 [0x41] []) 0x10 7 4 := by
  decide +kernel

theorem witness_LogsAndSummaryAreRead :
    (let p := [0, 1, 0, 0, 64, 2]
     let s := { ask live 0x04 p [] with evt := { nextSeq := 2, history := [{ seq := 1 }] } }
     let m := got 0x04 p []
     let e := envAt s .i2c m
     let c := chipAt s .i2c m
     let all := logRecords s.evt (mf e 0x10 7 0)
     let oldest := all.2 - w all.1.length
     Admitted s .i2c m 0x04 true ∧ mf e 0x10 7 0 ≤ 3 ∧ bufKindOk e (bufAt e 0x18) = true ∧ (bufAt e 0x18).kind = 2 ∧
     bufFault c (sid e) true (bufAt e 0x18) = none ∧ c.start.st ≠ .recovery ∧
     (seqDiff (mw e 0x14) oldest.toNat).toNat < all.1.length ∧ 64 ≤ (bufAt e 0x18).len ∧
     (logRecords (on live).evt 3).1.length ≤ (seqDiff 0 0).toNat) ∧
    (∀ on : Bool,
     let p := [0, 1, 0, 0, 64, 0]
     let s := { askHp { live with pcie := { busMaster := on } } 0x04 p with evt := { nextSeq := 2, history := [{ seq := 1 }] } }
     let m := gotHp 0x04 p
     let e := envAt s .hp m
     Admitted s .hp m 0x04 true ∧ bufKindOk e (bufAt e 0x18) = true ∧
     (bufWrite (chipAt s .hp m) (bufAt e 0x18) (bytesOf (eventWords { seq := 1 }))).2.2 = on) ∧
    takes live 0x04 [3, 0, 0, 0, 64, 2] [] ∧
    (∀ n ∈ [64, 8192],
     let e := env live 0x03 [0, 0, n, 2] []
     let c := seen live 0x03 [0, 0, n, 2] []
     takes live 0x03 [0, 0, n, 2] [] ∧ bufKindOk e (bufAt e 0x10) = true ∧ bufFault c (sid e) true (bufAt e 0x10) = none ∧
     decide ((bufAt e 0x10).len < (summary e c).length) = decide (n = 64)) ∧
    (∀ on : Bool,
     let p := [0, 0, 8192, 0]
     let s := askHp { live with pcie := { busMaster := on } } 0x03 p
     let m := gotHp 0x03 p
     Admitted s .hp m 0x03 true ∧
     (bufWrite (chipAt s .hp m) (bufAt (envAt s .hp m) 0x10) (summary (envAt s .hp m) (chipAt s .hp m))).2.2 = on) := by
  decide +kernel

theorem witness_I2cTransport :
    live.porLow = false ∧ live.cci.i2c.msgBusy = false ∧ (List.replicate 64 0#8).length = 64 ∧ State.reset.chip.porLow = true ∧
    ({ dataWin := List.replicate 64 0 } : I2c).dataWin.length = 64 ∧
    (let i : I2c := { live.cci.i2c with dataReady := true }
     i.dataReady = true ∧ i.outData = [] ∧ 64 ≤ { i with outData := List.replicate 64 1 }.outData.length ∧
     { i with outData := List.replicate 63 1 }.outData.length < 64 ∧ { i with outData := List.replicate 63 1 }.outData ≠ []) ∧
    ({ msgBusy := true } : I2c).msgBusy = true := by
  decide +kernel

theorem witness_DatagramsAreChecked :
    (running State.reset.chip || State.reset.chip.start.st = .halted) = false ∧ (eth State.reset.chip 1).isolated = false ∧
    running live = true ∧ (eth live 1).isolated = false ∧ checkDatagram live {} [] = none ∧
    (let key := List.replicate 32 9#8
     let c := { live with cci := { live.cci with cciKeys := [(1, key)] } }
     (checkDatagram c {} (cciDatagram key 1 0 1 (message 0x02 1 []) [])).isSome = true) := by
  decide +kernel

/-! ## Ingest and decoders -/

/-- The chip with stream 0. -/
def withStream (x : Stream) (c : Chip) : Chip := { c with streams := c.streams.set 0 x }
/-- The IPv4 address 10.0.0.1, mapped (R6). -/
def ten : BitVec 128 := 0xFFFF0A000001
/-- A stream bound to both paths, for destination 10.0.0.1 and UDP port 9. -/
def bound : Stream :=
  { st := .unanchored, owner := 1, streamId := 0x11, group := ten, udpPort := 9, paths := 3, mergeWindow := 1, srcPeer := some {} }
/-- A DST packet of stream 0x11 without payload (Table 4-2). -/
def dst (id : Nat) : List Byte :=
  let h := [BitVec.ofNat 8 0x10, 0, 0, 0] ++ beBytes id 4 ++ List.replicate 20 0
  h ++ beBytes (crc32c h) 4

theorem witness_PacketsAreSorted :
    let c := withStream bound live
    let d := fun (p : List Byte) => ({ dstAddr := ten, dstPort := 9, payload := p } : Datagram)
    let hits := fun (c : Chip) => (List.range 16).filter (fun i => matchesStream c 0 (d []) (stream c i))
    running c = true ∧ (eth c 0).isolated = false ∧ frameFault { d [] with fcsGood := false } = true ∧ frameFault (d []) = false ∧
    hits live = [] ∧ hits c = [0] ∧ parsePacket 0 (d []).payload = none ∧ (parsePacket 0 (dst 0x11)).map (·.1) = some 0x11 ∧
    frameFault (d (dst 0x11)) = false ∧ (parsePacket 0 (dst 0x12)).map (·.1) = some 0x12 ∧ (stream c 0).streamId = 0x11 := by
  decide +kernel

theorem witness_PathsAreMerged :
    let heard := fun (c : Chip) => updPath (settleHoles c 0) 0 0 (fun q => { q with heard := true, lastNs := nowNs c, silent := false })
    let fresh := fun c => updPath (heard c) 0 0 (fun q => { q with staleRun := 0 })
    let c := withStream { bound with high := some 5, nextOut := some 4, holes := [(4, 0, [])], lostHoles := [3] } live
    (stream (heard (withStream bound live)) 0).high = none ∧ (stream (heard c) 0).high = some 5 ∧
    0 < seqDiff 6 5 ∧ seqDiff 65541 5 ≤ 65536 ∧ -65536 < seqDiff 4 5 ∧ seqDiff 5 5 ≤ 0 ∧
    (stream (passOver (fresh c) 0 0 4) 0).holes.any (fun x => x.1 = 4) = true ∧
    (stream (passOver (fresh c) 0 0 3) 0).holes.any (fun x => x.1 = 3) = false ∧
    (stream (passOver (fresh c) 0 0 3) 0).lostHoles.contains 3 = true ∧ 65536 < seqDiff 65542 5 := by
  decide +kernel

theorem witness_StreamTimeouts :
    (let c := withStream { bound with st := .anchored, holes := [(4, 0, [])] } live
     running c = true ∧ (stream c 0).holes.find? (fun h => h.1 = (4 : U32).toNat) = some (4, 0, []) ∧
     (stream c 0).fromStore = false ∧ (stream c 0).st = .anchored) ∧
    (let c := withStream { bound with path1 := { heard := true } } { live with eth := [{}, { link := true }] }
     running c = true ∧ (stream c 0).st = .unanchored ∧ (stream c 0).srcPeer = some {} ∧ pathsInService c (stream c 0) = [1]) ∧
    (let f : SceneFrame := { num := 3, closed := true }
     let c := withStream { bound with authRequired := true, live := { frames := [f] } } live
     (stream c 0).authRequired = true ∧ sceneFrame? (chan c 0 false) (3 : U32).toNat = some f ∧ f.closed = true ∧ f.verified = false ∧
     (let c := withStream { bound with authRequired := true, item := { frames := [f] } } live
      sceneFrame? (chan c 0 false) (3 : U32).toNat = none ∧ sceneFrame? (chan c 0 true) (3 : U32).toNat = some f)) := by
  decide +kernel

theorem witness_PathsAndPorts :
    (let c := withStream { bound with path0 := { heard := true, lastNs := 10000000 } }
       { live with eth := [{ up := true, link := true }, { up := true, link := true, drops := [1] }] }
     let d := advanceTo c ((pathOf (stream c 0) 1).lastNs + 10000000)
     running c = true ∧ (stream c 0).st ≠ .unbound ∧ (stream c 0).fromStore = false ∧ (stream c 0).paths.getLsbD 1 = true ∧
     (eth c 1).link = true ∧ (pathOf (stream c 0) 1).silent = false ∧ pathServes d (stream c 0) 0 = true ∧ (eth c 1).up = true ∧
     (eth c 1).drops.all (· = 0) = false ∧ (eth c 1).isolated = false) ∧
    (eth live 0).up = false ∧ (eth live 0).isolated = false ∧ ownAddress { live with cfg := { live.cfg with dataAddr := [ten] } } 0 ten = true ∧
    (let c := withStream { bound with group := 0xFFFFE0000001 } live
     groupsOn c 0 true = [0xFFFFE0000001] ∧ groupsOn live 0 true = []) ∧
    (let e : Eth := { echoCount := 99 }; e.echoSecond = live.time.sec.toNat ∧ e.echoCount < 100) := by
  decide +kernel

theorem witness_StreamsAreBound :
    (∀ x ∈ [bound, {}],
     let c := withStream x live
     let e := env c 0x10 [0x100] []
     let n := bindingOf e
     takes c 0x10 [0x100] [] ∧ n.mergeWindow ≤ 200 ∧ n.fallback ≠ 3 ∧ n.vlan ≠ 4095 ∧ (mw e 0x10).testBit 8 = true ∧
     ((stream (seen c 0x10 [0x100] []) 0).st = .unbound ∨ mayAct (seen c 0x10 [0x100] []) (sid e) x.owner = true)) ∧
    (∀ x ∈ [bound, {}],
     let p := [0, 0x11, 0, 0, 0, 0, 9, 0xC803, 0]
     let e := env (withStream x live) 0x10 p []
     let c := seen (withStream x live) 0x10 p []
     let n := bindingOf e
     takes (withStream x live) 0x10 p [] ∧ (mw e 0x10).testBit 8 = false ∧ n.fromStore = false ∧ n.paths ≠ 0 ∧ n.mergeWindow = 200 ∧
     n.fallback = 0 ∧ n.vlan ≠ 4095 ∧ mayAct c (sid e) x.owner = true ∧
     (x.st = .unbound → (reserveArea c 4 0 (128 * 2 ^ 20) false false false).isSome = true)) ∧
    (let p := [0, 0x11, 0, 0, 0, 0, 9, 0, 0]
     takes live 0x10 p [] ∧ (bindingOf (env live 0x10 p [])).fromStore = false ∧ (bindingOf (env live 0x10 p [])).paths = 0) ∧
    (let p := [0x200, 0, 0, 0, 0, 0, 0, 0, 1, 7]
     let c0 := { live with store := { drive0 := { up := true, capacity := 2 ^ 40, dir := { items := [{ id := 7 }] } } } }
     let n := bindingOf (env c0 0x10 p [])
     takes c0 0x10 p [] ∧ n.fromStore = true ∧ n.fallback = 1 ∧ storePresent (seen c0 0x10 p []) = true ∧
     (storeItem? (seen c0 0x10 p []) n.fallbackItem).isSome = true) := by
  decide +kernel

/-- A frame with one tile row under way: tile row 1 of an array of 8 × 9 elements. -/
def rowFrame (d : RowData) : SceneFrame := { rows := [{ d with row := 1 }] }
def decoding (d : RowData) : Chip :=
  withStream { bound with st := .anchored, live :=
    { hist := [{ w := 8, h := 9, rows := [List.replicate 64 [0, 0, 0, 0], []] }], frames := [rowFrame d], ctx := { anchored := true } } }
    { live with decs := [{ work := some (0, false, 0, 0, 1) }] }
/-- How the row ends. -/
def rowEnds (d : RowData) : RowEnd :=
  let c := decoding d
  (decodeRow (updDec c 0 (fun d => { d with work := none })) 0 (chan c 0 false) (rowFrame d) 0 1 none).2.2

/-- Tile row 1 in static table 0, one run of 8 zero elements, and its CHECK (R133, R137, R145). -/
theorem witness_DecodersWork :
    (let b : List Byte := [0x00, 0xb8, 0x03, 0xc8, 0xeb, 0x67]
     let c := decoding { bytes := b }
     running c = true ∧ (nth c.decs 0).isolated = false ∧ (nth c.decs 0).work = some (0, false, 0, 0, 1) ∧
     sceneFrame? (chan c 0 false) 0 = some (rowFrame { bytes := b }) ∧
     rowEnds { bytes := b } = .elements (List.replicate 8 [0, 0, 0, 0])) ∧
    (match rowEnds { bytes := [0x00] } with | .starved _ false => true | _ => false) = true ∧
    rowEnds { bytes := [0x00], lost := true, closed := true } = .lost ∧
    (match rowEnds { bytes := [0x80], closed := true } with | .error _ => true | _ => false) = true ∧
    (let f : SceneFrame := { rows := [{ row := 1, bytes := [0x00, 0xb8], tried := 1, saved := some {} }] }
     let c := withStream { stream (decoding {}) 0 with live := { (stream (decoding {}) 0).live with frames := [f] } } live
     (nth c.decs 0).work = none ∧ (nth c.decs 0).isolated = false ∧ (nextPiece c true).isSome = true) := by
  decide +kernel

/-! ## Content store -/

/-- The chip with a drive that holds item 7. -/
def stored : Chip := { live with store := { drive0 := { up := true, capacity := 2 ^ 40, dir := { items := [{ id := 7 }] } } } }
/-- An empty DST packet of stream 0x11 by its first word. -/
def dstPacket (w0 : Nat) : List Byte :=
  let h := beBytes w0 4 ++ beBytes 0x11 4 ++ List.replicate 20 0
  h ++ beBytes (crc32c h) 4

theorem witness_ItemsAreKept :
    ∀ k : Fin 3,
    let p := [8, 0, 0, 64, 0]
    let mem := if k = 0 then Memory.setBytes [] 0 (dstPacket 0x13000000 ++ dstPacket 0x10800000) else []
    let c0 := { stored with pcie := { busMaster := decide (k ≠ 2), hostMem := mem } }
    let s := askHp c0 0x30 p
    let m := gotHp 0x30 p
    let e := envAt s .hp m
    let c := chipAt s .hp m
    let b := bufAt e 0x14
    let c1 := { c0 with store := { c0.store with puts := [{ job := 5, item := 8, bytes := 64, buf := [0, 0, 64, 0] }] } }
    let r := bufRead (dropPut c1 5) [] { lo := 0, hi := 0, len := 64, kind := 0 } 0 64
    Admitted s .hp m 0x30 true ∧ storeBusy e c = false ∧ b.kind ≤ 1 ∧ running c1 = true ∧ storePresent r.1 = true ∧
    storePresent { r.1 with store := {} } = false ∧ bufKindOk e b = true ∧ storePresent c = true ∧
    bufFault c (sid e) false b = none ∧ itemFree c (sid e) 8 = true ∧ c.cci.jobs.length < 192 ∧ itemsTaken c < 4096 ∧
    b.len ≤ freeBytes c ∧ itemBusy c 8 = false ∧
    (k = 0 → (r.2.bind itemPackets).isSome = true) ∧ (k = 1 → r.2.isSome = true ∧ r.2.bind itemPackets = none) ∧
    (k = 2 → r.2 = none) := by
  decide +kernel

theorem witness_ItemsAreKeptAndAborted :
    (∀ f ∈ [0, 0x0101],
     let x : StorePut := { job := 5, item := 8, failure := f }
     let c := { stored with store := { stored.store with puts := [x] } }
     running c = true ∧ c.store.puts.find? (fun y => y.job = (5 : U32).toNat) = some x) ∧
    (let e := env stored 0x31 [7] []
     let c := seen stored 0x31 [7] []
     takes stored 0x31 [7] [] ∧ storeBusy e c = false ∧ storePresent c = true ∧ storeItem? c 7 ≠ none ∧ itemFree c (sid e) 7 = true ∧
     itemBusy c 7 = false) ∧
    (∀ n ∈ [16, 4096],
     let p := [0, 0, n, 2]
     let e := env stored 0x33 p []
     let c := seen stored 0x33 p []
     takes stored 0x33 p [] ∧ bufKindOk e (bufAt e 0x10) = true ∧ storePresent c = true ∧ bufFault c (sid e) true (bufAt e 0x10) = none ∧
     decide ((bufAt e 0x10).len < (storeListBytes c).length) = decide (n = 16)) := by
  decide +kernel

theorem witness_StoreJobsAreAborted :
    (∀ on : Bool,
     let p := [0, 0, 4096, 0]
     let s := askHp { stored with pcie := { busMaster := on } } 0x33 p
     let m := gotHp 0x33 p
     Admitted s .hp m 0x33 true ∧
     (bufWrite (chipAt s .hp m) (bufAt (envAt s .hp m) 0x10) (storeListBytes (chipAt s .hp m))).2.2 = on) ∧
    (∀ op ∈ [0x30, 0x32],
     let c := withJob op stored
     takes c 0x34 [5] [] ∧ storePresent (seen c 0x34 [5] []) = true ∧ (job? (seen c 0x34 [5] []) 5).map (·.opcode) = some op ∧
     mayAct (seen c 0x34 [5] []) 1 1 = true) ∧
    (let held := fun (c : Chip) => { c with cci := { c.cci with held := some { job := 5 } } }
     let put := held { stored with store := { stored.store with puts := [{ job := 5 }] } }
     let waits := held (withStream { bound with sched := [{ job := 5, item := 7 }] } stored)
     let plays := held (withStream { bound with playing := some { job := 5, item := 7 } } stored)
     running put = true ∧ (put.cci.held.map (·.job)) = some (5 : U32).toNat ∧
     (held { stored with movers := [{ id := 5 }] }).movers.find? (fun j => j.id = 5) = some { id := 5 } ∧
     put.movers.find? (fun j => j.id = 5) = none ∧
     put.store.puts.any (fun x => x.job = 5) = true ∧ waits.store.puts.any (fun x => x.job = 5) = false ∧
     streamOfJob waits 5 = some 0 ∧ (stream waits 0).playing.map (·.job) ≠ some 5 ∧ streamOfJob plays 5 = some 0 ∧
     (stream plays 0).playing.map (·.job) = some 5) := by
  decide +kernel

theorem witness_ItemsAreScheduled :
    (∀ playing ∈ [none, some { job := 6, item := 7, startNs := 0 }],
     let c0 := withStream { bound with st := .anchored, playing := playing } stored
     let p := [7, 0, 999999999, 1, 1]
     let e := env c0 0x32 p []
     let c := seen c0 0x32 p []
     let start := fullSeconds c (mw e 0x1C) * 1000000000 + mw e 0x18
     let new : Schedule := { item := mw e 0x10, startNs := start.toNat, loop := bit e 0x20 0, owner := sid e,
                             late := decide (start < (nowNs c : Int) + 100000000) }
     takes c0 0x32 p [] ∧ storeBusy e c = false ∧ mw e 0x18 < 1000000000 ∧ storePresent c = true ∧ storeItem? c (mw e 0x10) ≠ none ∧
     (stream c 0).st ≠ .unbound ∧ mayAct c (sid e) (stream c 0).owner = true ∧ c.cci.jobs.length < 192 ∧
     (stream c 0).sched.any (overlaps c 0 new) = false ∧ (∀ y ∈ (stream c 0).playing.toList, overlaps c 0 new y = false)) ∧
    running stored = true ∧
    (∀ loop : Bool, (stream (withStream { bound with playing := some { item := 7, loop := loop } } stored) 0).playing =
      some { item := 7, loop := loop }) ∧
    (let c := withStream { bound with playing := some { item := 7, job := 5 } } stored
     itemRead c (stream c 0) = some { item := 7, job := 5 } ∧
     itemReadable (markBad c 7 false true) 7 = true ∧ itemReadable (markBad c 7 true false) 7 = false ∧
     (stream (markBad c 7 true false) 0).playing = some { item := 7, job := 5 }) ∧
    (let c := withStream { bound with playing := some { item := 7 } } stored
     itemRead c (stream c 0) = some { item := 7 } ∧ (stream (markBad c 7 true true) 0).playing = some { item := 7 }) ∧
    (let c := withStream { bound with sched := [{ item := 7, job := 5 }] } stored
     itemRead c (stream c 0) = some { item := 7, job := 5 } ∧ (stream (markBad c 7 true true) 0).playing ≠ some { item := 7, job := 5 }) := by
  decide +kernel

theorem witness_DrivesAndCopies :
    running live = true ∧ (driveOf? live 1).up = false ∧ live.cfg.csTwoPorts = true ∧ ({} : DriveReport).missing = none ∧
    ({ missing := some 2 } : DriveReport).missing = some 2 ∧ ({} : DriveReport).content = none ∧
    ({ content := some {} } : DriveReport).content = some {} ∧
    (driveOf? stored 0).up = true ∧ stored.start.st = .released ∧ smServes stored = true ∧ stored.store.writing = none ∧
    storePresent stored = true ∧ storePresent live = false ∧ smServes live = true ∧ live.store.writing = none ∧
    (let c := { stored with store := { stored.store with writing := some (true, 9) } }
     c.store.writing = some (true, 9) ∧ (1 : BitVec 2).getLsbD 0 = true ∧ (0 : BitVec 2).getLsbD 0 = false ∧ (driveOf? c 1).up = false ∧
     newestCopy c = none) := by
  decide +kernel

/-- The first 512 bytes of a copy of no values. Its 4,096 bytes are too many to evaluate, so general facts show how it reads. -/
def pre : List Byte := 
  leBytes 0x50455253 4 ++ leBytes 4 4 ++ leBytes 0 8 ++ leBytes 0 2 ++ leBytes 0 2 ++
    leBytes 0 4 ++ leBytes 0 8 ++ paramBytes {} ++ seededBytes []
def zeros : List Byte := List.replicate 3580 0#8
def savedBytes : List Byte := persistBytes { seq := 4 }
theorem pre_length : pre.length = 512 := by decide +kernel
theorem front_length : (pre ++ zeros).length = 0xFFC := by rw [List.length_append, pre_length, zeros, List.length_replicate]

theorem copy_eq : savedBytes = pre ++ zeros ++ leBytes (crc32c (pre ++ zeros ++ List.replicate 4 0#8)) 4 := by
  have e : pre ++ List.replicate 0xE00 0#8 = pre ++ zeros ++ List.replicate 4 0#8 := by
    rw [List.append_assoc, zeros, List.replicate_append_replicate]
  have f : savedBytes = patch (pre ++ List.replicate 0xE00 0#8) 0xFFC (leBytes (crc32c (pre ++ List.replicate 0xE00 0#8)) 4) := by
    unfold savedBytes persistBytes
    dsimp only
    have z : ∀ b : List Byte, b ++ (List.range (copyValues { seq := 4 })).map (fun k => BitVec.ofNat 8 (nth ([] : List Nat) k)) ++
        List.replicate (counterStart (copyValues { seq := 4 }) - 0x1000 - copyValues { seq := 4 }) 0#8 ++
        (List.range (copyValues { seq := 4 })).flatMap (fun k => leBytes (nth ([] : List Nat) k) 2) = b := by
      intro b; simp [copyValues, counterStart, roundUp, cdiv]
    rw [z]; rfl
  rw [f, e, patch_end _ _ _ _ front_length (by simp [leBytes])]

theorem copy_reads : ∃ x, readPersist savedBytes = some x ∧ x.deviceId = 0 ∧ x.w = 0 ∧ x.h = 0 ∧ x.dirs = 0 := by
  have hlt := crc_lt (pre ++ zeros ++ List.replicate 4 0#8)
  rw [copy_eq]
  generalize hq : crc32c (pre ++ zeros ++ List.replicate 4 0#8) = q at *
  have len : (pre ++ zeros ++ leBytes q 4).length = 4096 := by
    rw [List.length_append, front_length]; simp [leBytes]
  have at_ : ∀ o n, o + n ≤ 512 → slice (pre ++ zeros ++ leBytes q 4) o n = slice pre o n := by
    intro o n h; rw [List.append_assoc, slice_front _ _ _ _ (by rw [pre_length]; exact h)]
  have k : ∀ x : Persist, x.w = 0 → copyValues x = 0 := by intro x hx; simp [copyValues, hx]
  have d0 : BitVec.ofNat 64 (ofLe (slice (pre ++ zeros ++ leBytes q 4) 8 8)) = 0 := by rw [at_ _ _ (by decide)]; decide +kernel
  have w0 : le16 (pre ++ zeros ++ leBytes q 4) 0x10 = 0 := by rw [le16, at_ _ _ (by decide)]; decide +kernel
  have h0 : le16 (pre ++ zeros ++ leBytes q 4) 0x12 = 0 := by rw [le16, at_ _ _ (by decide)]; decide +kernel
  have n0 : byteOf (pre ++ zeros ++ leBytes q 4) 0x14 = 0 := by
    have : nth (pre ++ zeros ++ leBytes q 4) 0x14 = nth pre 0x14 := by
      rw [nth, List.append_assoc, List.getD_append _ _ _ _ (by rw [pre_length]; decide)]; rfl
    rw [byteOf, this]; decide +kernel
  unfold readPersist
  dsimp only
  rw [if_neg]
  · exact ⟨_, rfl, d0, w0, h0, n0⟩
  · rw [k _ w0]
    have c1 : le32 (pre ++ zeros ++ leBytes q 4) 0 = 0x50455253 := by
      unfold le32; rw [at_ _ _ (by decide)]; decide +kernel
    have c2 : copyLength 0 = 4096 := by decide
    have c3 : le32 (pre ++ zeros ++ leBytes q 4) 0xFFC = q := by
      unfold le32; rw [slice_back _ _ _ _ front_length (by simp [leBytes])]; exact le_read _ hlt
    have c4 : crcZeroed ((pre ++ zeros ++ leBytes q 4).take 4096) 0xFFC = q := by
      rw [List.take_of_length_le (Nat.le_of_eq len), crcZeroed, patch_end _ _ _ _ front_length (by simp [leBytes]), hq]
    rw [c1, c2, c3, c4, len]; simp

def withCopy : Chip :=
  { stored with power := { stored.power with restoring := some true }, tables := { panel := some { w := 0, h := 0, dirs := 0 } }
                store := { stored.store with drive0 := { stored.store.drive0 with copyB := savedBytes } } }
theorem copies (c : Chip) (hd : drivesUp c = [withCopy.store.drive0]) : ∃ x, completeCopies c = [(true, x)] ∧
    x.deviceId = 0 ∧ x.w = 0 ∧ x.h = 0 ∧ x.dirs = 0 := by
  obtain ⟨x, hx, hz⟩ := copy_reads
  refine ⟨x, ?_, hz⟩
  have h0 : readPersist [] = none := by decide +kernel
  rw [completeCopies, hd, List.flatMap_cons, List.flatMap_nil, List.append_nil]
  show ([false, true].filterMap fun b => (readPersist (if b then savedBytes else [])).map (fun x => (b, x))) = _
  simp [h0, hx]

/-- A drive holds a copy that reads back, and it is the newest. -/
theorem witness_copies : ∃ x, newestCopy withCopy = some (true, x) ∧
    newestOf ((completeCopies withCopy).filter (fun x => x.1 = true)) = some (true, x) ∧ withCopy.power.restoring = some true ∧
    withCopy.tables.panel.isSome = true := by
  obtain ⟨x, h, -⟩ := copies withCopy rfl
  exact ⟨x, by rw [newestCopy, h]; rfl, by rw [h]; rfl, rfl, rfl⟩

/-! ## Synthesis and presentation -/

/-- A timetable of two rows, one blank line and the shortest period. -/
def table : Timetable := { period := 4000000, active := 2, blank := 1, lineTime := 1333333333, laneMask := 7, rowCount := 2, owner := 1 }
/-- The chip with port 0 and a panel of 16 × 16 hogels. -/
def withPort (x : Port) (c : Chip) : Chip :=
  { c with ports := c.ports.set 0 x, tables := { panel := some { w := 16, h := 16, dirs := 8, cols := 4, rows := 2 } } }
def withTile (t : Tile) : Chip := withPort { tt := some table, running := true, tiles := [t] } live

theorem witness_TilesMeetDeadlines :
    running (withTile {}) = true ∧
    (let t : Tile := { st := .running }; tileOf? (withTile t) 0 = some (0, t) ∧ t.st = .running ∧ cellServes (withTile t) t = true) ∧
    (let t : Tile := { st := .stopping }; tileOf? (withTile t) 0 = some (0, t) ∧ t.st = .stopping ∧ cellServes (withTile t) t = true) ∧
    (∀ st ∈ [TileState.waiting, .queued],
     let t : Tile := { st := st, notBefore := 10000 }; tileOf? (withTile t) 0 = some (0, t) ∧ t.notBefore ≠ 0) ∧
    (let t : Tile := { st := .toRepeat }
     tileOf? (withTile t) 0 = some (0, t) ∧ t.st = .toRepeat ∧ (List.range 16).find? (regionServes (withTile t)) = some 0) ∧
    (port (withTile {}) 0).tt = some table ∧ (port (withTile {}) 0).running = true := by
  decide +kernel

/-- A message that sets `table`, its period and phase as given. -/
def setTable (period phase : Nat) : List Nat := [0, period, 0x00010002, 1333333333, phase, 7, 0, 0x00020000, 0]

theorem witness_TimetablesAreSet :
    (let c0 := withPort {} live
     let p := setTable 4000000 0
     let e := env c0 0x11 p []
     let c := seen c0 0x11 p []
     takes c0 0x11 p [] ∧ (port c 0).tt = none ∧ timetableOf e = table ∧ table.laneMask ≠ 0 ∧ timetableOk table 16 = true ∧
     c.tables.panel.map (·.h) = some 16 ∧ (∀ l ∈ lanesOf table.laneMask, l < laneCount c) ∧ overlapsOthers c 0 table = false ∧
     (reserveBuffers c 0 table).isSome = true ∧ feasible c 0 table = true) ∧
    (let c0 := withPort { tt := some table } live
     takes c0 0x11 [0] [] ∧ (timetableOf (env c0 0x11 [0] [])).laneMask = 0 ∧ (port (seen c0 0x11 [0] []) 0).tt = some table ∧
     mayAct (seen c0 0x11 [0] []) 1 table.owner = true) ∧
    (takes live 0x11 [0] [] ∧ (timetableOf (env live 0x11 [0] [])).laneMask = 0 ∧ (port (seen live 0x11 [0] []) 0).tt = none) := by
  decide +kernel

/-- A second timetable, of the same geometry or with another first row. -/
theorem witness_TimetablesAreReplaced :
    ∀ same : Bool,
    let old := { table with firstRow := if same then 0 else 1 }
    let c0 := withPort { tt := some old, windowOpen := true } live
    let p := setTable 4000000 1000
    let t := timetableOf (env c0 0x11 p [])
    let c := seen c0 0x11 p []
    takes c0 0x11 p [] ∧ (port c 0).tt = some old ∧ t.laneMask ≠ 0 ∧ timetableOk t 16 = true ∧ c.tables.panel.map (·.h) = some 16 ∧
    (∀ l ∈ lanesOf t.laneMask, l < laneCount c) ∧ mayAct c (sid (env c0 0x11 p [])) old.owner = true ∧ sameGeometry old t = same ∧
    (reserveBuffers (releaseArea c 1 4) 4 t).isSome = true ∧ feasible c 0 t = true ∧ overlapsOthers c 0 t = false := by
  decide +kernel

theorem witness_CommitsAndWindows :
    (∀ open_ : Bool,
     let c0 := withPort { tt := some table, running := true, windowOpen := open_ } live
     let p := [1, 0x10000000, 0]
     let e := env c0 0x12 p []
     let c := seen c0 0x12 p []
     takes c0 0x12 p [] ∧ bitsOf (mf e 0x10 3 0) 4 = [0] ∧ frameIdOk 0x10000000 = true ∧ mw e 0x18 = 0 ∧ fld 0x10000000 31 28 = 1 ∧
     mayAct c (sid e) (portOwner c 0) = true ∧ mayAct c (sid e) (commitOwner (port c 0)) = true ∧ (port c 0).tt = some table ∧
     (enterFrame (port c 0) 0).2 = !open_) ∧
    (let c0 := withStream bound (withPort { tt := some table, running := true, windowOpen := true } live)
     let p := [1, 0x00000000, w32 (firstCount + 1)]
     let e := env c0 0x12 p []
     let c := seen c0 0x12 p []
     takes c0 0x12 p [] ∧ frameIdOk 0 = true ∧ (stream c 0).st ≠ .unbound ∧ seqDiff (mw e 0x18) (dueFrame (port c 0)) ≤ 2 ^ 24) ∧
    (let c0 := withPort { tt := some table } live
     let p := [0x1F00, 0, 0x00020010, 0x0100]
     let e := env c0 0x15 p []
     let c := seen c0 0x15 p []
     takes c0 0x15 p [] ∧ (port c 0).tt = some table ∧ mf e 0x10 11 8 = 15 ∧ bit e 0x10 12 = true ∧
     mayAct c (sid e) (look (port c 0).windowsPending 15 (look (port c 0).windowsDue 15 (nth (port c 0).windows 15))).owner = true ∧
     c.tables.panel.map (fun x => (x.w, x.dirs)) = some (16, 8) ∧ 0 < mf e 0x18 15 0 ∧ mf e 0x14 15 0 + mf e 0x18 15 0 ≤ 16 ∧
     0 < mf e 0x18 31 16 ∧ table.firstRow ≤ mf e 0x14 31 16 ∧ mf e 0x14 31 16 + mf e 0x18 31 16 ≤ table.firstRow + table.rowCount ∧
     0 < mf e 0x1C 15 8 ∧ mf e 0x1C 7 0 + mf e 0x1C 15 8 ≤ 8 ∧ takes c0 0x15 [0] [] ∧ bit (env c0 0x15 [0] []) 0x10 12 = false) := by
  decide +kernel

theorem witness_PortsPresentFrames :
    (let x : Port := { tt := some table, running := true, cur := firstCount }
     let c := withPort x live
     let k := x.cur + frameStep x
     let n := { table with phase := 1000 }
     let e := boundaryNs table k
     let next := fun (n : Timetable) => replaceTimetable (advanceTo c e) 0 table n e 7
     running c = true ∧ (port c 0).tt = some table ∧ x.pendingTt = none ∧ boundaryNs table k < e + 1 ∧ e ≤ boundaryNs table k ∧
     nowNs (next n) < boundaryNs n ((port (next n) 0).cur + 1) ∧
     boundaryNs table ((port (next table) 0).cur + 1) ≤ nowNs (next table) ∧ { x with windowOpen := true }.windowOpen = true) ∧
    (∀ l : Fin 4,
     let t := { table with blank := 2 }
     let x : Port := { tt := some t, running := true, cur := firstCount, line := l.val }
     x.rephase = false ∧ x.line < t.active + t.blank ∧
     decide (x.line + 1 < t.active) = decide (l = 0) ∧ decide (x.line + 1 = t.active) = decide (l = 1) ∧
     decide (x.line = t.active) = decide (l = 2) ∧ decide (t.active < x.line) = decide (l = 3)) := by
  decide +kernel

/-! ## Lanes and panel drive -/

/-- Port 0 with its timetable, and lane 0 as given. -/
def withLane (y : Lane) (x : Port) : Chip :=
  withPort { x with tt := some table } { live with lanes := live.lanes.set 0 y, quads := [{ returnUp := true }] }

theorem witness_LanesTrain :
    (∀ x ∈ [(LaneState.wake, 0), (.align, 1), (.eq, 2), (.check, 3)], ∀ n ∈ [1, 2],
     let c := withLane { st := x.1, attempts := n } {}
     running c = true ∧ (lane c 0).st = x.1 ∧ (lane c 0).attempts = n ∧ portOfLane c 0 = some 0 ∧ inTraining (lane c 0) = true ∧
     phaseNumber x.1 = x.2 ∧ phaseNumber x.1 ≠ (x.2 + 1) % 4) ∧
    ({ locked := true } : Lane).locked = true ∧ ({} : Lane).locked = false ∧
    (settledPoint ((List.range 13).flatMap (fun a => (List.range 25).map (fun b => (a, b, 30))))).isSome = true ∧
    (∀ full retrying : Bool, ∀ n ∈ [3, 4, 15, 16],
     let y := lane (withLane { st := .check, full := full, retrying := retrying, checkRun := n } {}) 0
     y.retrying = retrying ∧ decide ((if y.full then 16 else 4) ≤ y.checkRun) = decide ((if full then 16 else 4) ≤ n)) ∧
    portOfLane { live with lanes := [{ st := .check, attempts := 2 }] } 0 = none ∧
    (let c := { withLane { st := .lost } {} with power := { live.power with driverUp := true } }
     running c = true ∧ (lane c 0).st = .lost ∧ (lane c 0).unusable = false ∧ c.power.driverUp = true ∧ smServes c = true ∧
     portOfLane c 0 ≠ none) ∧
    (∀ u ∈ [23039, 23040],
     let c := withLane { asleep := true, wakeUi := some u } {}
     (lane c 0).asleep = true ∧ untilUi c u = u ∧ burstUi false = 23040 ∧ u < 32768 * superframeUi) ∧
    untilUi live (40000 * superframeUi) = 40000 * superframeUi ∧ (lane live 0).asleep = false := by
  decide +kernel

/-- A return message (R260): 14 bytes and their check. -/
def returned (l : List Byte) : List Byte := l ++ beBytes (crc16 l) 2
def body (a b c d e f : Byte) : List Byte := [a, b, c, d, e, f, 0, 0, 0, 0, 0, 0, 0, 0]

theorem witness_LanesCarryPackets :
    (List.replicate 4111 (true, idleBlock)).length = 4111 ∧ (∀ x ∈ List.replicate 4111 (true, idleBlock), x.2.length = 16) ∧
    1088 % 16 = 0 ∧ 1 < cdiv 1088 1024 ∧ 0 < 44 ∧ 50626 < 50627 := by
  refine ⟨List.length_replicate, ?_, by decide +kernel⟩
  intro x hx
  rw [List.eq_of_mem_replicate hx]
  decide +kernel

theorem witness_LanesReport :
    (let c := withLane { st := .active } {}
     let b := returned (body 0x10 0 0 0 0 0)
     let c0 := noteCheck c 0 false
     running c = true ∧ quadInUse c 0 = true ∧ crc16 (slice b 0 14) = ofBe (slice b 14 2) ∧ byteOf b 0 = 0x10 ∧
     portOfLane c0 (byteOf b 1) ≠ none ∧ (lane c0 0).windowSf ≠ some (be16 b 4) ∧
     (lane (noteCheck (withLane { st := .active, windowSf := some 0 } {}) 0 false) 0).windowSf = some (be16 b 4) ∧
     (let b := returned (body 0x11 0 1 0 0 0)
      crc16 (slice b 0 14) = ofBe (slice b 14 2) ∧ byteOf b 0 = 0x11 ∧ portOfLane c0 (byteOf b 1) = some 0 ∧
      (lane c0 (byteOf b 1)).st = .active ∧ (port c0 0).switching.any (fun x => x.1 = 0) = false) ∧
     (let b := returned (body 0x7F 0 0 0 0 0)
      crc16 (slice b 0 14) = ofBe (slice b 14 2) ∧ messageTypes.contains (byteOf b 0) = false) ∧
     (let b := List.replicate 16 0#8; ¬crc16 (slice b 0 14) = ofBe (slice b 14 2)) ∧ (quad c 0).returnUp = true ∧
     (quad { c with quads := [{}] } 0).returnUp = false ∧ quadInUse { c with quads := [{}] } 0 = true) ∧
    (takes live 0x40 [11] [] ∧ mf (env live 0x40 [11] []) 0x10 3 0 < quadCount (seen live 0x40 [11] [])) := by
  decide +kernel

theorem witness_TapsAdapt :
    (∀ trial ∈ [none, some (true, true)], ∀ before ∈ [4, 5], ∀ n ∈ [3, 4],
     let y : Lane := { st := .siding, window := [1, 1, 1, 1], after := List.replicate n 1, before := before, trial := trial }
     let c := withLane y { running := true, line := 3 }
     running c = true ∧ (lane c 0).st = .siding ∧ 4 ≤ (lane c 0).window.length ∧ mayStep c 0 = true ∧ (lane c 0).trial = trial ∧
     (calDomain c 3).stale = false ∧ eqRun c 0 = false ∧ decide ((lane c 0).after.length < 4) = decide (n = 3) ∧
     decide (total (lane c 0).after < (lane c 0).before) = (n = 3 || before = 5)) := by
  decide +kernel

theorem witness_PointsSwitch :
    (let c := withLane { st := .active } { switching := [(0, 1, 0, 0)] }
     running c = true ∧ (port c 0).tt = some table ∧ (rowPanel c (port c 0)).isSome = true ∧ (port c 0).switching ≠ [] ∧
     (lane c 0).st = .active ∧ chooseSiding c 0 0 [] = none) ∧
    (let c := { withLane { st := .active } {} with lanes := [{ st := .active, stripe := 0 }, { st := .siding }] }
     (lane c 0).st = .active ∧ chooseSiding c 0 0 [0] = some 1 ∧ (lane c 1).st = .siding) := by
  decide +kernel

theorem witness_DriversSpeak :
    (∀ known ∈ [[], [{ id := 3, announced := true }]],
     let c := noteCheck { withLane {} {} with drivers := known } 0 false
     let b := returned (body 0x20 3 0 1 0 0)
     running c = true ∧ quadInUse c 0 = true ∧ (quad c 0).returnUp = true ∧ crc16 (slice b 0 14) = ofBe (slice b 14 2) ∧
     byteOf b 0 = 0x20 ∧
     ((driver? c (byteOf b 1)).getD { id := 3 }).announced = decide (known ≠ [])) ∧
    (let b := returned (body 0x22 3 0 0xA0 0 0)
     crc16 (slice b 0 14) = ofBe (slice b 14 2) ∧ byteOf b 0 = 0x22) ∧
    (∀ missing ∈ [[3], [3, 4]],
     let x : DrvCmd := { seq := 9, missing := missing }
     let c := noteCheck { withLane {} {} with power := { live.power with cmds := [x] } } 0 false
     let b := returned (body 0x21 3 0 9 0 0)
     crc16 (slice b 0 14) = ofBe (slice b 14 2) ∧ byteOf b 0 = 0x21 ∧ c.power.cmds.find? (fun x => x.seq = be16 b 2) = some x ∧
     decide (x.missing.filter (· ≠ byteOf b 1) = []) = decide (missing = [3]) ∧
     c.power.cmds.find? (fun x => x.seq = (9 : U16).toNat) = some x ∧ x.repeats < 8) ∧
    (noteCheck (withLane {} {}) 0 false).power.cmds.find? (fun x => x.seq = 9) = none ∧
    (let x : DrvCmd := { seq := 9, ptype := 0x11, missing := [3], repeats := 8 }
     8 ≤ x.repeats ∧ x.missing = [3] ∧ live.power.run ≠ .up ∧ ({ run := .up, step := 6 } : Power).run = .up ∧
     ({ run := .up, step := 6 } : Power).step = 6 ∧ x.ptype = 0x11) := by
  decide +kernel

theorem witness_RailsFollowTheSequence :
    (∀ down rails tripped : Bool, ∀ run ∈ [RailRun.idle, .up],
     let c0 := { live with power := { live.power with run := run, railsUp := rails, tripped := tripped } }
     let p := [if down then 1 else 0]
     let c := seen c0 0x42 p []
     takes c0 0x42 p [] ∧ c.cci.jobs.length < 192 ∧ (mw (env c0 0x42 p []) 0x10).testBit 0 = down ∧ c.power.run = run ∧
     c.power.railsUp = rails ∧ c.power.tripped = tripped ∧ c.power.downWaits = none) ∧
    (let c := seen { live with power := { live.power with run := .down, tripped := true } } 0x42 [0] []
     takes { live with power := { live.power with run := .down, tripped := true } } 0x42 [0] [] ∧ c.power.run = .down ∧
     c.power.job = 0 ∧ c.power.railsUp = false ∧ c.power.tripped = true) ∧
    (∀ run ∈ [RailRun.up, .down], ({ run := run, waitOn := some 3 } : Power).waitOn = some (3 : Fin 4).val) ∧
    live.power.run = .idle ∧ running live = true ∧
    (∀ n ∈ [none, some 7],
     let c := { live with power := { live.power with run := .up, step := 2, downWaits := n } }
     c.power.run = .up ∧ c.power.waitOn = none ∧ stepWhole c = true) ∧
    stepWhole { withPort { tt := some table, trained := true } live with power := { live.power with run := .up, step := 6 } } = false ∧
    (∀ run ∈ [RailRun.idle, .up, .down],
     let c := { live with power := { live.power with en := 1, run := run } }
     running c = true ∧ c.power.run = run ∧ c.power.waitOn = none ∧ enabled c (0 : Fin 4).val = true) := by
  decide +kernel

/-! ## Layers, surfaces, tables and movers -/

/-- Two ports of call: a timetable for the reference port, a region with a surface of 16 × 16, and filter sets. -/
def shown : Chip :=
  let c := withPort { tt := some table, running := true, windowOpen := true } withRegion
  { c with tables := { c.tables with coefs := [(0, 8, []), (1, 6, [])] } }

theorem witness_LayersAreDefined :
    (takes shown 0x13 [0, 0] [] ∧ mf (env shown 0x13 [0, 0] []) 0x10 2 0 = 0 ∧ (0 : Nat) ≤ 0) ∧
    (∀ surf ∈ [0, 0xFFFF],
     let p := [1, surf, 0, 0x00100010, 0, 0x00FF0100, 0, 0x00100010]
     let e := env shown 0x13 p []
     let c := seen shown 0x13 p []
     let d := layerDefOf e
     takes shown 0x13 p [] ∧ mf e 0x10 2 0 = 1 ∧ mf e 0x14 15 0 = surf ∧ mayLayer c (sid e) 1 surf = true ∧ referencePort c = some 0 ∧
     (mw e 0x10).testBit 8 = false ∧ layerDefOk c d = true ∧ (surf = 0 → commitSurface c surf ≠ none) ∧
     suitsId c (some surf) d = true ∧ suitsId c (layer c 1).surf d = true ∧ suitsId c ((layer c 1).pending.bind (·.surf)) d = true ∧
     fitsAfter c 1 { surf := if surf = 0xFFFF then none else some surf, newDef := some d, target := layerTarget c 0 0, tag := tagOf e,
                     waits := waitsFor c surf } = true) := by
  decide +kernel

theorem witness_LayersAreCommitted :
    let d : LayerDef := { w := 16, h := 16, srcW := 16, srcH := 16 }
    let c0 := { shown with layers := shown.layers.set 7 { defn := some d } }
    (let e := env c0 0x13 [0x107] []
     let c := seen c0 0x13 [0x107] []
     takes c0 0x13 [0x107] [] ∧ (mw e 0x10).testBit 8 = true ∧ mayLayer c (sid e) 7 0xFFFF = true ∧ referencePort c = some 0 ∧
     layerKnown (layer c 7) = true ∧ layerKnown (layer c 6) = false) ∧
    (let e := env c0 0x14 [7, 0, 0] []
     let c := seen c0 0x14 [7, 0, 0] []
     takes c0 0x14 [7, 0, 0] [] ∧ mf e 0x10 2 0 = 7 ∧ newestDef (layer c 7) = some d ∧
     commitSurface c (mf e 0x14 15 0) = some (nth c.surfs 0) ∧ mayLayer c (sid e) 7 (mf e 0x14 15 0) = true ∧
     surfaceSuits (nth c.surfs 0) d = true ∧ referencePort c = some 0 ∧
     fitsAfter c 7 { surf := some (mf e 0x14 15 0), target := layerTarget c 0 (mw e 0x18), tag := tagOf e,
                     waits := waitsFor c (mf e 0x14 15 0) } = true) := by
  decide +kernel

theorem witness_SurfacesAreAllocated :
    (let c0 := { withRegion with surfs := [], mems := [{ id := 0, owner := 1, size := 8192, mcs := [0], base := 0x20000, pages := 2 }] }
     let p := [0, 0x00100040, 0]
     let e := env c0 0x21 p []
     let c := seen c0 0x21 p []
     takes c0 0x21 p [] ∧ mf e 0x10 19 16 = 0 ∧ 0 < mf e 0x14 15 0 ∧ mf e 0x14 15 0 ≤ 8192 ∧ 0 < mf e 0x14 31 16 ∧ mf e 0x14 31 16 ≤ 8192 ∧ mw e 0x18 = 0 ∧
     leastStride 0 (mf e 0x14 15 0) % 256 = 0 ∧ memRegion? c (mf e 0x10 5 0) = some (nth c.mems 0) ∧
     mayAct c (sid e) (nth c.mems 0).owner = true ∧ c.surfs.length < 256 ∧
     surfaceFit c (nth c.mems 0) (surfSize 0 16 (leastStride 0 (mf e 0x14 15 0))) = some 0 ∧
     ((List.range 257).filter (fun id => (surface? c id).isNone)).head? = some 0) ∧
    (let c := seen withRegion 0x22 [0] []
     takes withRegion 0x22 [0] [] ∧ (surface? c 0).isSome = true ∧ mayAct c 1 1 = true ∧ (nth c.surfs 0).freeDeferred = false ∧ ({ freeDeferred := true } : Surface).freeDeferred = true ∧
     surfaceBusy c 0 = false ∧ (nth c.surfs 0).inDisplay = true ∧ ({} : Surface).inDisplay = false) := by
  decide +kernel

/-- Bytes with their CRC-32C in the 4 zero bytes at an offset. -/
def sealed (b : List Byte) (n : Nat) : List Byte := patch b n (leBytes (crcZeroed b n) 4)
/-- An offset table of one hogel (Table 6-3). -/
def offsets : List Byte := sealed (leBytes 0x444F4646 4 ++ leBytes 1 2 ++ leBytes 1 2 ++ List.replicate 10 0#8) 0xC

theorem witness_TablesAreLoaded :
    (let c0 := { live with tables := { panel := some { w := 1, h := 1 } } }
     let p := [1, 0, 0, 18, 2]
     let e := env c0 0x16 p offsets
     let c := seen c0 0x16 p offsets
     let b := bufAt e 0x14
     takes c0 0x16 p offsets ∧ mf e 0x10 7 0 = 1 ∧ mf e 0x10 15 8 = 0 ∧ indexOk 1 0 = true ∧ bufKindOk e b = true ∧
     bufFault c (sid e) false b = none ∧ (bufRead c e.inline b 0 b.len).2 = some offsets ∧ (takeTable c 1 0 1 offsets).2 = 0 ∧
     (takeTable live 1 0 1 offsets).2 ≠ 0 ∧ parseOffsets live.tables.panel offsets = none ∧ parseColour offsets = none) := by
  decide +kernel

/-- A colour table whose values are all 0 (Table 6-4). -/
theorem witness_colour : ∃ t, parseColour (zeroTable (leBytes 0x434F4C52 4 ++ leBytes 1 2 ++ List.replicate 22 0#8) 8192) = some t := by
  have hl : (leBytes 0x434F4C52 4 ++ leBytes 1 2 ++ List.replicate 22 0#8).length = 0x1C := by decide +kernel
  unfold parseColour
  rw [if_neg]
  · exact ⟨_, rfl⟩
  · rw [zeroTable_length, hl, zeroTable_crc _ _ _ hl, le32, zeroTable_front _ _ _ _ (by rw [hl]; decide), le16,
      zeroTable_front _ _ _ _ (by rw [hl]; decide)]
    simp only [ne_eq, not_true_eq_false, decide_false, Bool.or_false]
    decide +kernel

/-- Drive parameters, a panel description that takes the place of another of its geometry, and calibration sets. -/
theorem witness_parsed :
    (parseParams (paramBytes {})).isSome = true ∧
    (let b := sealed (leBytes 0x50445343 4 ++ leBytes 1 2 ++ leBytes 0 2 ++ leBytes 16 2 ++ leBytes 16 2 ++ leBytes 1 1 ++ leBytes 1 1 ++
       leBytes 1 1 ++ leBytes 0 1 ++ leBytes 1000000 4 ++ List.replicate 52 0#8) 0x3C
     let c := { live with tables := { panel := some { w := 16, h := 16, dirs := 1, cols := 1, rows := 1 } } }
     (parsePanel c b).any (fun pd => pd.w = 16 && pd.h = 16 && pd.dirs = 1 &&
       (refitPorts (setTables c 0 1 { c.tables with panel := some pd })).isSome) = true) ∧
    (let b := sealed (leBytes 0x54433732 4 ++ leBytes 2 2 ++ leBytes 1 2 ++ leBytes 250 2 ++ List.replicate 6 0#8 ++ leBytes 0x10 2 ++
       leBytes 3 2) 0xC
     parseCalSet b = some (250, [(0x10, 3)]) ∧ live.cal.sets.any (fun x => x.1 ≠ 0 && x.2.1 = 250) = false) ∧
    tapsConflict live 15 8 = false := by
  decide +kernel

/-- A coefficient set of 8 taps whose coefficients are all 0 (Table 7-3). -/
theorem witness_coefs : ∃ l, parseCoefs (zeroTable (leBytes 0x53434F46 4 ++ leBytes 1 2 ++ leBytes 8 1 ++ List.replicate 5 0#8) 1024) =
    some (8, l) := by
  have hl : (leBytes 0x53434F46 4 ++ leBytes 1 2 ++ leBytes 8 1 ++ List.replicate 5 0#8).length = 0xC := by decide +kernel
  generalize hh : leBytes 0x53434F46 4 ++ leBytes 1 2 ++ leBytes 8 1 ++ List.replicate 5 0#8 = head at *
  have taps : byteOf (zeroTable head 1024) 6 % 16 = 8 := by
    rw [zeroTable_byte _ _ _ (by omega), ← hh]; decide +kernel
  have zero : ∀ k < 512, s16At (zeroTable head 1024) (16 + 2 * k) = 0 := by
    intro k _
    rw [s16At, le16, zeroTable_zeros _ _ _ _ (by omega)]; rfl
  unfold parseCoefs
  dsimp only
  have all0 : (List.range 512).map (fun k => s16At (zeroTable head 1024) (16 + 2 * k)) = List.replicate 512 0 := by
    rw [List.eq_replicate_iff]
    refine ⟨by simp, ?_⟩
    intro x hx
    obtain ⟨k, hk, rfl⟩ := List.mem_map.1 hx
    exact zero k (List.mem_range.1 hk)
  rw [taps, all0, if_neg]
  · exact ⟨_, rfl⟩
  · rw [zeroTable_length, hl, zeroTable_crc _ _ _ hl, le32, zeroTable_front _ _ _ _ (by rw [hl]; decide), le16,
      zeroTable_front _ _ _ _ (by rw [hl]; decide), ← hh]
    simp only [ne_eq, not_true_eq_false, decide_false, Bool.or_false]
    decide +kernel

theorem witness_MoversWork :
    (∀ op ∈ [0, 1],
     let c0 := { withRegion with surfs := withRegion.surfs ++ [{ nth withRegion.surfs 0 with id := 1, inDisplay := false }] }
     let p := [op, 0x00000001, 0, 0, 0x00080008, if op = 0 then 5 else 0]
     let e := env c0 0x23 p []
     let c := seen c0 0x23 p []
     let j := moverJobOf e
     let src := if j.op = 0 then some {} else commitSurface c j.src
     takes c0 0x23 p [] ∧ moverFieldsOk j = true ∧ j.op = op ∧ (commitSurface c j.dst).isSome = true ∧ src.isSome = true ∧
     (commitSurface c j.dst).all (fun d => mayAct c (sid e) d.owner && src.all (fun x => moverFits j x d)) = true ∧
     (j.op ≠ 0 → src.all (fun x => mayAct c (sid e) x.owner) = true) ∧ c.cci.jobs.length < 192) ∧
    (let c := withJob 0x23 live
     takes c 0x24 [5] [] ∧ (job? (seen c 0x24 [5] []) 5).map (·.opcode) = some 0x23 ∧ mayAct (seen c 0x24 [5] []) 1 1 = true ∧
     (let f : Finished := { id := 5, opcode := 0x23 }
      let c := { live with cci := { live.cci with finished := [f] } }
      takes c 0x24 [5] [] ∧ job? (seen c 0x24 [5] []) 5 = none ∧
      (seen c 0x24 [5] []).cci.finished.find? (fun f => f.id = 5 && f.opcode = 0x23) = some f)) ∧
    (∀ aborting : Bool, ∀ n ∈ [0, 1],
     let j : MoverJob := { id := 5, w := 8, h := 2, mover := some 1, linesDone := n, aborting := aborting }
     let c := { withRegion with movers := [j] }
     running c = true ∧ c.moverOut.contains (1 : Fin 2).val = false ∧ c.movers.find? (fun j => j.mover = some (1 : Fin 2).val) = some j ∧
     decide (j.linesDone + 1 < jobLines (destFormat c j) j.h) = decide (n = 0)) := by
  decide +kernel

/-! ## Memory -/

theorem witness_RegionsAreDefined :
    (let c0 := { withRegion with surfs := [] }
     let c := seen c0 0x20 [0x100] []
     takes c0 0x20 [0x100] [] ∧ (mw (env c0 0x20 [0x100] []) 0x10).testBit 8 = true ∧ memRegion? c 0 = some (nth c.mems 0) ∧
     mayAct c 1 (nth c.mems 0).owner = true ∧ regionInUse c 0 = false) ∧
    (∀ id ∈ [0, 63], ∀ ecc ∈ [0, 1, 2], ∀ twin : Bool, twin = false ∨ ecc ≠ 0 →
     let c0 := { withRegion with surfs := [] }
     let p := [id + 512 * ecc + (if twin then 0x800 else 0), 8192, 0, 0xC003]
     let e := env c0 0x20 p []
     let c := seen c0 0x20 p []
     let free := if id = 0 then deleteRegion c (nth c.mems 0) else c
     takes c0 0x20 p [] ∧ (mw e 0x10).testBit 8 = false ∧ (mw e 0x10).testBit 11 = twin ∧ mf e 0x10 10 9 = ecc ∧
     mf e 0x10 5 0 = id ∧ mw e 0x14 + mw e 0x18 * 2 ^ 32 = 8192 ∧
     (∀ n < 8, (mf e 0x1C 15 0).testBit (2 * n) = (mf e 0x1C 15 0).testBit (2 * n + 1)) ∧
     (∀ u ∈ bitsOf (mf e 0x1C 15 0) 16, mcOk c u = true) ∧ (memRegion? c id).isSome = decide (id = 0) ∧ c.cci.jobs.length < 192 ∧
     (regionFit free (regionMcs c (mf e 0x1C 15 0) twin) twin ecc 8192).isSome = true) := by
  decide +kernel

/-- Region 0 of one page, whose first word may hold poison. -/
def oneRegion (bad : Bool) : Chip :=
  { withRegion with
    surfs := []
    poison := if bad then [wordKey 0 ((regionPlace (nth withRegion.mems 0) 4088).loc / 64)] else [] }

theorem witness_RegionsAreFilled :
    (∀ j ∈ [0, 5],
     let r : MemRegion := { id := 63, filling := true, fillJob := j }
     let c := { live with mems := [r] }
     running c = true ∧ memRegion? c (63 : Fin 64).val = some r ∧ r.filling = true) ∧
    (∀ s ∈ [0, 600, 2592000],
     let e := env live 0x25 [s, 0x8001] []
     takes live 0x25 [s, 0x8001] [] ∧ mf e 0x14 15 0 ≠ 0 ∧ mw e 0x10 = s ∧
     (∀ u ∈ bitsOf (mf e 0x14 15 0) 16, u < mcCount (seen live 0x25 [s, 0x8001] []))) ∧
    (∀ n ∈ [1, 1024],
     let p := [0, 4096 - n, n]
     let d := List.replicate n 1#8
     let e := env (oneRegion false) 0x26 p d
     let c := seen (oneRegion false) 0x26 p d
     takes (oneRegion false) 0x26 p d ∧ memRegion? c 0 = some (nth withRegion.mems 0) ∧
     mayAct c (sid e) (nth withRegion.mems 0).owner = true ∧ mw e 0x14 + n ≤ (nth withRegion.mems 0).size ∧
     guardedSurface c (nth withRegion.mems 0) (4096 - n) n = none ∧ n ≤ e.inline.length ∧
     (∀ o ∈ wordStarts (4096 - n) n, reachable c (regionPlace (nth withRegion.mems 0) o) = true)) ∧
    (∀ bad : Bool,
     let p := [0, 4088, 8]
     takes (oneRegion bad) 0x27 p [] ∧
     decide ((readThrough (seen (oneRegion bad) 0x27 p []) (regionPlace (nth withRegion.mems 0)) 4088 8 false).2.1 ≠ 0) = bad) := by
  decide +kernel

theorem witness_BanksAreRefreshed :
    running live = true ∧ mcOk live (15 : Fin 16).val = true ∧
    (∀ doubled : Bool, ∀ debt ∈ [14, 15, 16, 7, 8],
     let c := { updMc live 15 (fun m => { m with doubled := doubled }) with banks := [{ mc := 15, ch := 3, bank := 15, debt := debt }] }
     (nth c.mcs 15).doubled = doubled ∧ (bankOf c 15 3 15).debt = debt) ∧
    0 < bankRows live ∧
    (noteActivation [] 0).any (fun x => x.1 = 0 && x.2 = live.cfg.hammerThreshold) = false ∧
    (noteActivation [(0, live.cfg.hammerThreshold - 1)] 0).any (fun x => x.1 = 0 && x.2 = live.cfg.hammerThreshold) = true ∧
    (160 : Int) < 161 ∧ (170 : Int) ≤ 170 ∧ (170 : Int) < 171 ∧
    (∀ doubled : Bool, ∀ run ∈ [98, 99],
     let c := updMc live 15 (fun m => { m with doubled := doubled, coolRun := run })
     let n := nth (updMc c 15 (fun m => { m with temp := 160, coolRun := min 100 (m.coolRun + 1) })).mcs 15
     n.doubled = doubled ∧ decide (n.coolRun = 100) = decide (run = 99)) := by
  decide +kernel

/-- A page of MC14 and MC15 in a region of a class, with a poisoned word whose repair has a code, and its areas. -/
def kept (ecc : Nat) (code : Nat) (areas : List Area) (c : Chip) : Chip :=
  { updMc c 15 (fun m => { m with scrubS := 600 }) with
    mems := if areas = [] then [{ id := 0, size := 8192, ecc := ecc, twin := true, mcs := [14], base := 0x20000, pages := 2 }] else []
    areas := areas
    written := [pageKey 15 0x20000, pageKey 14 0x20000]
    poison := [wordKey 15 0x800000], repairs := [(wordKey 15 0x800000, code)] }

theorem witness_WordsAreKept :
    running live = true ∧ mcOk live (15 : Fin 16).val = true ∧
    (∀ n ∈ [1, 2],
     let c := updMc live 15 (fun m => { m with paused := some 3, retrainFails := [(3, n)] })
     (nth c.mcs 15).paused = some (3 : Fin 4).val ∧ decide (look (nth c.mcs 15).retrainFails 3 0 + 1 < 3) = decide (n = 1)) ∧
    (nth live.mcs 15).paused ≠ some (3 : Fin 4).val ∧
    (∀ ecc ∈ [1, 2],
     let c := kept ecc 0 [] live
     (nth c.mcs 15).scrubS ≠ 0 ∧ scrubbed c 15 0x800001 = true ∧ (pageClass c 15 (0x800001 / 64)).getD 0 = ecc ∧
     deviceRead c 15 0x800001 = true) ∧
    (let c := kept 0 0 [] live
     deviceRead c 15 0x800001 = true ∧ (pageClass c 15 (0x800001 / 64)).getD 0 = 0) ∧
    (let c := kept 1 0 [] live
     c.poison.contains (wordKey 15 0x800000) = true ∧
     c.repairs.find? (fun x => x.1 = wordKey 15 0x800000) = some (wordKey 15 0x800000, 0) ∧
     otherGood c 15 0x800000 = true ∧ otherGood { c with poison := wordKey 14 0x800000 :: c.poison } 15 0x800000 = false ∧
     repairSource (kept 1 3 [{ code := 4, mcs := [15], base := 0x20000, pages := 1 }] live) 15 0x800000 = 3 ∧ smServes c = true ∧
     (kept 1 3 [] live).repairs.find? (fun x => x.1 = wordKey 15 0x800000) = some (wordKey 15 0x800000, 3)) ∧
    (let c := kept 1 2 [{ code := 4, mcs := [15], base := 0x20000, pages := 1 }]
       (withStream { bound with playing := some { item := 7, left := [{}] } } stored)
     repairSource c 15 0x800000 = 2) ∧
    (let c := updMc (kept 1 0 [] live) 15 (fun m => { m with copying := true })
     (nth c.mcs 15).copying = true ∧ mcOk c 14 = true ∧ twinPage c 15 0x20000 = true ∧ uncopied c 14 0x20000 = false ∧
     lostPage c 14 0x20000 = false ∧
     (let d := { c with mems := [{ nth c.mems 0 with lostMcs := [14] }] }; twinPage d 15 0x20000 = true ∧ lostPage d 14 0x20000 = true)) := by
  decide +kernel

/-- A word of the map repaired from a copy on a drive. -/
theorem witness_repairedFromCopy :
    let a : Area := { code := 2, mcs := [15], base := 0x20000, pages := 1 }
    let c := kept 1 1 [a] withCopy
    repairSource c 15 0x800000 = 1 ∧ areaOfPage c 15 (0x800000 / 64) = some a ∧ ∃ x, matchingCopy c = some x := by
  intro a c
  obtain ⟨x, h, h1, h2, h3, h4⟩ := copies c rfl
  have hm : matchingCopy c = some x := by
    show (if c.store.noSource = true then none else (newestOf ((completeCopies c).filter (fun x =>
      x.2.deviceId = live.shadow.deviceId && x.2.w = 0 && x.2.h = 0 && x.2.dirs = 0))).map (·.2)) = some x
    have hd : live.shadow.deviceId = 0 := by decide
    have hn : c.store.noSource = false := by decide
    rw [h, hn, hd]
    simp [newestOf, h1, h2, h3, h4]
  have ha : areaOfPage c 15 (0x800000 / 64) = some a := by decide +kernel
  have ho : otherGood c 15 0x800000 = false := by decide +kernel
  refine ⟨?_, ha, x, hm⟩
  rw [repairSource, ho, if_neg (by decide), ha]
  dsimp only
  rw [hm]
  rfl

/-! ## Faults -/

theorem witness_UnitsAreIsolated :
    running live = true ∧ regionServes live (15 : Fin 16).val = true ∧ (blockOf live 15 3).removed = false ∧
    (blockOf live 15 3).failedCells.contains (16 : Fin 17).val = false ∧
    (let left := fun (c : Chip) => blockCells (blockOf (updRegion c 15 (fun r =>
       { r with blocks := upd r.blocks 3 (fun y => { y with failedCells := 16 :: y.failedCells }) })) 15 3)
     let hurt := updRegion live 15 (fun r => { r with blocks := upd r.blocks 3 (fun y => { y with failedCells := [0, 1, 2, 3, 4] }) })
     11 < left live ∧ regionServes hurt 15 = true ∧ (blockOf hurt 15 3).failedCells.contains 16 = false ∧ left hurt ≤ 11) ∧
    (let gone := fun (c : Chip) => (region (updRegion c 15 (fun r =>
       { r with blocks := upd r.blocks 3 (fun x => { x with removed := true }) })) 15).blocks.countP (·.removed)
     let hurt := updRegion live 15 (fun r => { r with blocks := upd r.blocks 0 (fun x => { x with removed := true }) })
     gone live < 2 ∧ (blockOf hurt 15 3).removed = false ∧ 2 ≤ gone hurt) ∧
    (nth live.decs (7 : Fin 8).val).isolated = false ∧ live.moverOut.contains (1 : Fin 2).val = false ∧
    live.movers.find? (fun j => j.mover = some (1 : Fin 2).val) = none ∧
    (let j : MoverJob := { id := 5, mover := some 1 }
     ({ live with movers := [j] } : Chip).movers.find? (fun j => j.mover = some (1 : Fin 2).val) = some j) ∧
    (port (withPort { tt := some table } live) 0).tt ≠ none ∧ (port (withPort { tt := some table } live) 0).stopped = false ∧
    live.faults.schedStopped = none := by
  decide +kernel

/-- A part with its junctions in a state. -/
def isolatedAs (i : Isolation) : Chip := { live with faults := { isolated := [i] } }

theorem witness_BoundariesClose :
    (let listed := fun (cls cause : Nat) => (causesOf cls).contains cause = true ∨ cls = 3 ∧ cause = 6 ∨ (cls = 1 ∨ cls = 2) ∧ cause = 7
     (∀ cls ∈ [0, 1, 4, 5], listed cls (1 : Fin 8).val) ∧ (∀ cls ∈ [1, 2], listed cls (7 : Fin 8).val) ∧
     ∀ cls ∈ [0, 1, 2, 4, 5], ¬listed cls (6 : Fin 8).val) ∧
    (∀ cls ∈ [0, 1, 2, 3, 4, 5, 11],
     let i : Isolation := { cls := cls, unit := unitKey cls 1, junction := .withdraw }
     isolation? (isolatedAs i) cls (unitKey cls 1) = some i ∧ i.junction = .withdraw) := by
  decide +kernel

/-- The mover job of a chip is the one that stands when the boundary has closed. -/
theorem witness_moverJob (c : Chip) (cls cause unit : Nat) : (lateReplies c cls cause unit).movers = c.movers := by
  simp only [lateReplies]
  split
  · rfl
  · simp only [raiseLimited, raiseLimitedOwn]
    repeat' split
    all_goals rfl

theorem witness_ControllersAndLinksFail :
    running live = true ∧ mcOk live (15 : Fin 16).val = true ∧
    (causesOf 3).contains 5 = true ∧ (causesOf 3).contains 7 = false ∧ 7 ≠ 6 ∧
    (∀ n ∈ [15, 16],
     let m := nth live.mcs 15
     ((List.range 4).map (fun ch => if [0, n].getD ch 0 = 0 then 0 else m.failedTransfers.getD ch 0 + [0, n].getD ch 0)).any (16 ≤ ·) =
       decide (n = 16)) ∧
    (let c := beginIsolation live 3 15 5; running c = true ∧ smServes c = true ∧ isolation? c 3 (15 : Fin 16).val ≠ none) ∧
    live.faults.links.contains ((0 : Fin 32).val, false) = false ∧ 0 % 8 ≠ 7 ∧
    live.faults.links.contains ((23 : Fin 32).val, true) = false ∧ 23 < 24 := by
  decide +kernel

theorem witness_SectionFaults :
    live.time.copies.contains (2 : Fin 3).val = true ∧ 3 ≤ live.time.copies.length ∧
    (let t : Time := { live.time with copies := [0, 2] }; t.copies.contains (2 : Fin 3).val = true ∧ t.copies.length < 3) ∧
    live.pcie.linkDown = false ∧ live.porLow = false ∧ running live = true ∧ live.sm.active = some 0 ∧ live.sm.relief = some 1 ∧
    (let c := { live with sm := { active := some 1 } }; running c = true ∧ c.sm.active = some 1 ∧ c.sm.relief = none) ∧
    (let c := { live with sm := { relief := some 1 } }; running c = true ∧ c.sm.active = none ∧ c.sm.relief = some 1) := by
  decide +kernel

theorem witness_JunctionsAndRetests :
    (∀ j ∈ [Junction.drain, .withdraw, .closed], ∀ testing : Bool,
     let i : Isolation := { cls := 2, unit := 15, junction := j, testing := testing }
     let c := isolatedAs i
     isolation? c 2 (unitKey 2 3840) = some i ∧ i.junction = j ∧ i.testing = testing ∧ running c = true ∧ smServes c = true ∧
     i.forever = false ∧ i.railGood = true) ∧
    (let i : Isolation := { cls := 11, unit := 0, testing := true }
     let c := { isolatedAs i with sm := {} }
     isolation? c 11 (unitKey 11 0) = some i ∧ c.sm.active = none ∧ live.sm.active ≠ none) ∧
    (let c0 := { live with cfg := { live.cfg with faultInject := true } }
     let p := [2, 3840, (causesOf 2).headD 0]
     let e := env c0 0x61 p []
     let c := seen c0 0x61 p []
     takes c0 0x61 p [] ∧ c.faults.injecting = false ∧ mf e 0x10 7 0 ≤ 15 ∧ (causesOf (mf e 0x10 7 0)).contains (mf e 0x18 7 0) = true ∧
     unitExists c (mf e 0x10 7 0) (unitBits 2 (mw e 0x14)) = true) := by
  decide +kernel

/-! ## Time, calibration and counters -/

/-- A released controller that has heard a master on port 0, or that is a grandmaster. -/
def slave : Chip :=
  let m : Master := { source := 5, sourcePort := 1, lapses := 9 }
  { live with eth := [{ up := true, link := true }, {}], time := { live.time with masters := [m], chosen := some m, runs := true } }
def master : Chip := { live with cfg := { live.cfg with time := { live.cfg.time with grandmaster := true, ppsInUse := true } } }

theorem witness_TimeIsMeasured :
    (let said := fun (b : PtpBody) => ({ source := 5, body := b, dstPort := ptpPort b } : PtpMsg)
     let c := { slave with time := { slave.time with syncWaits := true, t1 := some 0, t3raw := some 0 } }
     let heard := advanceFine c 0
     let sync := said (.sync true 1)
     let follow := said (.followUp 1)
     let resp := said (.delayResp 1 0 1)
     let ann := said (.announce false 1 1 1 1 1 1 1 37 1)
     ptpOn c (0 : Fin 2).val = true ∧ sync.vlan.toNat = c.cfg.mgmtVlan ∧ { sync with vlan := 7 }.vlan.toNat ≠ c.cfg.mgmtVlan ∧
     ptpSupported ann = false ∧ ann.udp = true ∧ ann.domain.toNat = ptpDomain heard ∧ announced heard 0 ann ≠ none ∧
     announced heard 0 (said .other) = none ∧ ptpSupported (said .other) = false ∧
     [sync, follow, resp, said .delayReq, said (.announce true 1 1 1 1 1 1 1 37 1)].all ptpSupported = true ∧
     { sync with domain := 3 }.domain.toNat ≠ ptpDomain heard ∧ { sync with source := 0 }.source = heard.shadow.deviceId ∧
     sync.source ≠ heard.shadow.deviceId ∧ fromChosen heard 0 sync = true ∧ fromChosen heard 0 { sync with source := 6 } = false ∧
     heard.time.syncWaits = true ∧ follow.seq = heard.time.syncSeq ∧ { follow with seq := 1 }.seq ≠ heard.time.syncSeq ∧
     ((0 : U64), (1 : U16)) = ownPort heard 0 ∧ ((0 : U64), (2 : U16)) ≠ ownPort heard 0 ∧ resp.seq = heard.time.delaySeq ∧
     heard.time.t1 = some 0 ∧ heard.time.t3raw = some 0) ∧
    ptpOn master (0 : Fin 2).val = true ∧ grandmaster master = true ∧ passive master 0 = false ∧
    (slave.time.chosen.map (fun m => (m.ep, m.lapses))) = some ((0 : Fin 2).val, 9) ∧ grandmaster slave = false ∧
    slave.time.masters.find? (fun m => slave.time.chosen.any (sameMaster m)) = slave.time.chosen ∧ live.time.chosen = none := by
  decide +kernel

theorem witness_TimeSignalsAct :
    (∀ gm : Bool, ∀ last ∈ [none, some 2, some 100000, some 200002],
     let c := { (if gm then master else slave) with cfg := { live.cfg with time :=
       { (if gm then master else slave).cfg.time with ppsInUse := true, ref10m := true, ppsOutMode := 1 } } }
     let c := { c with time := { c.time with sec := 1, ns := 100002, ppsLast := last, runs := true } }
     c.cfg.time.ppsInUse = true ∧ c.time.runs = true ∧ c.time.ppsLast = last ∧ grandmaster c = gm ∧ c.cfg.time.ref10m = true ∧
     c.cfg.time.ppsOutMode = 1 ∧
     (∀ l, last = some l → l ≤ 200002 → 999900000 ≤ nowNs c - l ∧ (nowNs c - l ≤ 1000100000 ∨ l = 2))) ∧
    (∀ st ∈ [TimeState.locked, .acquiring],
     let c := { master with time := { master.time with st := st } }
     c.cfg.time.ppsInUse = true ∧ grandmaster c = true ∧ c.time.st = st) ∧
    grandmaster slave = false ∧ master.time.ppsSet = false ∧ { master.time with ppsSet := true }.ppsSet = true ∧
    timeActive live = true ∧ live.time.ppsDiff = none ∧
    (∀ on : Bool,
     let c := { slave with cfg := { slave.cfg with time := { slave.cfg.time with ref10m := true } }, time := { slave.time with ref10m := on, ppsOutOn := on } }
     c.cfg.time.ref10m = true ∧ c.time.runs = true ∧ c.time.ref10m = on ∧ c.time.ppsOutOn = on) ∧
    ({ master.time with st := .holdover }.st = .holdover) ∧ master.time.st ≠ .holdover ∧ running live = true ∧
    takes master 0x64 [5, 0] [] ∧ grandmaster (seen master 0x64 [5, 0] []) = true ∧
    takes slave 0x64 [5, 0] [] ∧ grandmaster (seen slave 0x64 [5, 0] []) = false := by
  decide +kernel

theorem witness_DomainsAreCalibrated :
    (∀ d ∈ [1, 3, 4, 5],
     let e := env live 0x41 [d] []
     let c := seen live 0x41 [d] []
     let n := (newJob c 0x41 (tagOf e) (sid e) []).2
     takes live 0x41 [d] [] ∧ mf e 0x10 7 0 = d ∧ calBusy c d = false ∧ c.cci.jobs.length < 192 ∧
     decide (calUnits n d = []) = decide (d = 3)) ∧
    running live = true ∧ smServes live = true ∧ live.start.st = .released ∧
    (∀ d ∈ [1, 2, 5], calBusy live d = false) ∧
    (let c := updCal live 5 (fun x => { x with running := true, units := [0] })
     (calDomain c 5).running = true ∧ (calDomain c 5).units = [0] ∧ unitFails c 5 {} 0 = false ∧
     unitFails c 5 { failed := [0] } 0 = true) := by
  decide +kernel

theorem witness_CountersAreRead :
    (∀ g ∈ [0, 1],
     let e := env live 0x50 [0xFF, 0, g] []
     takes live 0x50 [0xFF, 0, g] [] ∧ mf e 0x10 7 0 = 0xFF ∧ mf e 0x10 15 8 = 0 ∧
     ((seen live 0x50 [0xFF, 0, g] []).perf.userGrant == (mw e 0x18).testBit 0) = decide (g = if live.perf.userGrant then 1 else 0)) ∧
    (let p := [0x0F03, 0x0308, 0]
     let e := env live 0x50 p []
     let c := seen live 0x50 p []
     takes live 0x50 p [] ∧ mf e 0x10 7 0 = 3 ∧ mf e 0x10 15 8 = 15 ∧
     counterClass c 3 = some (80, 16, mcCount c) ∧ 15 < mcCount c ∧
     eventOk 3 (mf e 0x10 18 16) (mf e 0x14 15 0) = true) ∧
    (∀ n ∈ [7615, 7616],
     let e := env live 0x51 [0, 0, n, 2] []
     takes live 0x51 [0, 0, n, 2] [] ∧ bufKindOk e (bufAt e 0x10) = true ∧
     bufFault (seen live 0x51 [0, 0, n, 2] []) (sid e) true (bufAt e 0x10) = none ∧ (bufAt e 0x10).len = n) ∧
    running live = true ∧ live.cci.held = none ∧ hpReach live = true ∧ (1 : U32).getLsbD 0 = true ∧
    (let c := { live with perf := { live.perf with pending := [(80, 0, 0x308, 1000)], request := some {} } }
     c.perf.pending ≠ [] ∧ c.perf.request = some {} ∧ ({} : SnapRequest).latched = false ∧
     ({ latched := true } : SnapRequest).latched = true) := by
  decide +kernel

theorem witness_RegionsAreClocked :
    running live = true ∧
    (∀ above limited : Bool, ∀ mhz ∈ [1400, 1401, 1800],
     let c := updRegion live 15 (fun r => { r with above := above, limited := limited, mhz := mhz })
     (region c (15 : Fin 16).val).inService = true ∧
     decide (min c.cfg.regionMHz ((region c 15).mhz + 100) = (region c 15).mhz) = decide (mhz = 1800) ∧
     decide (max 1400 ((region c 15).mhz - 100) = (region c 15).mhz) = decide (mhz = 1400)) ∧
    live.power.tripped = false ∧
    (let heat := fun (t : Nat) (c : Chip) => (List.range 16).foldl (regionHeat (List.replicate 51 t)) c
     (heat 200 live).power.tripped = false ∧
     (heat 200 { live with power := { live.power with tripped := true } }).power.tripped = true ∧
     (hotRuns live (List.replicate 51 200)).find? (fun x => 10 ≤ x.2) = none ∧
     ((hotRuns { live with thermal := { hot := [(0, 9)] } } (List.replicate 51 250)).find? (fun x => 10 ≤ x.2)).isSome = true) ∧
    (let n := fun (t : Nat) => ((List.range 51).filter (fun k => sensorPresent live k && decide (k < (List.replicate 51 t).length)))
     (n 210).length = (sensors live).length ∧ (∀ k ∈ n 210, (List.replicate 51 (210 : Int)).getD k 0 ≤ 210) ∧
     ¬ (∀ k ∈ n 211, (List.replicate 51 (211 : Int)).getD k 0 ≤ 210)) := by
  decide +kernel

end Sys2Proof.Tests
end

/-!
PROOF. Commands complete and leave the fuses and the queue (O2); junctions, retests and injected faults (O55).
-/

namespace Sys2Proof.Machine

/-! ## Every command completes -/

/-- In state `s` the command `i` leads to a next state that has the fuses and the queue of `s`. -/
def LeavesOutside (i : Instr) (s : State) : Prop := ∃ t, exec i s = .next t ∧ SameOutside t s

theorem SameOutside.trans {a b c : State} (hab : SameOutside a b) (hbc : SameOutside b c) : SameOutside a c :=
  ⟨hab.1.trans hbc.1, hab.2.trans hbc.2⟩

theorem flush_same (s : State) (h : Hif) : SameOutside (flush { s with hif := h }) s := ⟨rfl, rfl⟩
theorem run_same (f : Chip → Chip) (s : State) : SameOutside (s.run f) s := ⟨run_fuses f s, run_pending f s⟩
theorem runLive_same (f : Chip → Chip) (s : State) : SameOutside (s.runLive f) s := ⟨runLive_fuses f s, runLive_pending f s⟩
theorem host_same (f : Hif → Hif) (s : State) : SameOutside (s.host f) s := ⟨host_fuses f s, host_pending f s⟩
theorem cciCommand_same (op : Nat) (busy : Env → Chip → Bool) (body : Body) (via : Via) (s : State) :
    SameOutside (cciCommand op busy body via s) s := ⟨cciCommand_fuses .., cciCommand_pending ..⟩

theorem resetEndpoint_same (s : State) : SameOutside (resetEndpoint s) s := ⟨rfl, rfl⟩

/-- A write of BAR0 with the effect of HIF_RESET at its offset (R427). -/
theorem registerWrite_same (off : Nat) (d : List Byte) (s : State) :
    SameOutside (if off = 0x4000 && d.length = 4 then hifResetWrite (w (ofLe d)) s else barWrite off d s) s := by
  split
  · exact hifResetWrite_same _ s
  · exact barWrite_same off d s

/-- The response that a snapshot was holding back is written before its event (R71). -/
theorem snapshotDone_same (s : State) : SameOutside ((answerSnapshot { s with chip := snapshotDone s.chip }).run id) s :=
  (run_same id _).trans (answerSnapshot_same { s with chip := snapshotDone s.chip })

/-- Only the end of a start stage can touch the fuses; what any other command can do is one of the operations below. -/
theorem exec_leavesOutside {i : Instr} (hi : ∀ r, i ≠ .startStageDone r) (s : State) : LeavesOutside i s := by
  cases i with
  | startStageDone r => exact absurd rfl (hi r)
  -- a change of the chip
  | i2cSubmit | i2cDataFull | i2cDataRelease | i2cResponseRead | cciDatagramReceived | shutdownStepDone
  | sessionLapsed | junctionDrainEnd | junctionClosed | cellFault | blockFault | regionFault | mcFault | mcHeartbeat
  | decoderFault | moverFault | scanOutPortFault | trunkLinkFault | schedulerFault | fltTimeVote | hpEndpointFault
  | reliefFault | commonRailLoss | fltRelocated | retest | retestDone | pseqGoodRise | pseqGoodTimeout | ptpMessage
  | announceTimeout | syncSend | ppsInEdge | ppsInLost | ref10mLost | ref10mRestored | wholeSecond | ppsOutPulseEnd
  | holdoverLimit | timStatus | pseqGoodFall | referenceClockLoss | railOrClockGoodAgain | delayReqSend | bulkCopyPage =>
    exact ⟨_, rfl, run_same _ s⟩
  -- a change of the chip while the data plane runs
  | abortSettled | dstPacketReceived | holeDeclaredLost | dstPathSilent | dstPathDown | dstPathUp | dstStreamLost
  | dstAnchorRequested | authTrailerTimeout | dstCounters | tileRowDecoded | decodeResume | tileComplete
  | tileRunStopped | tileRedispatch | projection | latestStartPassed | frameDeadline | l3CopyDone | frameBoundary
  | lineInstant | departureWindowClose | stoDriveDown | stoDriveUp | trainingPhaseEnd | trainingTimeout | laneReport
  | laneFault | pointsSwitch | laneRetry | lnkReturnLost | lnkReturnUp | tapAdapt | laneWake | drvHello | cmdAck
  | cmdRepeat | drvStatus | mapRestoreDone | persistenceTimer | stoPersisted | storePutDone | storeReadAhead | itemEnd
  | memTemperatureRead | refreshDue | refreshWindowStart | rowActivation | retrainDue | retrainPauseEnd | memRepaired
  | strongFillDone | moverLineComplete | calAutoRun | calRunDone | trimEvaluate | calRecord | perfConfigApply
  | snapshotLatch | islandClockStep | fwUpdateDone | networkControlFrame =>
    exact ⟨_, rfl, runLive_same _ s⟩
  -- a change of the host interface by a host access
  | hifMbxDoorbell | hifMbxRspConsumed | hifEvtConsumed | hifIrqStatus | hifIrqMask | msixTableWrite =>
    exact ⟨_, rfl, host_same _ s⟩
  -- a CCI message
  | sessionOpen | sessionClose | resync | logRead | streamBind | timetableSet | frameCommit | layerDefine
  | layerCommit | crcWindowSet | tableLoad | memRegionDefine | surfaceAlloc | surfaceFree | moverSubmit | moverAbort
  | scrubSet | memWrite | memRead | storePut | storeDelete | storeSchedule | storeList | storeAbort | laneStatus
  | calibRun | powerSequence | perfConfig | perfSnapshot | fwUpdate | faultInject | shutdown | keyLoad | timeSet =>
    exact ⟨_, rfl, cciCommand_same _ _ _ _ s⟩
  | unknownCommand via => exact ⟨_, rfl, unknownMessage_same via s⟩
  -- resets, restarts and a takeover
  | porNFall n => exact ⟨_, rfl, porFall_same n s⟩
  | porNRise b a => exact ⟨_, rfl, porRise_same b a s⟩
  | endpointReset => exact ⟨_, rfl, resetEndpoint_same s⟩
  | hifReset v => exact ⟨_, rfl, hifResetWrite_same v s⟩
  | powerSequenceStep | pwrFault | thermalSample =>
    exact ⟨_, rfl, (restartWhenDown_same _).trans (runLive_same _ s)⟩
  | fltTakeover r => exact ⟨_, rfl, takeoverStep_same r s⟩
  -- accesses of the host with an effect of their own
  | holdoffEnd vec => exact ⟨_, rfl, flush_same s _⟩
  | hifPrfSnapshot v => exact ⟨_, rfl, registerSnapshot_same v s⟩
  | registerWrite off d => exact ⟨_, rfl, registerWrite_same off d s⟩
  | bar2Read off n => exact ⟨_, rfl, bar2Read_same off.toNat n s⟩
  | bar2Write off d => exact ⟨_, rfl, bar2Write_same off.toNat d s⟩
  | pcieConfigWrite x => exact ⟨_, rfl, configWrite_same x s⟩
  -- a change of the chip with something after it or before it
  | scrubVisit mc word f => exact ⟨_, rfl, (failNext_same mc.val word f s _).trans (runLive_same _ s)⟩
  | readerPass => exact ⟨_, rfl, (answerSnapshot_same _).trans (runLive_same readerPass s)⟩
  | prfSnapshotDone => exact ⟨_, rfl, snapshotDone_same s⟩

/-- The end of a start stage keeps the queue, and keeps the fuses or burns the floor at release (R51). -/
theorem startStageDone_completes (r : StageReport) (s : State) :
    ∃ t, exec (.startStageDone r) s = .next t ∧ t.pending = s.pending ∧
      (t.fuses = s.fuses ∨ (s.chip.start.st = .opening ∧ ∃ x, t.fuses = burnFloor x s.fuses)) := by
  have restarted := restartAfterUpdate_same (settleRelease s.chip (s.run (stageDone s.fuses r)))
  refine ⟨_, rfl, ?_, ?_⟩
  · rw [restarted.2, settleRelease_pending, run_pending]
  · rw [restarted.1]
    obtain kept | ⟨opening, -, burnt⟩ := settleRelease_fuses s.chip (s.run (stageDone s.fuses r))
    · exact .inl (kept.trans (run_fuses _ s))
    · exact .inr ⟨opening, _, by rw [burnt, run_fuses]⟩

/-- Settles O2: the end of a start stage is the one command that may burn the fuses, and every other command is one of the
operations that keep them and the queue. -/
theorem everyCommandCompletes : Obligations.EveryCommandCompletes := by
  intro i s
  by_cases hi : ∃ r, i = .startStageDone r
  · obtain ⟨r, rfl⟩ := hi
    obtain ⟨t, next, queue, kept | ⟨opening, burnt⟩⟩ := startStageDone_completes r s
    · exact ⟨t, next, queue, .inl kept⟩
    · exact ⟨t, next, queue, .inr ⟨opening, ⟨r, rfl⟩, burnt⟩⟩
  · obtain ⟨t, next, fuses, queue⟩ := exec_leavesOutside (fun r h => hi ⟨r, h⟩) s
    exact ⟨t, next, queue, .inl fuses⟩

/-! ## Junctions and retests -/

section
variable {c : Chip} {u : UnitId} {i : Isolation} (hu : isolation? c u.cls (unitKey u.cls u.unit) = some i)
include hu

theorem drainEnd_of_drain (hj : i.junction = .drain) : drainEnd u c =
    setIsolation { c with free := c.free + 1 } { i with junction := .withdraw, discarded := Config.freeValue c.free } := by
  simp [drainEnd, hu, hj, drawFree]

theorem goodAgain_of_isolated : goodAgain u c = setIsolation c { i with railGood := true } := by
  simp [goodAgain, hu]

/-- The test starts where every condition of R388 holds. -/
theorem retest_starts (hr : running c = true) (hs : smServes c = true ∨ u.cls = 11) (hf : i.forever = false)
    (ht : i.testing = false) (hg : i.railGood = true) (hj : i.junction = .closed) : retest u c =
    setIsolation (updFaults (advanceTo c (i.sinceNs + 10000000000)) (fun f =>
      { f with injected := f.injected.filter (fun x =>
          !(x.1 = u.cls && x.2.1 = unitCode u.cls (unitKey u.cls u.unit))) })) { i with testing := true } := by
  have serves : (smServes c || decide (u.cls = 11)) = true := by simpa using hs
  simp [retest, hu, hr, serves, hf, ht, hg, hj, sec10]

/-- A part that fails its retest is isolated for good; a pair that fails while no pair serves leaves none (R393). -/
theorem retestDone_fail (ht : i.testing = true) (code : U32) : retestDone u false code c =
    (let d := raiseKey (setIsolation c { i with testing := false, forever := true }) 0xC021 u.cls i.cause
      (unitKey u.cls u.unit) 0 [code]
     if u.cls = 11 ∧ c.sm.active = none then noStationmaster d i.cause (unitKey u.cls u.unit) else d) := by
  simp [retestDone, hu, ht, setIsolation]

/-- A part that passes returns with its next epoch, once its boundary has been closed for 100 us. -/
theorem retestDone_pass (ht : i.testing = true) (code : U32) : retestDone u true code c =
    (let key := unitKey u.cls u.unit
     let c := advanceTo c (i.closedNs + 100000)
     let epoch := (epochOf c u.cls key + 1) % 16
     let c := updFaults (dropIsolation c u.cls key) (fun f =>
       { f with
         epochs := (u.cls, key, epoch) :: c.faults.epochs.filter (fun e => !(e.1 = u.cls && e.2.1 = key))
         readmitted := (u.cls, key) :: f.readmitted })
     schedule (returnPart (raiseKey c 0xC020 u.cls i.cause key 0 [w epoch]) u.cls key)) := by
  unfold retestDone
  simp only [hu, ht, Bool.not_true, Bool.false_eq_true, if_false]

end

/-! ## Injected faults -/

/-- `fault_inject` with operands in range makes the unit fail, and answers the instant. -/
theorem faultInjectBody_injects {e : Env} {c : Chip} (hc : mf e 0x10 7 0 ≤ 15)
    (hk : (causesOf (mf e 0x10 7 0)).contains (mf e 0x18 7 0) = true)
    (hu : unitExists c (mf e 0x10 7 0) (unitBits (mf e 0x10 7 0) (mw e 0x14)) = true) :
    faultInjectBody e c = (inject (mf e 0x10 7 0) (unitBits (mf e 0x10 7 0) (mw e 0x14)) (mf e 0x18 7 0) c,
      ok [w c.time.ns.toNat, w (w32 c.time.sec.toNat)]) := by
  have inRange : ¬15 < mf e 0x10 7 0 := Nat.not_lt.mpr hc
  unfold faultInjectBody
  simp only [hk, hu, inRange, decide_false, Bool.not_true, Bool.or_self, Bool.false_eq_true, if_false]

/-- Settles O55: each command of a junction is its operation under the conditions of its rule, and `fault_inject` is the fault
command of the unit between the two updates of the injection's flag. -/
theorem junctionsAndRetests : Obligations.JunctionsAndRetests := by
  refine ⟨fun s u i hu => ⟨fun hj => ?_, ?_, fun hr hs hf ht hg hj => ?_, fun code ht => ?_, fun code ht => ?_⟩,
    fun s via m k admitted => ?_, fun c unit kind => ⟨rfl, rfl, rfl, rfl, rfl, rfl, rfl, rfl, rfl, rfl, rfl, rfl, rfl, rfl⟩⟩
  · exact does_run rfl (drainEnd_of_drain hu hj)
  · exact does_run rfl (goodAgain_of_isolated hu)
  · exact does_run rfl (retest_starts hu hr hs hf ht hg hj)
  · refine ⟨fun other => does_run rfl ?_, fun pair unserved => does_run rfl ?_⟩
    · rw [retestDone_fail hu ht]
      exact if_neg (fun h => other.elim (· h.1) (· h.2))
    · rw [retestDone_fail hu ht]
      exact if_pos ⟨pair, unserved⟩
  · exact does_run rfl (retestDone_pass hu ht code)
  · intro e c cls unit kind idle hc hk hu
    exact answered_cci rfl admitted idle (faultInjectBody_injects hc hk hu)

end Sys2Proof.Machine

/-!
PROOF. The units of the section are isolated, and the boundary of a part is CLOSED (O52).
-/

namespace Sys2Proof.Machine

/-! ## The causes that Table 14-2 lists (R379) -/

/-- Table 14-2 lists the cause for the class: those that can be injected, 6 for a controller, 7 for a block or a region. -/
def Listed (cls cause : Nat) : Prop :=
  (causesOf cls).contains cause = true ∨ cls = 3 ∧ cause = 6 ∨ (cls = 1 ∨ cls = 2) ∧ cause = 7

theorem whereListed_of_listed {cls cause : Nat} (h : Listed cls cause) (f : Chip → Chip) (c : Chip) :
    whereListed cls cause f c = f c :=
  if_pos (by simpa [Listed, or_assoc] using h)

theorem whereListed_of_not_listed {cls cause : Nat} (h : ¬Listed cls cause) (f : Chip → Chip) (c : Chip) :
    whereListed cls cause f c = c :=
  if_neg (by simpa [Listed, or_assoc] using h)

/-- A fault command with a listed cause does what the fault of its unit does. -/
theorem does_listed {i : Instr} {s : State} {cls cause : Nat} {f : Chip → Chip} {c : Chip}
    (hi : exec i s = .next (s.run (whereListed cls cause f))) (listed : Listed cls cause) (h : f s.chip = c) : Does i s c :=
  does_run hi ((whereListed_of_listed listed f s.chip).trans h)

/-- A fault command with another cause does nothing. -/
theorem does_nothing_unlisted {i : Instr} {s : State} {cls cause : Nat} {f : Chip → Chip}
    (hi : exec i s = .next (s.run (whereListed cls cause f))) (unlisted : ¬Listed cls cause) : Does i s s.chip :=
  does_run hi (whereListed_of_not_listed unlisted f s.chip)

/-! ## A unit in service fails -/

/-- The cell is isolated and takes no more work (R22). -/
def cellOut (c : Chip) (u b k cause : Nat) : Chip :=
  updRegion (beginIsolation c 0 (u * 256 + b * 32 + k) cause) u (fun r =>
    { r with blocks := upd r.blocks b (fun y => { y with failedCells := k :: y.failedCells }) })

/-- The block is isolated and takes no more work (R22). -/
def blockOut (c : Chip) (u b cause : Nat) : Chip :=
  updRegion (beginIsolation c 1 (u * 256 + b * 32) cause) u (fun r =>
    { r with blocks := upd r.blocks b (fun x => { x with removed := true }) })

section
variable {c : Chip} (hr : running c = true)
include hr

section
variable {u : Nat} (hs : regionServes c u = true)
include hs

/-- A block left with 11 cells or fewer is lost with the cell. -/
theorem cellFault_in_service {b k : Nat} (hb : (blockOf c u b).removed = false)
    (hk : (blockOf c u b).failedCells.contains k = false) (cause : Nat) : cellFault u b k cause c =
      if blockCells (blockOf (cellOut c u b k cause) u b) ≤ 11 then blockFault u b 7 (cellOut c u b k cause)
      else schedule (project true (cellOut c u b k cause)) := by
  unfold cellFault
  simp only [hr, hs, hb, hk, Bool.not_true, Bool.or_self, Bool.false_eq_true, if_false]
  rfl

/-- A region that has lost two blocks is lost with the second. -/
theorem blockFault_in_service {b : Nat} (hb : (blockOf c u b).removed = false) (cause : Nat) : blockFault u b cause c =
      if 2 ≤ (region (blockOut c u b cause) u).blocks.countP (·.removed) then regionFault u 7 (blockOut c u b cause)
      else schedule (project true (blockOut c u b cause)) := by
  unfold blockFault
  simp only [hr, hs, hb, Bool.not_true, Bool.or_self, Bool.false_eq_true, if_false]
  rfl

theorem regionFault_in_service (cause : Nat) :
    regionFault u cause c = schedule (project true (beginIsolation c 2 u cause)) := by
  simp [regionFault, hr, hs]

end

theorem decoderFault_in_service {d : Nat} (hd : (nth c.decs d).isolated = false) (cause : Nat) : decoderFault d cause c =
    updDec (beginIsolation c 4 d cause) d (fun x => { x with isolated := true }) := by
  simp [decoderFault, hr, hd]

theorem moverFault_in_service {m : Nat} (hm : c.moverOut.contains m = false) (cause : Nat) : moverFault m cause c =
    { beginIsolation c 5 m cause with moverOut := m :: c.moverOut } := by
  unfold moverFault
  simp only [hr, hm, Bool.not_true, Bool.or_self, Bool.false_eq_true, if_false]

theorem portFault_presenting {p : Nat} (ht : (port c p).tt ≠ none) (hp : (port c p).stopped = false) : portFault p c =
    updPort c p (fun x => { x with stopped := true, lateAtStop := x.lateRows }) := by
  simp [portFault, hr, hp, ht]

theorem schedulerFault_releasing (hn : c.faults.schedStopped = none) : schedulerFault c =
    updFaults c (fun f => { f with schedStopped := some (nowNs c) }) := by
  simp [schedulerFault, hr, hn]

end

/-! ## The boundary of a part is CLOSED (R385) -/

/-- The junction of the part is CLOSED, and the late replies are discarded. -/
def boundaryClosed (c : Chip) (i : Isolation) : Chip :=
  lateReplies (setIsolation c { i with junction := .closed, closedNs := nowNs c }) i.cls i.cause i.unit

theorem junctionClose_of_withdraw {c : Chip} {u : UnitId} {i : Isolation}
    (hu : isolation? c u.cls (unitKey u.cls u.unit) = some i) (hj : i.junction = .withdraw) :
    junctionClose u c = closePart c i := by
  simp [junctionClose, hu, hj]

section
variable (c : Chip) {i : Isolation}

theorem closePart_cell (h : i.cls = 0) : closePart c i = closeCell (boundaryClosed c i) i := by
  cases i; cases h; rfl
theorem closePart_block (h : i.cls = 1) : closePart c i = closeBlock (boundaryClosed c i) i := by
  cases i; cases h; rfl
theorem closePart_region (h : i.cls = 2) : closePart c i = closeRegion (boundaryClosed c i) i := by
  cases i; cases h; rfl
theorem closePart_controller (h : i.cls = 3) : closePart c i = enterSelfRefresh (boundaryClosed c i) i.unit := by
  cases i; cases h; rfl
theorem closePart_decoder (h : i.cls = 4) : closePart c i = closeDecoder (boundaryClosed c i) i := by
  cases i; cases h; rfl
theorem closePart_mover (h : i.cls = 5) : closePart c i = closeMover (boundaryClosed c i) i := by
  cases i; cases h; rfl
/-- No other class has work that returns. -/
theorem closePart_other (h : 5 < i.cls) : closePart c i = boundaryClosed c i := by
  obtain ⟨n, hn⟩ := Nat.exists_eq_add_of_le' (Nat.succ_le_of_lt h)
  cases i; cases hn; rfl

theorem closeMover_idle (h : c.movers.find? (fun j => j.mover = some i.unit) = none) :
    closeMover c i = raiseKey c 0xC006 5 i.cause i.unit 0 [0] := by
  unfold closeMover; rw [h]; rfl

/-- The running job of the mover fails with TRANSFER_FAULT (R355). -/
theorem closeMover_busy {j : MoverJob} (h : c.movers.find? (fun j => j.mover = some i.unit) = some j) :
    closeMover c i = schedule (endMover (raiseKey c 0xC006 5 i.cause i.unit 0 [1]) j .failed 0x0111) := by
  unfold closeMover; rw [h]; rfl

end

/-- JUNCTION_CLOSED closes the boundary of a part whose junctions withdraw. -/
theorem does_junctionClosed {s : State} {u : UnitId} {i : Isolation} {c : Chip}
    (hu : isolation? s.chip u.cls (unitKey u.cls u.unit) = some i) (hj : i.junction = .withdraw)
    (h : closePart s.chip i = c) : Does (.junctionClosed u) s c :=
  does_run rfl ((junctionClose_of_withdraw hu hj).trans h)

/-- Settles O52: a fault command acts through `whereListed` on a unit in service, and the end of the withdrawal through the
operation of the part's class. -/
theorem unitsAreIsolated : Obligations.UnitsAreIsolated := by
  refine fun s hr => ⟨fun u b k d m cause => ⟨does_nothing_unlisted rfl, does_nothing_unlisted rfl, does_nothing_unlisted rfl,
      does_nothing_unlisted rfl, does_nothing_unlisted rfl⟩,
    fun u b k cause hs listed hb hk => ?_, fun u b cause hs listed hb => ?_, fun u cause hs listed => ?_,
    fun d cause hd listed => ?_, fun m cause hm listed => ?_,
    fun u i hu hj => ⟨fun h => ?_, fun h => ?_, fun h => ?_, fun h => ?_, fun h => ?_, fun h idle => ?_, fun j h busy => ?_,
      fun h => ?_⟩,
    fun p ht hp => ?_, fun hn => ?_⟩
  -- a unit fails
  · have fault := cellFault_in_service hr hs hb hk cause
    exact ⟨fun enough => does_listed rfl listed (fault.trans (if_neg (Nat.not_le.mpr enough))),
      fun few => does_listed rfl listed (fault.trans (if_pos few))⟩
  · have fault := blockFault_in_service hr hs hb cause
    exact ⟨fun first => does_listed rfl listed (fault.trans (if_neg (Nat.not_le.mpr first))),
      fun second => does_listed rfl listed (fault.trans (if_pos second))⟩
  · exact does_listed rfl listed (regionFault_in_service hr hs cause)
  · exact does_listed rfl listed (decoderFault_in_service hr hd cause)
  · exact does_listed rfl listed (moverFault_in_service hr hm cause)
  -- the boundary of the unit is CLOSED
  · exact does_junctionClosed hu hj (closePart_cell s.chip h)
  · exact does_junctionClosed hu hj (closePart_block s.chip h)
  · exact does_junctionClosed hu hj (closePart_region s.chip h)
  · exact does_junctionClosed hu hj (closePart_controller s.chip h)
  · exact does_junctionClosed hu hj (closePart_decoder s.chip h)
  · exact does_junctionClosed hu hj ((closePart_mover s.chip h).trans (closeMover_idle _ idle))
  · exact does_junctionClosed hu hj ((closePart_mover s.chip h).trans (closeMover_busy _ busy))
  · exact does_junctionClosed hu hj (closePart_other s.chip h)
  -- a port and the scheduler, which have no junction
  · exact does_run rfl (portFault_presenting hr ht hp)
  · exact does_run rfl (schedulerFault_releasing hr hn)

end Sys2Proof.Machine

/-!
PROOF. The start: how its stages end, and what release opens (O22).
-/

namespace Sys2Proof.Machine

/-! ## What follows the end of a start stage -/

theorem settleRelease_of_not_released {before : Chip} {s : State} (h : s.chip.start.st ≠ .released) :
    settleRelease before s = s := by
  simp [settleRelease, h]

theorem settleRelease_of_released {before : Chip} {s : State} (hb : before.start.st = .opening)
    (h : s.chip.start.st = .released) : settleRelease before s =
      { s with hif := { s.hif with linearSize := w (3072 * s.chip.linearMcs.length) },
               fuses := burnFloor s.chip.shadow.secFloor s.fuses } := by
  simp [settleRelease, hb, h]

theorem restartAfterUpdate_of_not_recovery {s : State} (h : s.chip.start.st ≠ .recovery) : restartAfterUpdate s = s := by
  simp [restartAfterUpdate, h]

/-! ## The stages (R44, Table 2-3) -/

/-- START_STATE changes with its cause. -/
theorem enterStage_changes {c : Chip} {st : StartState} (h : c.start.st ≠ st) (g : Stage) :
    enterStage c g st = signal { c with start := { c.start with stage := g, st := st } } 22 := by
  simp [enterStage, setStart, updStart, h]

theorem enterStage_start (c : Chip) (g : Stage) (st : StartState) :
    (enterStage c g st).start = { c.start with stage := g, st := st } := by
  by_cases h : c.start.st = st
  · simp [enterStage, setStart, updStart, h]
  · simp [enterStage_changes h]

section
variable (c : Chip) (g : Stage) (st : StartState)

theorem enterStage_shadow : (enterStage c g st).shadow = c.shadow := by
  unfold enterStage setStart; split <;> rfl
theorem enterStage_sysReady : (enterStage c g st).sysReady = c.sysReady := by
  unfold enterStage setStart; split <;> rfl
theorem enterStage_linearMcs : (enterStage c g st).linearMcs = c.linearMcs := by
  unfold enterStage setStart; split <;> rfl

end

/-- A stage that ends in another state than RELEASED and RECOVERY changes the chip only. -/
theorem does_enterStage {s : State} {r : StageReport} {c : Chip} {g : Stage} {st : StartState}
    (h : stageDone s.fuses r s.chip = enterStage c g st) (changes : c.start.st ≠ st) (released : st ≠ .released)
    (recovery : st ≠ .recovery) :
    Does (.startStageDone r) s (signal { c with start := { c.start with stage := g, st := st } } 22) := by
  have start : (s.run (stageDone s.fuses r)).chip.start.st = st := by rw [run_start, h, enterStage_start]
  have next : exec (.startStageDone r) s = .next (s.run (stageDone s.fuses r)) := by
    show Host.Outcome.next (restartAfterUpdate (settleRelease s.chip (s.run (stageDone s.fuses r)))) = _
    rw [settleRelease_of_not_released (by rwa [start]), restartAfterUpdate_of_not_recovery (by rwa [start])]
  exact does_run next (h.trans (enterStage_changes changes g))

section
variable {c : Chip} (f : Fuses) (r : StageReport)

theorem stageDone_s1 (h : c.start.stage = .s1) : stageDone f r c = fusesLoaded f (recordStage c r) := by
  unfold stageDone; rw [h]
theorem stageDone_s2 (h : c.start.stage = .s2) :
    stageDone f r c = pairsChecked r.pair0Pass r.pair1Pass (recordStage c r) := by
  unfold stageDone; rw [h]
theorem stageDone_s6 (h : c.start.stage = .s6) : stageDone f r c =
    (let d := logicTested r (recordStage c r)
     if d.start.full then enterStage d .s6b .selfTest else enterStage d .s7 .memory) := by
  unfold stageDone; rw [h]
theorem stageDone_s8 (h : c.start.stage = .s8) : stageDone f r c = releaseAll (recordStage c r) := by
  unfold stageDone; rw [h]

end

/-- S1 ends with fuses that settle and a known ordering code. -/
theorem fusesLoaded_known {f : Fuses} {c : Chip} (hs : f.unsettled = false)
    (hk : (shadowOf f).orderingCode = 1 ∨ (shadowOf f).orderingCode = 2) :
    fusesLoaded f c = enterStage { c with shadow := shadowOf f } .s2 .bootRom := by
  unfold fusesLoaded
  obtain h | h := hk <;> simp [hs, h]

theorem fusesLoaded_unsettled {f : Fuses} {c : Chip} (hs : f.unsettled = true) :
    fusesLoaded f c = stopStart { c with shadow := shadowOf f } .fuseFault := by
  simp [fusesLoaded, hs]

theorem pairsChecked_none (c : Chip) : pairsChecked false false c = stopStart c .smFault := rfl

/-- S2 with both pairs: pair 0 serves and pair 1 stands by; the boot ROM goes on where no trial run is left to end. -/
theorem pairsChecked_both {c : Chip} (strap : strapOf c ≠ 2) (trial : ((bootBlock c).getD {}).trial = false) :
    pairsChecked true true c = enterStage { c with sm := { active := some 0, relief := some 1 } } .s3 .image := by
  have goesOn : ∀ d : Chip, d.start = c.start → d.flash = c.flash →
      (if strapOf d = 2 then stopStart d .recovery else enterStage (endTrial d) .s3 .image) = enterStage d .s3 .image := by
    intro d start flash
    have strap' : strapOf d ≠ 2 := by rwa [strapOf, start]
    have trial' : ((bootBlock d).getD {}).trial = false := by
      rwa [bootBlock, blockInUse, flash]
    rw [if_neg strap', endTrial, trial']
    rfl
  exact goesOn _ rfl rfl

/-- S6 and S6b where nothing fails. -/
theorem logicTested_passes {r : StageReport} (hr : r.failedRegions = 0) (hc : r.failedCells = []) (hb : r.failedBlocks = [])
    (c : Chip) : logicTested r c = c := by
  simp [logicTested, failRegions, hr, hc, hb, bitsOf_zero, updStart]

/-! ## Release (R58) -/

/-- What the areas and the trims of release may change is left out. -/
def Chip.unplaced (c : Chip) : Chip := { c with areas := [], cal := {}, lanes := [] }

theorem reserveArea_unplaced (c : Chip) (code unit size : Nat) (twin strong high : Bool) :
    ((reserveArea c code unit size twin strong high).getD c).unplaced = c.unplaced := by
  unfold reserveArea
  generalize (if twin then pairsInService c else mcsInService c) = mcs
  dsimp only
  split
  · rfl
  · generalize Option.or _ _ = fit
    cases fit <;> rfl

theorem reserveAreas_unplaced (c : Chip) : (reserveAreas c).unplaced = { c with linearMcs := mcsInService c }.unplaced := by
  unfold reserveAreas
  dsimp only
  rw [reserveArea_unplaced, reserveArea_unplaced, reserveArea_unplaced, reserveArea_unplaced]
  rfl

theorem quadTrim_unplaced (c : Chip) (q : Nat) : (quadTrim c q).unplaced = c.unplaced :=
  foldl_keeps Chip.unplaced takeTrim (fun _ _ => rfl) _ _

theorem applyTrims_unplaced (c : Chip) (items : List Nat) : (applyTrims c items).unplaced = c.unplaced :=
  foldl_keeps Chip.unplaced quadTrim quadTrim_unplaced _ _

theorem field_of_unplaced {α : Type} {c d : Chip} (f : Chip → α) (hf : ∀ x : Chip, f x.unplaced = f x)
    (h : d.unplaced = c.unplaced) : f d = f c := by rw [← hf d, ← hf c, h]

section
variable (c : Chip) (items : List Nat)

theorem applyTrims_start : (applyTrims c items).start = c.start :=
  field_of_unplaced Chip.start (fun _ => rfl) (applyTrims_unplaced c items)
theorem applyTrims_shadow : (applyTrims c items).shadow = c.shadow :=
  field_of_unplaced Chip.shadow (fun _ => rfl) (applyTrims_unplaced c items)
theorem applyTrims_sysReady : (applyTrims c items).sysReady = c.sysReady :=
  field_of_unplaced Chip.sysReady (fun _ => rfl) (applyTrims_unplaced c items)
theorem applyTrims_linearMcs : (applyTrims c items).linearMcs = c.linearMcs :=
  field_of_unplaced Chip.linearMcs (fun _ => rfl) (applyTrims_unplaced c items)

theorem reserveAreas_start : (reserveAreas c).start = c.start :=
  (field_of_unplaced Chip.start (fun _ => rfl) (reserveAreas_unplaced c) :)
theorem reserveAreas_shadow : (reserveAreas c).shadow = c.shadow :=
  (field_of_unplaced Chip.shadow (fun _ => rfl) (reserveAreas_unplaced c) :)
theorem reserveAreas_linearMcs : (reserveAreas c).linearMcs = mcsInService c :=
  (field_of_unplaced Chip.linearMcs (fun _ => rfl) (reserveAreas_unplaced c) :)

theorem releaseDefaults_start : (releaseDefaults c).start = c.start := by
  unfold releaseDefaults
  rw [applyTrims_start]
  exact reserveAreas_start c
theorem releaseDefaults_shadow : (releaseDefaults c).shadow = c.shadow := by
  unfold releaseDefaults
  rw [applyTrims_shadow]
  exact reserveAreas_shadow c
/-- SYS_READY is high from release on. -/
theorem releaseDefaults_sysReady : (releaseDefaults c).sysReady = true := by
  unfold releaseDefaults
  rw [applyTrims_sysReady]
/-- The linear space covers the controllers in service (R435). -/
theorem releaseDefaults_linearMcs : (releaseDefaults c).linearMcs = mcsInService c := by
  unfold releaseDefaults
  rw [applyTrims_linearMcs]
  exact reserveAreas_linearMcs c

end

section
variable (c : Chip)

theorem settleTrial_start : (settleTrial c).start = { c.start with tjMax := -32768 } := by
  unfold settleTrial; dsimp only; split <;> rfl
/-- The floor of the security version is raised to the version that runs (R51). -/
theorem settleTrial_secFloor :
    (settleTrial c).shadow.secFloor = c.shadow.secFloor ||| thermometer c.start.secVer := by
  unfold settleTrial; dsimp only; split <;> rfl
theorem settleTrial_mcs : (settleTrial c).mcs = c.mcs := by
  unfold settleTrial; dsimp only; split <;> rfl

end

/-- The chip as START_RELEASED finds it. -/
def opened (c : Chip) : Chip := stopStart (releaseDefaults (settleTrial c)) .released

section
variable (c : Chip)

theorem opened_start : (opened c).start = { c.start with tjMax := -32768, stage := .off, st := .released } := by
  rw [opened, stopStart, enterStage_start, releaseDefaults_start, settleTrial_start]
theorem opened_secFloor : (opened c).shadow.secFloor = c.shadow.secFloor ||| thermometer c.start.secVer := by
  rw [opened, stopStart, enterStage_shadow, releaseDefaults_shadow, settleTrial_secFloor]
theorem opened_sysReady : (opened c).sysReady = true := by
  rw [opened, stopStart, enterStage_sysReady, releaseDefaults_sysReady]
theorem opened_linearMcs : (opened c).linearMcs = mcsInService c := by
  have same : mcOk (settleTrial c) = mcOk c := by funext m; rw [mcOk, mcOk, settleTrial_mcs]
  rw [opened, stopStart, enterStage_linearMcs, releaseDefaults_linearMcs, mcsInService, mcsInService, same]

end

/-- Where no block and no cell failed its self-test, release isolates none of them (R57). -/
theorem releaseCells_none {c : Chip} (hb : c.start.failedBlocks = []) (hc : c.start.failedCells = []) :
    ∃ x, releaseCells c = { c with faults := x } := by
  unfold releaseCells
  rw [hb]
  dsimp only [List.foldl_nil]
  rw [hc]
  exact ⟨_, rfl⟩

theorem releaseAll_eq (c : Chip) : releaseAll c = releaseCells (raise (opened c) 0x0001 (releasedData (opened c))) := rfl

/-- Release is the opening of the controller with START_RELEASED, where every block and cell passed its self-test. -/
theorem releaseAll_opens {c : Chip} (hb : c.start.failedBlocks = []) (hc : c.start.failedCells = []) :
    (releaseAll c).start = (opened c).start ∧ (releaseAll c).shadow = (opened c).shadow ∧
      (releaseAll c).sysReady = (opened c).sysReady ∧ (releaseAll c).linearMcs = (opened c).linearMcs := by
  rw [releaseAll_eq]
  have start := opened_start c
  generalize opened c = o at start
  obtain ⟨x, h⟩ := releaseCells_none (c := raise o 0x0001 (releasedData o)) (by rw [raise_start, start]; exact hb)
    (by rw [raise_start, start]; exact hc)
  rw [h]
  exact ⟨rfl, rfl, rfl, rfl⟩

/-- The last stage opens the host interface and burns the floor (R51, R58, R435). -/
theorem startStageDone_releases {s : State} {r : StageReport} {x : Chip} (h : stageDone s.fuses r s.chip = x)
    (opening : s.chip.start.st = .opening) (released : x.start.st = .released) :
    exec (.startStageDone r) s = .next { s.run (stageDone s.fuses r) with
      hif := { (s.run (stageDone s.fuses r)).hif with linearSize := w (3072 * x.linearMcs.length) }
      fuses := burnFloor x.shadow.secFloor s.fuses } := by
  subst h
  have runs : (s.run (stageDone s.fuses r)).chip.start.st = .released := by rw [run_start, released]
  show Host.Outcome.next (restartAfterUpdate (settleRelease s.chip (s.run (stageDone s.fuses r)))) = _
  rw [settleRelease_of_released opening runs, restartAfterUpdate_of_not_recovery (by rw [runs]; nofun), run_linearMcs,
    run_shadow, run_fuses]

/-- Settles O22: a stage ends in one change of START_STATE, and the last one in the release. -/
theorem startRunsToRelease : Obligations.StartRunsToRelease := by
  refine ⟨fun s r => ?_, fun s r hs hst hc hb => ?_⟩
  · have st : (recordStage s.chip r).start.st = s.chip.start.st := rfl
    refine ⟨fun hs hst settled known => ?_, fun hs hst unsettled => ?_, fun hs hst h0 h1 => ?_,
      fun hs hst h0 h1 strap trial => ?_, fun hs hst hr hc hb => ?_⟩
    · have ends := (stageDone_s1 s.fuses r hs).trans (fusesLoaded_known settled known)
      exact (does_enterStage ends (by simp [st, hst]) nofun nofun :)
    · have ends := (stageDone_s1 s.fuses r hs).trans (fusesLoaded_unsettled unsettled)
      exact (does_enterStage ends (by simp [st, hst]) nofun nofun :)
    · have ends := stageDone_s2 s.fuses r hs
      rw [h0, h1, pairsChecked_none] at ends
      exact (does_enterStage ends (by simp [st, hst]) nofun nofun :)
    · have strap' : strapOf (recordStage s.chip r) ≠ 2 := strap
      have trial' : ((bootBlock (recordStage s.chip r)).getD {}).trial = false := trial
      have ends := stageDone_s2 s.fuses r hs
      rw [h0, h1, pairsChecked_both strap' trial'] at ends
      exact (does_enterStage ends (by simp [st, hst]) nofun nofun :)
    · have ends := stageDone_s6 s.fuses r hs
      rw [logicTested_passes hr hc hb] at ends
      split
      · rename_i full
        exact (does_enterStage (ends.trans (if_pos full)) (by simp [st, hst]) nofun nofun :)
      · rename_i quick
        exact (does_enterStage (ends.trans (if_neg quick)) (by simp [st, hst]) nofun nofun :)
  · have ends := stageDone_s8 s.fuses r hs
    obtain ⟨start, shadow, ready, linear⟩ := releaseAll_opens (c := recordStage s.chip r) hb hc
    rw [opened_start] at start
    rw [opened_sysReady] at ready
    have floor := (congrArg FuseArray.secFloor shadow).trans (opened_secFloor (recordStage s.chip r))
    have linear' : (releaseAll (recordStage s.chip r)).linearMcs = mcsInService s.chip :=
      linear.trans (opened_linearMcs (recordStage s.chip r))
    refine ⟨_, startStageDone_releases ends hst (by rw [start]), ?_⟩
    simp only [run_start, run_sysReady, run_linearMcs, ends, start, linear', floor, ready]
    exact ⟨trivial, trivial, trivial, trivial, trivial, rfl⟩

end Sys2Proof.Machine

/-!
PROOF. What reset gives (O3), what nothing outside release does (O19), and what POR_N and HIF_RESET do (O21).
-/

namespace Sys2Proof.Machine

/-- Settles O3: each value stands in the definition of the reset state. -/
theorem resetValues : Obligations.ResetValues := by
  refine ⟨?_, ?_, ?_, ?_, ?_, rfl, rfl, rfl⟩
  -- the indices and counts of Table 17-4
  · exact ⟨rfl, rfl, rfl, rfl, rfl, rfl, rfl, rfl, rfl⟩
  -- the interrupts of Table 17-5
  · exact ⟨rfl, rfl, rfl, rfl⟩
  -- the aperture of Table 17-6
  · exact ⟨rfl, rfl, rfl, rfl, rfl, rfl, rfl, rfl⟩
  -- T and INCREMENT (R357, R358)
  · exact ⟨rfl, rfl, rfl, rfl, rfl⟩
  -- the outputs of R42
  · exact ⟨rfl, rfl, rfl, rfl⟩

/-! ## Outside RELEASED and SHUTTING_DOWN -/

theorem restartWhenDown_of_not_released {s : State} (h : s.chip.start.st ≠ .released) : restartWhenDown s = s := by
  simp [restartWhenDown, h]

section
variable {s : State} (h : running s.chip = false)
include h

theorem not_released_of_not_running : s.chip.start.st ≠ .released := by
  intro released
  simp [running, released] at h

theorem runLive_of_not_running (f : Chip → Chip) : s.runLive f = s := by
  simp [State.runLive, h]

/-- No read of a visit fails while no visit is made. -/
theorem failNext_of_not_running (mc word : Nat) (f : ScrubFinding) (after : State) : failNext mc word f s after = after := by
  simp [failNext, h]

/-- HIF_RESET in RELEASED waits for the rails, and a command that only happens live lowers none (R439). -/
theorem restartWhenDown_runLive_of_not_running (f : Chip → Chip) : restartWhenDown (s.runLive f) = s := by
  rw [runLive_of_not_running h, restartWhenDown_of_not_released (not_released_of_not_running h)]

/-- A live command runs only while the data plane does; what follows it changes nothing then. -/
theorem ignores_of_not_running {i : Instr} (live : liveCommand i = true) : Ignores i s := by
  cases i with
  | abortSettled | dstPacketReceived | holeDeclaredLost | dstPathSilent | dstPathDown | dstPathUp | dstStreamLost
  | dstAnchorRequested | authTrailerTimeout | dstCounters | tileRowDecoded | decodeResume | tileComplete
  | tileRunStopped | tileRedispatch | projection | latestStartPassed | frameDeadline | l3CopyDone | frameBoundary
  | lineInstant | departureWindowClose | stoDriveDown | stoDriveUp | trainingPhaseEnd | trainingTimeout | laneReport
  | laneFault | pointsSwitch | laneRetry | lnkReturnLost | lnkReturnUp | tapAdapt | laneWake | drvHello | cmdAck
  | cmdRepeat | drvStatus | mapRestoreDone | persistenceTimer | stoPersisted | storePutDone | storeReadAhead | itemEnd
  | memTemperatureRead | refreshDue | refreshWindowStart | rowActivation | retrainDue | retrainPauseEnd | memRepaired
  | strongFillDone | moverLineComplete | calAutoRun | calRunDone | trimEvaluate | calRecord | perfConfigApply
  | snapshotLatch | islandClockStep | fwUpdateDone | networkControlFrame =>
    exact ignores_runLive rfl h
  | powerSequenceStep | pwrFault | thermalSample =>
    exact congrArg Host.Outcome.next (restartWhenDown_runLive_of_not_running h _)
  | scrubVisit mc word f =>
    exact congrArg Host.Outcome.next ((failNext_of_not_running h mc.val word f _).trans (runLive_of_not_running h _))
  | _ => cases live

/-- Without a `perf_snapshot` in hand a pass of the reader answers none. -/
theorem ignores_readerPass (held : s.chip.cci.held = none) : Ignores .readerPass s := by
  have idle : answerSnapshot s = s := by simp [answerSnapshot, held]
  show Host.Outcome.next (answerSnapshot (s.runLive readerPass)) = _
  rw [runLive_of_not_running h, idle]

end

/-- Settles O19: outside release a live command and the reader's pass do not run. -/
theorem nothingLiveOutsideRelease : Obligations.NothingLiveOutsideRelease :=
  fun _ h => ⟨fun _ live => ignores_of_not_running h live, ignores_readerPass h⟩

/-! ## POR_N (R41 to R43) -/

theorem porFall_short {n : Nat} (h : n < 1000) (s : State) : porFall n s = s := by
  simp [porFall, h]

theorem porFall_resets {n : Nat} {s : State} (h : 1000 ≤ n) (high : s.chip.porLow = false) : porFall n s = freshState s := by
  simp [porFall, high, Nat.not_lt.mpr h]

/-- The flash keeps what it holds, unless step 5 of `shutdown` was erasing the record log (R62). -/
theorem freshChip_flash {c : Chip} (h : c.start.shutStep ≠ 5) : (freshChip c).flash = c.flash := by
  simp [freshChip, State.resetChip, h]

theorem freshChip_ports {c : Chip} {p : Port} (h : p ∈ (freshChip c).ports) : p.tt = none := by
  rw [List.eq_of_mem_replicate h]

theorem freshChip_lanes {c : Chip} {l : Lane} (h : l ∈ (freshChip c).lanes) : l.st = .idle := by
  rw [List.eq_of_mem_replicate h]

theorem porRise_begins {s : State} (low : s.chip.porLow = true) (boot : BitVec 2) (i2c : BitVec 3) : porRise boot i2c s =
    { s with
      chip := { s.chip with
        porLow := false
        start := { s.chip.start with strapBoot := boot, strapI2c := i2c, bootOverride := false, stage := .s1 } }
      evt := logStrap boot s.evt } := by
  simp [porRise, low, updStart]

/-! ## HIF_RESET (R439) -/

/-- Key and kind of HIF_RESET. -/
def ResetWord (v : U32) : Prop := fld v.toNat 7 0 = 0xA5 ∧ fld v.toNat 11 8 = 1

theorem hifResetWrite_ignored {v : U32} (h : ¬ResetWord v) (s : State) : hifResetWrite v s = s := by
  have other : (decide (fld v.toNat 7 0 ≠ 0xA5) || decide (fld v.toNat 11 8 ≠ 1)) = true := by
    simpa [ResetWord, imp_iff_not_or] using h
  unfold hifResetWrite
  rw [if_pos (by rw [Bool.or_assoc, other, Bool.or_true])]

theorem hifResetWrite_refused {s : State} (released : s.chip.start.st = .released) (leave : s.chip.cfg.hostRestart = false)
    (v : U32) : hifResetWrite v s = s := by
  simp [hifResetWrite, released, leave]

/-- With no rail up or on its way there is nothing to lower. -/
theorem lowerPanel_dark {c : Chip} (rails : c.power.railsUp = false) (run : c.power.run = .idle) : lowerPanel c = c := by
  simp [lowerPanel, rails, run]

/-- What HIF_RESET does in RELEASED before its restart: the restart is due, and the panel rails go down. -/
def lowerForReset (c : Chip) : Chip := lowerPanel (updStart c (fun x => { x with restartDue := true }))

theorem lowerForReset_dark {c : Chip} (rails : c.power.railsUp = false) (run : c.power.run = .idle) :
    lowerForReset c = { c with start := { c.start with restartDue := true } } := lowerPanel_dark rails run

theorem restartWhenDown_due {s : State} (released : s.chip.start.st = .released) (due : s.chip.start.restartDue = true)
    (dark : railsMoving s.chip = false) : restartWhenDown s = restart false s := by
  simp [restartWhenDown, released, due, dark]

/-- A restart from `u` takes over from `s` all that it takes over (R41, R377, R439). -/
structure TakesOver (u s : State) : Prop where
  strapBoot : u.chip.start.strapBoot = s.chip.start.strapBoot
  strapI2c : u.chip.start.strapI2c = s.chip.start.strapI2c
  bootOverride : u.chip.start.bootOverride = s.chip.start.bootOverride
  outside : u.chip.faults.outside = s.chip.faults.outside

section
variable {v : U32} {s : State} (hp : hpReach s.chip = true) (word : ResetWord v)
include hp word

theorem hifResetWrite_stopped (h : s.chip.start.st = .recovery ∨ s.chip.start.st = .halted) :
    hifResetWrite v s = restart (s.chip.start.st = .recovery && s.chip.start.restartDue) s := by
  obtain ⟨key, kind⟩ := word
  simp [hifResetWrite, hp, key, kind, h]

theorem hifResetWrite_released (released : s.chip.start.st = .released) (leave : s.chip.cfg.hostRestart = true)
    (rails : s.chip.power.railsUp = false) (run : s.chip.power.run = .idle) :
    ∃ u, hifResetWrite v s = restart false u ∧ TakesOver u s := by
  obtain ⟨key, kind⟩ := word
  have write : hifResetWrite v s = restartWhenDown (s.run lowerForReset) := by
    simp [hifResetWrite, hp, key, kind, released, leave]
    rfl
  have dark := lowerForReset_dark rails run
  have start : (s.run lowerForReset).chip.start = { s.chip.start with restartDue := true } := by rw [run_start, dark]
  have power : (s.run lowerForReset).chip.power = s.chip.power := by rw [run_power, dark]
  have faults : (s.run lowerForReset).chip.faults = s.chip.faults := by rw [run_faults, dark]
  have still : railsMoving (s.run lowerForReset).chip = false := by
    rw [railsMoving, power, rails, run]; rfl
  rw [restartWhenDown_due (by rw [start]; exact released) (by rw [start]) still] at write
  exact ⟨_, write, by rw [start], by rw [start], by rw [start], by rw [faults]⟩

/-- HIF_RESET restarts the controller from RECOVERY and HALTED, and from RELEASED by leave of the image (R439). -/
theorem hifResetWrite_restarts (h : s.chip.start.st = .recovery ∨ s.chip.start.st = .halted ∨
      (s.chip.start.st = .released ∧ s.chip.cfg.hostRestart = true ∧ s.chip.power.railsUp = false ∧
        s.chip.power.run = .idle)) :
    ∃ u, hifResetWrite v s = restart (s.chip.start.st = .recovery && s.chip.start.restartDue) u ∧ TakesOver u s := by
  obtain recovery | halted | ⟨released, leave, rails, run⟩ := h
  · exact ⟨s, hifResetWrite_stopped hp word (.inl recovery), rfl, rfl, rfl, rfl⟩
  · exact ⟨s, hifResetWrite_stopped hp word (.inr halted), rfl, rfl, rfl, rfl⟩
  · rw [released]
    exact hifResetWrite_released hp word released leave rails run

end

theorem restart_bootOverride (b : Bool) (u : State) :
    (restart b u).chip.start.bootOverride = (u.chip.start.bootOverride || b) := rfl

/-- The start log begins anew, with the strap value that the start takes where it is reserved. -/
theorem restart_evt (b : Bool) (u : State) : (restart b u).evt =
    logStrap (if (restart b u).chip.start.bootOverride then 0 else u.chip.start.strapBoot) { nextSeq := 1 } := rfl

/-- Settles O21: POR_N and HIF_RESET are resets of the whole controller, and what each takes over stands in `freshChip`
and `restart`. -/
theorem resetsAndRestarts : Obligations.ResetsAndRestarts := by
  refine ⟨⟨fun s n short => ?_, fun s n long high => ?_, fun s boot i2c low known => ?_, fun s i2c low => ?_⟩,
    fun s v hp => ⟨fun other => ?_, fun released leave => ?_, fun key kind from_ => ?_⟩⟩
  -- POR_N
  · exact congrArg Host.Outcome.next (porFall_short short s)
  · refine ⟨_, congrArg Host.Outcome.next (porFall_resets long high), rfl, rfl, rfl, rfl, rfl, rfl, rfl, rfl, rfl, rfl, rfl,
      rfl, rfl, rfl, rfl, fun p => freshChip_ports, fun l => freshChip_lanes, rfl, rfl, rfl, rfl, rfl, rfl, freshChip_flash⟩
  · have begins := porRise_begins low boot i2c
    rw [logStrap, if_neg known] at begins
    exact congrArg Host.Outcome.next begins
  · exact congrArg Host.Outcome.next (porRise_begins low 3 i2c)
  -- HIF_RESET
  · exact congrArg Host.Outcome.next (hifResetWrite_ignored other s)
  · exact congrArg Host.Outcome.next (hifResetWrite_refused released leave v)
  · obtain ⟨u, resets, kept⟩ := hifResetWrite_restarts hp ⟨key, kind⟩ from_
    refine ⟨_, congrArg Host.Outcome.next resets, rfl, rfl, rfl, rfl, kept.strapBoot, kept.strapI2c, rfl, kept.outside,
      ?_, ?_, rfl, rfl⟩
    · rw [restart_bootOverride, kept.bootOverride]
    · rw [restart_evt, kept.strapBoot]

end Sys2Proof.Machine

/-!
PROOF. The orderly shutdown: how it is accepted, and what each of its steps does (O23).
-/

namespace Sys2Proof.Machine

theorem setStart_changes {c : Chip} {st : StartState} (h : c.start.st ≠ st) :
    setStart c st = signal { c with start := { c.start with st := st } } 22 := by
  simp [setStart, h]

/-! ## The lanes of every group go to electrical idle (R42, R293) -/

/-- What one member of the list brings about, and no step undoes, holds after the fold. -/
theorem foldl_establishes {α β : Type} {P : α → Prop} {f : α → β → α} (keeps : ∀ a b, P a → P (f a b)) {b : β}
    (makes : ∀ a, P (f a b)) {l : List β} (hb : b ∈ l) (a : α) : P (l.foldl f a) := by
  induction l generalizing a with
  | nil => cases hb
  | cons x l ih =>
    obtain rfl | hb := List.mem_cons.mp hb
    · exact List.foldlRecOn l f (makes a) (fun a h x _ => keeps a x h)
    · exact ih hb (f a x)

/-- Entry k after a change of entry i. -/
theorem nth_upd {α : Type} [Inhabited α] (l : List α) (i k : Nat) (f : α → α) :
    nth (upd l i f) k = if i = k ∧ k < l.length then f (nth l k) else nth l k := by
  unfold nth upd
  rw [List.getD_eq_getElem?_getD, List.getElem?_modify, List.getD_eq_getElem?_getD]
  by_cases hk : k < l.length
  · by_cases hi : i = k <;> simp [hk, hi]
  · simp [hk]

/-- The lane is in electrical idle. -/
def LaneIdle (k : Nat) (c : Chip) : Prop := (lane c k).st = .idle

theorem LaneIdle.updLane {k : Nat} {c : Chip} {f : Lane → Lane} (hf : ∀ x, (f x).st = .idle ∨ (f x).st = x.st)
    (h : LaneIdle k c) (l : Nat) : LaneIdle k (updLane c l f) := by
  show (nth (upd c.lanes l f) k).st = .idle
  rw [nth_upd]
  split
  · exact (hf _).elim id (·.trans h)
  · exact h

theorem LaneIdle.endSleep {k : Nat} {c : Chip} (h : LaneIdle k c) (l : Nat) : LaneIdle k (endSleep c l) := by
  unfold Machine.endSleep
  split
  · exact h
  · refine LaneIdle.updLane (f := fun x => { x with asleep := false }) (fun _ => .inr rfl) ?_ l
    rw [LaneIdle, lane, count_lanes]
    exact h

theorem LaneIdle.idleLane {k : Nat} {c : Chip} (h : LaneIdle k c) (l : Nat) : LaneIdle k (idleLane c l) :=
  LaneIdle.updLane (fun _ => .inl rfl) (h.endSleep l) l

/-- A lane that the part has not counts as idle. -/
theorem idleLane_idle (c : Chip) (l : Nat) : LaneIdle l (idleLane c l) := by
  show (nth (upd (endSleep c l).lanes l _) l).st = .idle
  rw [nth_upd]
  split
  · rfl
  · rename_i h
    rw [nth, List.getD_eq_default _ _ (by simpa using h)]
    rfl

/-- A port whose lanes are idle sends nothing more. -/
def silencePort (x : Port) : Port :=
  { x with trained := false, configured := false, cleared := false, sends := false, switching := [], cmdWaits := [] }

/-- One group of `idleGroups`: its lanes go to idle, and its port sends nothing more. -/
def idleGroup (c : Chip) (p : Nat) : Chip :=
  updPort (((groupLanes c p).filter (fun l => (lane c l).st ≠ .idle)).foldl idleLane c) p silencePort

theorem idleGroups_eq (c : Chip) : idleGroups c = (List.range 4).foldl idleGroup c := rfl

theorem LaneIdle.idleGroup {k : Nat} {c : Chip} (h : LaneIdle k c) (p : Nat) : LaneIdle k (idleGroup c p) :=
  List.foldlRecOn (motive := LaneIdle k) _ Machine.idleLane h (fun _ h l _ => h.idleLane l)

theorem idleGroup_idle {c : Chip} {p l : Nat} (h : l ∈ groupLanes c p) : LaneIdle l (idleGroup c p) := by
  by_cases idle : (lane c l).st = .idle
  · exact LaneIdle.idleGroup idle p
  · exact foldl_establishes (P := LaneIdle l) (fun _ l h => h.idleLane l) (idleLane_idle · l)
      (List.mem_filter.mpr ⟨h, by simp [idle]⟩) c

theorem idleLane_ports (c : Chip) (l : Nat) : (idleLane c l).ports = c.ports := by
  show (endSleep c l).ports = c.ports
  unfold endSleep
  split
  · rfl
  · exact count_ports c _ _ _

/-- A group keeps its lanes when the groups go to idle: a timetable stays in force. -/
theorem groupLanes_idleGroup (c : Chip) (p q : Nat) : groupLanes (idleGroup c q) p = groupLanes c p := by
  have ports := foldl_keeps Chip.ports idleLane idleLane_ports ((groupLanes c q).filter (fun l => (lane c l).st ≠ .idle)) c
  have tt : (port (idleGroup c q) p).tt = (port c p).tt := by
    show (nth (upd _ q silencePort) p).tt = (nth c.ports p).tt
    rw [nth_upd, ports]
    split <;> rfl
  rw [groupLanes, groupMask, tt, groupLanes, groupMask]

theorem groupLanes_idleGroups (c : Chip) (p : Nat) : groupLanes (idleGroups c) p = groupLanes c p :=
  foldl_keeps (groupLanes · p) idleGroup (fun c q => groupLanes_idleGroup c p q) _ c

/-- The lanes of a group are all idle. -/
def GroupIdle (p : Nat) (c : Chip) : Prop := ∀ l ∈ groupLanes c p, LaneIdle l c

theorem idleGroups_idle (c : Chip) {p : Nat} (hp : p < 4) : ∀ l ∈ groupLanes c p, LaneIdle l (idleGroups c) := by
  have idle : GroupIdle p (idleGroups c) := by
    rw [idleGroups_eq]
    refine foldl_establishes (P := GroupIdle p) (fun c q h l hl => ?_) (fun c l hl => ?_) (List.mem_range.mpr hp) c
    · rw [groupLanes_idleGroup] at hl
      exact (h l hl).idleGroup q
    · rw [groupLanes_idleGroup] at hl
      exact idleGroup_idle hl
  intro l hl
  exact idle l (by rwa [groupLanes_idleGroups])

/-! ## What idling the groups leaves of the chip -/

/-- What idling the groups may change is left out. -/
def Chip.ungrouped (c : Chip) : Chip := { c.uncounted with lanes := [], ports := [] }

theorem idleLane_ungrouped (c : Chip) (l : Nat) : (idleLane c l).ungrouped = c.ungrouped := by
  have sleep : (endSleep c l).ungrouped = c.ungrouped := by
    unfold endSleep
    split
    · rfl
    · exact congrArg (fun x : Chip => { x with lanes := [], ports := [] }) (count_uncounted c _ _ _)
  exact sleep

theorem idleGroup_ungrouped (c : Chip) (p : Nat) : (idleGroup c p).ungrouped = c.ungrouped :=
  foldl_keeps Chip.ungrouped idleLane idleLane_ungrouped _ c

theorem idleGroups_ungrouped (c : Chip) : (idleGroups c).ungrouped = c.ungrouped :=
  foldl_keeps Chip.ungrouped idleGroup idleGroup_ungrouped _ c

section
variable (c : Chip)

theorem idleGroups_start : (idleGroups c).start = c.start := (congrArg Chip.start (idleGroups_ungrouped c) :)
theorem idleGroups_cci : (idleGroups c).cci = c.cci := (congrArg Chip.cci (idleGroups_ungrouped c) :)

end

/-! ## `shutdown` is accepted (R60) -/

theorem shutdownBody_accepts {e : Env} {c : Chip} (released : c.start.st = .released) (room : c.cci.jobs.length < 192) :
    shutdownBody e c =
      (let d := (newJob c 0x62 (tagOf e) (sid e) []).2
       abandonRuns (signal { d with start := { d.start with
         st := .shuttingDown
         shutStep := 1, shutJob := c.cci.nextJob, shutSkipPersist := (mw e 0x10).testBit 0
         shutSkipTest := (mw e 0x10).testBit 1, shutFullNext := (mw e 0x10).testBit 2
         shutPersistFailed := false, shutPass := false, shutSignature := [] } } 22),
       { status := 0x0001, result := [w c.cci.nextJob] }) := by
  have free : jobsFull c = false := by simpa [jobsFull] using room
  have before : c.start.st ≠ .shuttingDown := by rw [released]; nofun
  unfold shutdownBody
  rw [free]
  dsimp only
  rw [if_neg nofun, setStart_changes (by exact before)]
  rfl

/-! ## The steps (R61, Table 2-9) -/

section
variable {r : StepReport} {c : Chip} (st : c.start.st = .shuttingDown) (serves : smServes c = true)
include st serves

theorem shutStepDone_first (h : c.start.shutStep = 1) : shutStepDone r c = lowerPanel (setShut c 2) := by
  simp [shutStepDone, st, serves, h]
theorem shutStepDone_second (h : c.start.shutStep = 2) : shutStepDone r c = afterPanel (panelDown c) := by
  simp [shutStepDone, st, serves, h]
theorem shutStepDone_third (h : c.start.shutStep = 3) : shutStepDone r c = afterPersist (persistEnds r.timedOut c) := by
  simp [shutStepDone, st, serves, h]
theorem shutStepDone_fourth (h : c.start.shutStep = 4) : shutStepDone r c = setShut (shutdownTested r c) 5 := by
  simp [shutStepDone, st, serves, h]
theorem shutStepDone_fifth (h : c.start.shutStep = 5) : shutStepDone r c = setShut (appendRecord c) 6 := by
  simp [shutStepDone, st, serves, h]
theorem shutStepDone_last (h : c.start.shutStep = 6) : shutStepDone r c = halt c := by
  simp [shutStepDone, st, serves, h]

end

theorem lowerPanel_up {c : Chip} (up : c.power.run = .up) :
    lowerPanel c = { c with power := { c.power with downWaits := c.power.downWaits.or (some 0) } } := by
  simp [lowerPanel, up, updPower]

/-- The step after the persistence copy: the self-test, unless it is omitted. -/
theorem afterPersist_eq (c : Chip) :
    afterPersist c = { c with start := { c.start with shutStep := if c.start.shutSkipTest then 5 else 4 } } := by
  cases test : c.start.shutSkipTest <;> simp [afterPersist, test, setShut, updStart]

theorem afterPanel_eq (c : Chip) : afterPanel c = if c.start.shutSkipPersist = false then enterPersist c
    else { c with start := { c.start with shutStep := if c.start.shutSkipTest then 5 else 4 } } := by
  cases persist : c.start.shutSkipPersist
  · simp [afterPanel, persist]
  · rw [← afterPersist_eq]
    simp [afterPanel, persist, afterPersist]

/-! ## The controller halts (R63) -/

theorem shutdownComplete_none {c : Chip} (h : job? c c.start.shutJob = none) :
    shutdownComplete c = raise c 0x0002 [0, 0x62, 0] := by
  unfold shutdownComplete; rw [h]

theorem shutdownComplete_some {c : Chip} {j : Job} (h : job? c c.start.shutJob = some j) : shutdownComplete c =
    raiseFor { c with cci := { c.cci with
      jobs := c.cci.jobs.filter (fun x => x.id ≠ j.id)
      finished := ({ id := j.id, opcode := j.opcode, tag := j.tag, terminal := .completed, lastLine := 0 } ::
        c.cci.finished).take 256 } } 0x0002 j.tag j.owner [w j.id, w j.opcode, 0] := by
  unfold shutdownComplete; rw [h]

/-- The outputs of R42 and T's output, with the lanes of every group in electrical idle. -/
def darkened (c : Chip) : Chip :=
  { idleGroups c with
    power := { (idleGroups c).power with
      en := 0, irefOn := false, railsUp := false, driverUp := false, run := .idle, step := 0, waitOn := none, cmds := [] }
    time := { (idleGroups c).time with ppsOut := false, ppsOutOn := false } }
/-- The chip as HALTED finds it, but for the job of `shutdown`: GDDR7 refreshes itself with no debt (R321). -/
def quiesced (c : Chip) : Chip :=
  { darkened c with
    sysReady := false
    banks := c.banks.map (fun (b : Bank) => { b with debt := 0 })
    mcs := (darkened c).mcs.map (fun (m : Mc) => { m with selfRefresh := m.inService })
    cci := { (darkened c).cci with held := none }
    start := { (darkened c).start with shutStep := 0 } }

theorem holdOutputs_eq (c : Chip) : holdOutputs c = darkened c := by
  unfold holdOutputs updPower; rfl

theorem halt_eq (c : Chip) : halt c = setStart (shutdownComplete (quiesced c)) .halted := by
  unfold halt quiesced setShut updStart
  rw [holdOutputs_eq]

section
variable {c : Chip}

theorem quiesced_start : (quiesced c).start = { c.start with shutStep := 0 } :=
  congrArg (fun x : Start => { x with shutStep := 0 }) (idleGroups_start c)

theorem quiesced_cci : (quiesced c).cci = { c.cci with held := none } :=
  congrArg (fun x : Cci => { x with held := none }) (idleGroups_cci c)

theorem quiesced_job : job? (quiesced c) (quiesced c).start.shutJob = job? c c.start.shutJob := by
  rw [job?, quiesced_cci, quiesced_start]; rfl

variable (st : c.start.st = .shuttingDown)
include st

theorem quiesced_running : (quiesced c).start.st ≠ .halted := by
  rw [quiesced_start, st]; nofun

/-- SHUTDOWN_COMPLETE comes before the cause of HALTED. -/
theorem halt_none (h : job? c c.start.shutJob = none) : halt c =
    signal (raise { quiesced c with start := { (quiesced c).start with st := .halted } } 0x0002 [0, 0x62, 0]) 22 := by
  rw [halt_eq, shutdownComplete_none (quiesced_job.trans h), setStart_changes (by rw [raise_start]; exact quiesced_running st)]
  rfl

/-- The job of `shutdown` ends with its one event, SHUTDOWN_COMPLETE (R88). -/
theorem halt_some {j : Job} (h : job? c c.start.shutJob = some j) : halt c =
    signal (raiseFor { quiesced c with
      start := { (quiesced c).start with st := .halted }
      cci := { (quiesced c).cci with
        jobs := c.cci.jobs.filter (fun x => x.id ≠ j.id)
        finished := ({ id := j.id, opcode := j.opcode, tag := j.tag, terminal := .completed, lastLine := 0 } ::
          c.cci.finished).take 256 } } 0x0002 j.tag j.owner [w j.id, w j.opcode, 0]) 22 := by
  have jobs : (quiesced c).cci.jobs = c.cci.jobs := by rw [quiesced_cci]
  have finished : (quiesced c).cci.finished = c.cci.finished := by rw [quiesced_cci]
  rw [halt_eq, shutdownComplete_some (quiesced_job.trans h),
    setStart_changes (by rw [raiseFor_start]; exact quiesced_running st), jobs, finished]
  rfl

end

/-- Settles O23: `shutdown` enters its job and step 1, and each step hands over to the next until the controller halts. -/
theorem shutdownRunsItsSteps : Obligations.ShutdownRunsItsSteps := by
  refine ⟨fun s via m k admitted => ?_, fun s r st serves => ⟨fun first => ?_, fun first idle rails => ?_,
    fun first up => ?_, fun second => ?_, fun third => ?_, fun fourth => ?_, fun fifth => ?_, fun last => ?_⟩⟩
  · intro e c released room
    exact answered_cci rfl admitted rfl (shutdownBody_accepts released room)
  · exact does_run rfl (shutStepDone_first st serves first)
  · exact does_run rfl ((shutStepDone_first st serves first).trans (lowerPanel_dark rails idle))
  · exact does_run rfl ((shutStepDone_first st serves first).trans (lowerPanel_up up))
  · exact does_run rfl ((shutStepDone_second st serves second).trans (afterPanel_eq _))
  · exact does_run rfl ((shutStepDone_third st serves third).trans (afterPersist_eq _))
  · exact does_run rfl (shutStepDone_fourth st serves fourth)
  · exact does_run rfl ((shutStepDone_fifth st serves fifth).trans (by rfl))
  · have halts := shutStepDone_last (r := r) st serves last
    have ends : ∀ c, halt s.chip = c → Does (.shutdownStepDone r) s c := fun c h => does_run rfl (halts.trans h)
    exact ⟨fun p hp => idleGroups_idle s.chip hp, fun unjobbed => (ends _ (halt_none st unjobbed) :),
      fun j jobbed => (ends _ (halt_some st jobbed) :)⟩

end Sys2Proof.Machine

/-!
PROOF. `fw_update`: pieces and whole images, and the checks that end its job (O24).
-/

namespace Sys2Proof.Machine

/-! ## The message (R85) -/

/-- The operands of `fw_update` pass its checks, and no job of it waits. -/
structure FwAdmitted (e : Env) (c : Chip) : Prop where
  idle : c.start.fwJob = 0
  kind : bufKindOk e (bufAt e 0x10) = true
  sound : bufFault c (sid e) false (bufAt e 0x10) = none
  whole : (bufAt e 0x10).kind = 2 ∨ mw e 0x20 = 0
  follows : mw e 0x20 = 0 ∨ mw e 0x20 = c.start.fwNext
  fits : mw e 0x20 + (bufAt e 0x10).len ≤ 0x02000000

/-- The message starts no job, or there is room for one (R88). -/
def FwRoom (e : Env) (c : Chip) : Prop :=
  c.start.st = .recovery ∨ ((bufAt e 0x10).kind = 2 ∧ bit e 0x24 0 = false) ∨ c.cci.jobs.length < 192

theorem FwRoom.free {e : Env} {c : Chip} (h : FwRoom e c) :
    (c.start.st ≠ .recovery && ((bufAt e 0x10).kind ≠ 2 || bit e 0x24 0) && jobsFull c) = false := by
  obtain recovery | ⟨inline, more⟩ | free := h
  · simp [recovery]
  · simp [inline, more]
  · simp [jobsFull, Nat.not_le.mpr free]

section
variable {e : Env} {c : Chip} (h : FwAdmitted e c)
include h

theorem FwAdmitted.operands : (!bufKindOk e (bufAt e 0x10) || ((bufAt e 0x10).kind ≠ 2 && mw e 0x20 ≠ 0) ||
    (mw e 0x20 ≠ 0 && mw e 0x20 ≠ c.start.fwNext) || 0x02000000 < mw e 0x20 + (bufAt e 0x10).len) = false := by
  have fits := Nat.not_lt.mpr h.fits
  simpa [h.kind, fits, or_iff_not_imp_left] using And.intro h.whole.resolve_left h.follows.resolve_left

variable (room : FwRoom e c)
include room

/-- An image in a buffer is taken whole. -/
theorem fwUpdateBody_buffer (buffer : (bufAt e 0x10).kind ≠ 2) : fwUpdateBody e c = fwWhole c e (bufAt e 0x10) := by
  unfold fwUpdateBody
  dsimp only
  rw [h.operands, h.sound]
  dsimp only
  rw [room.free, if_neg nofun, if_neg nofun, if_neg (not_not.mpr h.idle), if_pos buffer]

/-- Inline data is taken as a piece. -/
theorem fwUpdateBody_inline (inline : (bufAt e 0x10).kind = 2) (comes : (bufAt e 0x10).len ≤ e.inline.length) :
    fwUpdateBody e c = fwPiece c e (mw e 0x20) (bit e 0x24 0) (e.inline.take (bufAt e 0x10).len) := by
  unfold fwUpdateBody
  dsimp only
  rw [h.operands, h.sound]
  dsimp only
  rw [room.free, if_neg nofun, if_neg nofun, if_neg (not_not.mpr h.idle), if_neg (not_not.mpr inline),
    if_neg (Nat.not_lt.mpr comes)]

end

/-- The target slot with a piece: the first one finds it erased (R85). -/
def withPiece (c : Chip) (off : Nat) (d : List Byte) : Chip :=
  setSlot c (fwTarget c) { bytes := (if off = 0 then [] else (slotOf c (fwTarget c)).bytes) ++ d }

section
variable (c : Chip) (e : Env) (off : Nat) (d : List Byte)

theorem withPiece_eq :
    setSlot c (fwTarget c) { bytes := if off = 0 then d else (slotOf c (fwTarget c)).bytes ++ d } = withPiece c off d := by
  unfold withPiece
  split <;> rfl

theorem fwPiece_more : fwPiece c e off false d =
    ({ withPiece c off d with start := { (withPiece c off d).start with fwNext := off + d.length } }, { status := 0 }) := by
  unfold fwPiece
  dsimp only
  rw [withPiece_eq]
  rfl

theorem fwPiece_final : fwPiece c e off true d =
    (let p := updStart (withPiece c off d) (fun x => { x with fwNext := 0 })
     if p.start.st = .recovery then recoveryChecks p (fwTarget c) else fwStart p e [] []) := by
  unfold fwPiece
  dsimp only
  rw [withPiece_eq, if_neg nofun]

end

section
variable {c : Chip} {e : Env} {b : Buf}

theorem fwWhole_job (h : c.start.st ≠ .recovery) : fwWhole c e b =
    fwStart (updStart (setSlot c (fwTarget c) {}) (fun x => { x with fwNext := 0 })) e (bufHolds b) [b.lo, b.hi, b.len, b.kind] :=
  if_pos h

theorem fwWhole_recovery {img : List Byte} (h : c.start.st = .recovery) (read : (bufRead c e.inline b 0 b.len).2 = some img) :
    fwWhole c e b = recoveryChecks (setSlot (bufRead c e.inline b 0 b.len).1 (fwTarget c) { bytes := img }) (fwTarget c) := by
  unfold fwWhole
  dsimp only
  rw [if_neg (not_not.mpr h), read]

end

/-! ## The checks end the job (R50, R51) -/

theorem fwTarget_running {c : Chip} (h : running c = true) : fwTarget c = !c.start.slotB := by
  have other : c.start.st ≠ .recovery := by
    intro recovery
    simp [running, recovery] at h
  exact if_pos other

theorem slotOf_setSlot (c : Chip) (b : Bool) (x : Slot) : slotOf (setSlot c b x) b = x := by
  cases b <;> rfl

theorem setSlot_setSlot (c : Chip) (b : Bool) (x y : Slot) : setSlot (setSlot c b x) b y = setSlot c b y := by
  cases b <;> rfl

/-- What the checks of R50 look at is not in the slots. -/
theorem imageValid_setSlot (c : Chip) (b : Bool) (x : Slot) (d : List Byte) : imageValid (setSlot c b x) d = imageValid c d := rfl

/-- What the checks on an image do to its slot and its job. -/
def fwChecked (c : Chip) (b : Bool) (d : List Byte) (job : Nat) : Chip :=
  if imageValid c d then endJob (preferSlot (setSlot c b { bytes := d }) b) job .completed 0 0 []
  else endJob (setSlot c b { bytes := d, invalid := true }) job .failed 0x0110 0 []

/-- The job that waits for the checks is taken from `start`. -/
def fwTaken (c : Chip) : Chip := updStart c (fun x => { x with fwJob := 0, fwBuf := [], fwCut := false })

theorem checkWritten_ends (c : Chip) (b : Bool) (d : List Byte) (job : Nat) :
    (let x := checkWritten (setSlot c b { bytes := d }) b
     if x.2 then endJob x.1 job .completed 0 0 [] else endJob x.1 job .failed stINVALID_IMAGE 0 []) = fwChecked c b d job := by
  unfold checkWritten fwChecked
  rw [slotOf_setSlot, imageValid_setSlot, setSlot_setSlot]
  split <;> rfl

/-- The buffer that the job has still to read. -/
def fwBuffer (l : List Nat) : Buf := { lo := nth l 0, hi := nth l 1, len := nth l 2, kind := nth l 3 }

section
variable {c : Chip} (h : c.start.fwJob ≠ 0)
include h

/-- The transfer of the image was cut off (R426). -/
theorem fwDone_cut (cut : c.start.fwCut = true) : fwDone c = endJob (fwTaken c) c.start.fwJob .failed 0x0111 0 [] := by
  unfold fwDone
  rw [if_neg h, cut]
  rfl

section
variable (cut : c.start.fwCut = false) (buffer : c.start.fwBuf ≠ [])
include cut buffer

theorem fwDone_unread (read : (bufRead (fwTaken c) [] (fwBuffer c.start.fwBuf) 0 (nth c.start.fwBuf 2)).2 = none) :
    fwDone c = endJob (bufRead (fwTaken c) [] (fwBuffer c.start.fwBuf) 0 (nth c.start.fwBuf 2)).1 c.start.fwJob
      .failed 0x0111 0 [] := by
  unfold fwTaken fwBuffer at read
  unfold fwDone
  rw [if_neg h, cut]
  dsimp only
  rw [if_neg nofun, if_neg buffer, read]
  rfl

theorem fwDone_buffer (runs : running c = true) {d : List Byte}
    (read : (bufRead (fwTaken c) [] (fwBuffer c.start.fwBuf) 0 (nth c.start.fwBuf 2)).2 = some d) :
    fwDone c = fwChecked (bufRead (fwTaken c) [] (fwBuffer c.start.fwBuf) 0 (nth c.start.fwBuf 2)).1 (!c.start.slotB) d
      c.start.fwJob := by
  unfold fwTaken fwBuffer at read
  unfold fwDone
  rw [if_neg h, cut, fwTarget_running runs]
  dsimp only
  rw [if_neg nofun, if_neg buffer, read]
  exact checkWritten_ends _ _ _ _

end

/-- The pieces of an image stand in the slot already. -/
theorem fwDone_pieces (runs : running c = true) (cut : c.start.fwCut = false) (pieces : c.start.fwBuf = []) :
    fwDone c = fwChecked (fwTaken c) (!c.start.slotB) (slotOf c (!c.start.slotB)).bytes c.start.fwJob := by
  unfold fwDone
  rw [if_neg h, cut, fwTarget_running runs]
  dsimp only
  rw [if_neg nofun, if_pos pieces]
  exact checkWritten_ends _ _ _ _

end

/-- Settles O24: the message writes the slot that does not run, and FW_UPDATE_DONE ends the job as the checks say. -/
theorem firmwareIsUpdated : Obligations.FirmwareIsUpdated := by
  refine ⟨fun s via m k admitted => ?_, fun s runs job => ⟨fun cut => ?_, fun cut pieces => ?_,
    fun cut buffer => ⟨fun unread => ?_, fun d read => ?_⟩⟩⟩
  · intro e c b off final slot idle kind sound follows fits
    refine ⟨fun inline comes => ?_, fun buffer begins => ?_⟩
    · have checks : FwAdmitted e c := ⟨idle, kind, sound, .inl inline, follows, fits⟩
      have piece (room : FwRoom e c) := fwUpdateBody_inline checks room inline comes
      have length : (e.inline.take b.len).length = b.len := List.length_take_of_le comes
      refine ⟨fun more => ?_, fun last => ⟨fun live free => ?_, fun recovery => ?_⟩⟩
      · refine answered_cci rfl admitted rfl ((piece (.inr (.inl ⟨inline, more⟩))).trans ?_)
        rw [show bit e 0x24 0 = false from more, fwPiece_more, length]
        rfl
      · refine answered_cci rfl admitted rfl ((piece (.inr (.inr free))).trans ?_)
        rw [show bit e 0x24 0 = true from last, fwPiece_final]
        exact if_neg live
      · refine answered_cci rfl admitted rfl ((piece (.inl recovery)).trans ?_)
        rw [show bit e 0x24 0 = true from last, fwPiece_final]
        exact if_pos recovery
    · have checks : FwAdmitted e c := ⟨idle, kind, sound, .inr begins, follows, fits⟩
      exact ⟨fun live free => answered_cci rfl admitted rfl
          ((fwUpdateBody_buffer checks (.inr (.inr free)) buffer).trans (fwWhole_job live)),
        fun img recovery read => answered_cci rfl admitted rfl
          ((fwUpdateBody_buffer checks (.inl recovery) buffer).trans (fwWhole_recovery recovery read))⟩
  -- the end of the job
  · exact does_runLive rfl runs (fwDone_cut job cut)
  · exact does_runLive rfl runs (fwDone_pieces job runs cut pieces)
  · exact does_runLive rfl runs (fwDone_unread job cut buffer unread)
  · exact does_runLive rfl runs (fwDone_buffer job cut buffer runs read)

end Sys2Proof.Machine

/-!
PROOF. The rings, the hold queue and the logs stay within their sizes (O11, O12).
-/

namespace Sys2Proof.Machine

/-- In state `s` the command `i` leads to a next state whose rings are within their sizes. -/
def LeavesRingsWithin (i : Instr) (s : State) : Prop := ∃ t, exec i s = .next t ∧ RingsWithin t

theorem RingsWithin.holdoffEnd {s : State} (h : RingsWithin s) (n : Nat) :
    RingsWithin (Machine.flush { s with hif := holdoffEnds n s.hif }) :=
  RingsWithin.flush (h.of_same (t := { s with hif := holdoffEnds n s.hif }) (holdoffEnds_rings n s.hif) rfl)

/-- A write of BAR0 with the effect of HIF_RESET at its offset (R427). -/
theorem RingsWithin.registerWrite {s : State} (h : RingsWithin s) (off : Nat) (d : List Byte) :
    RingsWithin (if off = 0x4000 && d.length = 4 then Machine.hifResetWrite (w (ofLe d)) s else Machine.barWrite off d s) := by
  split
  · exact h.hifResetWrite _
  · exact h.barWrite off d

/-- What any command can do is one of the operations below, and each of them keeps the invariant. -/
theorem exec_leavesRingsWithin (i : Instr) {s : State} (h : RingsWithin s) : LeavesRingsWithin i s := by
  cases i with
  -- a change of the chip
  | i2cSubmit | i2cDataFull | i2cDataRelease | i2cResponseRead | cciDatagramReceived | shutdownStepDone
  | sessionLapsed | junctionDrainEnd | junctionClosed | cellFault | blockFault | regionFault | mcFault | mcHeartbeat
  | decoderFault | moverFault | scanOutPortFault | trunkLinkFault | schedulerFault | fltTimeVote | hpEndpointFault
  | reliefFault | commonRailLoss | fltRelocated | retest | retestDone | pseqGoodRise | pseqGoodTimeout | ptpMessage
  | announceTimeout | syncSend | ppsInEdge | ppsInLost | ref10mLost | ref10mRestored | wholeSecond | ppsOutPulseEnd
  | holdoverLimit | timStatus | pseqGoodFall | referenceClockLoss | railOrClockGoodAgain | delayReqSend | bulkCopyPage =>
    exact ⟨_, rfl, h.run _⟩
  -- a change of the chip while the data plane runs
  | abortSettled | dstPacketReceived | holeDeclaredLost | dstPathSilent | dstPathDown | dstPathUp | dstStreamLost
  | dstAnchorRequested | authTrailerTimeout | dstCounters | tileRowDecoded | decodeResume | tileComplete
  | tileRunStopped | tileRedispatch | projection | latestStartPassed | frameDeadline | l3CopyDone | frameBoundary
  | lineInstant | departureWindowClose | stoDriveDown | stoDriveUp | trainingPhaseEnd | trainingTimeout | laneReport
  | laneFault | pointsSwitch | laneRetry | lnkReturnLost | lnkReturnUp | tapAdapt | laneWake | drvHello | cmdAck
  | cmdRepeat | drvStatus | mapRestoreDone | persistenceTimer | stoPersisted | storePutDone | storeReadAhead | itemEnd
  | memTemperatureRead | refreshDue | refreshWindowStart | rowActivation | retrainDue | retrainPauseEnd | memRepaired
  | strongFillDone | moverLineComplete | calAutoRun | calRunDone | trimEvaluate | calRecord | perfConfigApply
  | snapshotLatch | islandClockStep | fwUpdateDone | networkControlFrame =>
    exact ⟨_, rfl, h.runLive _⟩
  -- a CCI message takes one entry of the inbound ring and writes one response at most
  | sessionOpen | sessionClose | resync | logRead | streamBind | timetableSet | frameCommit | layerDefine
  | layerCommit | crcWindowSet | tableLoad | memRegionDefine | surfaceAlloc | surfaceFree | moverSubmit | moverAbort
  | scrubSet | memWrite | memRead | storePut | storeDelete | storeSchedule | storeList | storeAbort | laneStatus
  | calibRun | powerSequence | perfConfig | perfSnapshot | fwUpdate | faultInject | shutdown | keyLoad | timeSet =>
    exact ⟨_, rfl, h.cciCommand _ _ _ _⟩
  | unknownCommand via => exact ⟨_, rfl, h.unknownMessage via⟩
  -- the indices that the host writes are checked (R67, R430)
  | hifMbxDoorbell v => exact ⟨_, rfl, h.doorbell v⟩
  | hifMbxRspConsumed v => exact ⟨_, rfl, h.rspConsumed v⟩
  | hifEvtConsumed v => exact ⟨_, rfl, h.evtConsumed v⟩
  -- other accesses of the host
  | hifIrqStatus v arriving => exact ⟨_, rfl, h.host_same _ (irqStatus_rings v arriving _)⟩
  | hifIrqMask v => exact ⟨_, rfl, h.host_same _ (irqMask_rings v _)⟩
  | msixTableWrite vec addr data masked => exact ⟨_, rfl, h.host_same _ (setEntry_rings vec.val (addr, data, masked) _)⟩
  | holdoffEnd vec => exact ⟨_, rfl, h.holdoffEnd vec.val⟩
  | hifPrfSnapshot v => exact ⟨_, rfl, h.registerSnapshot v⟩
  | registerWrite off d => exact ⟨_, rfl, h.registerWrite off d⟩
  | bar2Read off n => exact ⟨_, rfl, h.bar2Read off.toNat n⟩
  | bar2Write off d => exact ⟨_, rfl, h.bar2Write off.toNat d⟩
  | pcieConfigWrite x => exact ⟨_, rfl, h.configWrite x⟩
  -- resets, restarts and a takeover
  | porNFall n => exact ⟨_, rfl, h.porFall n⟩
  | porNRise b a => exact ⟨_, rfl, h.porRise b a⟩
  | endpointReset => exact ⟨_, rfl, h.resetEndpoint⟩
  | hifReset v => exact ⟨_, rfl, h.hifResetWrite v⟩
  | powerSequenceStep | pwrFault | thermalSample => exact ⟨_, rfl, (h.runLive _).restartWhenDown⟩
  | startStageDone r => exact ⟨_, rfl, ((h.run _).settleRelease _).restartAfterUpdate⟩
  | fltTakeover r => exact ⟨_, rfl, h.takeoverStep r⟩
  -- a change of the chip with something after it or before it
  | scrubVisit mc word f => exact ⟨_, rfl, (h.runLive _).failNext mc.val word f s⟩
  | readerPass => exact ⟨_, rfl, (h.runLive _).answerSnapshot⟩
  | prfSnapshotDone => exact ⟨_, rfl, (h.chip _).answerSnapshot.run id⟩

theorem RingsWithin.clockTick {s : State} (h : RingsWithin s) : RingsWithin (clockTick s) := by
  unfold Machine.clockTick
  dsimp only
  split
  · exact (h.chip _).runLive _
  · exact h.chip _

/-- Settles O11: the invariant does not look at the queue, every command keeps it, and so does a tick. -/
theorem everyStepKeepsRingsWithin : Obligations.EveryStepKeepsRingsWithin := by
  intro s t within next
  unfold step at next
  split at next
  · cases next
    exact within.clockTick
  · rename_i i rest _
    have taken : RingsWithin { s with pending := rest } := within.of_same rfl rfl
    obtain ⟨u, leads, kept⟩ := exec_leavesRingsWithin i taken
    cases leads.symm.trans next
    exact kept

/-- Settles O12: the controller starts with every ring and log empty. -/
theorem resetRingsWithin : Obligations.ResetRingsWithin := freshState_within State.reset

end Sys2Proof.Machine

/-!
PROOF. The event writer: numbers, the ring, the hold queue and EVENTS_LOST (O13 to O16), and the one terminal event of a job
(O25).
-/

namespace Sys2Proof.Machine

/-! ## Numbers and history (R70) -/

/-- Written, held or lost, an event takes the next number. -/
theorem deliver_nextSeq (ready : Bool) (x : Writer) (e : Event) :
    (deliver ready x e).evt.nextSeq = x.evt.nextSeq + 1 := by
  unfold deliver
  dsimp only
  split
  · rfl
  · split <;> rfl

/-- Written, held or lost, an event enters the history. -/
theorem deliver_history (ready : Bool) (x : Writer) (e : Event) :
    (deliver ready x e).evt.history = ({ e with seq := x.evt.nextSeq } :: x.evt.history).take 65536 := by
  unfold deliver
  dsimp only
  split
  · rfl
  · split <;> rfl

/-- The numbers of n events, of which the first takes `seq`: the one after it begins the numbers of the others. -/
theorem seqsFrom_succ (seq : U32) (n : Nat) :
    (List.range (n + 1)).map (fun i => seq + BitVec.ofNat 32 i) =
      seq :: (List.range n).map (fun i => seq + 1 + BitVec.ofNat 32 i) := by
  rw [List.range_succ_eq_map, List.map_cons, List.map_map]
  congr 1
  · simp
  · refine List.map_congr_left (fun i _ => ?_)
    show seq + BitVec.ofNat 32 (i + 1) = _
    rw [BitVec.ofNat_add, BitVec.add_comm (BitVec.ofNat 32 i), ← BitVec.add_assoc]
    rfl

theorem deliverEvents_nextSeq (l : List Event) (c : Chip) (x : Writer) :
    ((l.map Signal.event).foldl deliverSignal (c, x)).2.evt.nextSeq = x.evt.nextSeq + BitVec.ofNat 32 l.length := by
  induction l generalizing c x with
  | nil => simp
  | cons e l ih =>
    rw [List.map_cons, List.foldl_cons]
    refine (ih _ _).trans ?_
    show (deliver (ringOpen c) x e).evt.nextSeq + _ = _
    rw [deliver_nextSeq, List.length_cons, BitVec.ofNat_add, BitVec.add_comm (BitVec.ofNat 32 l.length), ← BitVec.add_assoc]
    rfl

theorem deliverEvents_history (l : List Event) (c : Chip) (x : Writer) (room : x.evt.history.length + l.length ≤ 65536) :
    ((l.map Signal.event).foldl deliverSignal (c, x)).2.evt.history.map (·.seq) =
      ((List.range l.length).map (fun i => x.evt.nextSeq + BitVec.ofNat 32 i)).reverse ++ x.evt.history.map (·.seq) := by
  induction l generalizing c x with
  | nil => rfl
  | cons e l ih =>
    rw [List.length_cons] at room
    have entered : (deliver (ringOpen c) x e).evt.history = { e with seq := x.evt.nextSeq } :: x.evt.history := by
      rw [deliver_history]
      exact List.take_of_length_le (by rw [List.length_cons]; omega)
    rw [List.map_cons, List.foldl_cons, List.length_cons, seqsFrom_succ]
    refine (ih _ (deliver (ringOpen c) x e) (by rw [entered, List.length_cons]; omega)).trans ?_
    rw [entered, deliver_nextSeq, List.reverse_cons, List.append_assoc]
    rfl

/-- Settles O15, by induction on the list of events. -/
theorem eventsAreNumberedInOrder : Obligations.EventsAreNumberedInOrder :=
  fun c x l => ⟨deliverEvents_nextSeq l c x, deliverEvents_history l c x⟩

/-! ## What delivery leaves of the chip -/

theorem sendEventUdp_limits (c : Chip) (e : Event) : (sendEventUdp c e).limits = c.limits :=
  foldl_keeps Chip.limits
    (fun c (x : Session) => sendDatagram c { x.peer with port := BitVec.ofNat 16 x.evtPort } x.keySlot 2
      (bytesOf (eventWords e)) []) (fun _ _ => rfl) _ _

theorem deliverSignal_limits (st : Chip × Writer) (g : Signal) : (deliverSignal st g).1.limits = st.1.limits := by
  cases g with
  | logsLost => rfl
  | cause => rfl
  | event e => exact sendEventUdp_limits _ _

theorem spaceReturns_limits (st : Chip × Writer) : (spaceReturns st).1.limits = st.1.limits := by
  unfold spaceReturns
  dsimp only
  split
  · rfl
  · split
    · rfl
    · exact sendEventUdp_limits _ _

/-- The limits change only by what they raise. -/
theorem flush_limits (s : State) : (flush s).chip.limits = (raiseHeld s.chip).limits := by
  show (spaceReturns _).1.limits = _
  rw [spaceReturns_limits, foldl_keeps (fun st : Chip × Writer => st.1.limits) _ deliverSignal_limits]

/-- Settles O13: what the laws of delivery say, with the records of the limits. -/
theorem deliveryLeavesTheChip : Obligations.DeliveryLeavesTheChip :=
  ⟨fun s => ⟨flush_atRest s, flush_signals s, flush_fuses s, flush_pending s, flush_limits s⟩, fun _ => settleAborts_none⟩

/-! ## Writing, holding and losing an event -/

/-- The host interface but for what a cause and its message change. -/
def Hif.still (h : Hif) : Hif := { h with irqStatus := 0, pba := 0, sent := [], inHoldoff := [] }

theorem sendVector_still (h : Hif) (v : Nat) : (sendVector h v).still = h.still := by
  unfold sendVector; split <;> rfl
theorem sendHeld_still (h : Hif) (v : Nat) : (sendHeld h v).still = h.still := by
  unfold sendHeld
  dsimp only
  split
  · exact sendVector_still h v
  · exact (sendVector_still h v :)
theorem notify_still (h : Hif) (v : Nat) : (notify h v).still = h.still := by
  unfold notify
  split
  · rfl
  · exact sendHeld_still h v
theorem setCause_still (h : Hif) (v : Nat) : (setCause h v).still = h.still := by
  unfold setCause
  dsimp only
  split
  · rfl
  · split
    · rfl
    · exact notify_still _ v

theorem evtFree_setCause (h : Hif) (v : Nat) : evtFree (setCause h v) = evtFree h :=
  (congrArg evtFree (setCause_still h v) : evtFree (setCause h v).still = evtFree h.still)
theorem threshold_setCause (h : Hif) (v : Nat) : (setCause h v).threshold = h.threshold :=
  (congrArg Hif.threshold (setCause_still h v) : (setCause h v).still.threshold = h.still.threshold)

theorem writeRing_full {h : Hif} (full : evtFree h = 0) (e : Event) : writeRing h e = h := if_pos full

/-- The next slot of the ring holds the event. -/
def withEntry (h : Hif) (e : Event) : Hif :=
  { h with evtRing := (eventWords e :: h.evtRing).take 1024, evtProduced := h.evtProduced + 1 }

theorem writeRing_free {h : Hif} (free : evtFree h ≠ 0) (e : Event) : writeRing h e =
    (let h2 := setCause (withEntry h e) (if e.code = 0x4010 then 16 else e.code / 4096 + 2)
     if evtFree (withEntry h e) ≤ h.threshold then setCause h2 1 else h2) := by
  unfold writeRing
  dsimp only
  rw [if_neg free, evtFree_setCause, threshold_setCause]
  rfl

/-- The event with the number that it takes. -/
def numbered (x : Writer) (e : Event) : Event := { e with seq := x.evt.nextSeq }
/-- The logs with the event in them. -/
def logged (x : Writer) (e : Event) : Evt := enterLogs { x.evt with nextSeq := x.evt.nextSeq + 1 } (numbered x e)

theorem deliver_written {x : Writer} (free : evtFree x.hif ≠ 0) (hold : x.evt.hold = []) (lost : x.evt.lostFirst = none)
    (e : Event) : deliver true x e = { hif := writeRing x.hif (numbered x e), evt := logged x e } := by
  unfold deliver
  exact if_pos (by simp [enterLogs, free, hold, lost])

section
variable {x : Writer} (full : evtFree x.hif = 0) {e : Event}
include full

theorem deliver_held (keep : e.keep = true) (room : x.evt.hold.length < 256) :
    deliver true x e = { hif := x.hif, evt := { logged x e with hold := x.evt.hold ++ [numbered x e] } } := by
  unfold deliver
  dsimp only
  rw [if_neg (by simp [full]), if_pos (by simp [keep, enterLogs, room])]
  rfl

/-- Where the hold queue takes no event, one that the full ring does not take is lost. -/
theorem deliver_lost (unheld : e.keep = false ∨ 256 ≤ x.evt.hold.length) :
    deliver true x e = loseEvent { x with evt := logged x e } (numbered x e) := by
  have queue : ¬(e.keep = true ∧ x.evt.hold.length < 256) := by
    rintro ⟨keep, room⟩
    obtain other | long := unheld
    · rw [other] at keep
      cases keep
    · omega
  unfold deliver
  dsimp only
  rw [if_neg (by simp [full]), if_neg (by simpa [enterLogs] using queue)]
  rfl

end

/-- The first number not written stands; the loss of a keep event is remembered. -/
theorem loseEvent_eq (x : Writer) (e : Event) : loseEvent x e = { x with evt := { x.evt with
    lostFirst := some (x.evt.lostFirst.getD e.seq)
    lostCount := x.evt.lostCount + 1
    keepLost := x.evt.keepLost || e.keep
    notWritten := w32 (x.evt.notWritten + 1)
    keepNotWritten := if e.keep then w32 (x.evt.keepNotWritten + 1) else x.evt.keepNotWritten } } := by
  unfold loseEvent
  dsimp only
  congr 2
  cases x.evt.lostFirst <;> rfl

/-- Settles O14: each outcome of an event is one branch of the event writer. -/
theorem eventsReachTheRing : Obligations.EventsReachTheRing := by
  refine ⟨fun x e free hold lost => deliver_written free hold lost e, fun h e => ⟨fun full => writeRing_full full e,
    fun free => writeRing_free free e⟩, fun x e full => ⟨fun keep room => deliver_held full keep room, fun other => ?_,
    fun keep long => ?_⟩⟩
  · rw [deliver_lost full (.inl other), loseEvent_eq]
    simp [logged, enterLogs, numbered, other]
  · rw [deliver_lost full (.inr long), loseEvent_eq]
    simp [logged, enterLogs, numbered, keep]

/-- Settles O16: the loss is told before the hold queue is written out. -/
theorem eventsLostComesFirst : Obligations.EventsLostComesFirst := by
  intro c x f ready free lost
  unfold spaceReturns
  simp only [ready, free, lost, decide_false, Bool.not_true, Bool.or_self, Bool.false_eq_true, if_false]

/-! ## A job ends once (R88, R89) -/

/-- The chip with the job among the finished ones. -/
def jobGone (c : Chip) (j : Job) (id line : Nat) (t : Terminal) : Chip := { c with cci := { c.cci with
  jobs := c.cci.jobs.filter (fun x => x.id ≠ id)
  finished := ({ id := id, opcode := j.opcode, tag := j.tag, terminal := t, lastLine := line } :: c.cci.finished).take 256 } }

theorem endJob_absent {c : Chip} {id : Nat} (h : job? c id = none) (t : Terminal) (status line : Nat) (result : List U32) :
    endJob c id t status line result = c := by
  unfold endJob; rw [h]

theorem endJob_present {c : Chip} {id : Nat} {j : Job} (h : job? c id = some j) (t : Terminal) (status line : Nat)
    (result : List U32) : endJob c id t status line result = raiseFor (jobGone c j id line t) (terminalCode t) j.tag j.owner
      ([w id, w (j.opcode + status * 65536), w line] ++ result) := by
  unfold endJob; rw [h]; rfl

/-- A job that has ended is no longer among the unfinished ones. -/
theorem job?_gone (c : Chip) (j : Job) (id line : Nat) (t : Terminal) : job? (jobGone c j id line t) id = none :=
  List.find?_eq_none.mpr (fun x hx => by simpa using (List.mem_filter.mp hx).2)

/-- Settles O25: the terminal event is written where the job stood, and the job stands no longer. -/
theorem jobsEndOnce : Obligations.JobsEndOnce := by
  intro c id status line result
  refine ⟨fun t absent => endJob_absent absent t status line result, fun j present => ?_⟩
  have ends := fun t => endJob_present present t status line result
  refine ⟨ends .completed, ends .failed, ends .aborted, ends .completedBeforeAbort, fun t => ?_⟩
  rw [ends t]
  exact job?_gone c j id line t

end Sys2Proof.Machine

/-!
PROOF. The message transports: doorbells (O4), the I²C target (O28) and datagrams (O29).
-/

namespace Sys2Proof.Machine

/-! ## The inbound ring (R67) -/

theorem doorbell_accepted {h : Hif} {d : U32}
    (ok : (d - h.inConsumed).toNat ≤ 256 ∧ (d - h.inAccepted).toNat < 2 ^ 31) : doorbell d h = { h with inAccepted := d } :=
  if_pos (by simpa [doorbellOk] using ok)

theorem doorbell_refused {h : Hif} {d : U32}
    (bad : ¬((d - h.inConsumed).toNat ≤ 256 ∧ (d - h.inAccepted).toNat < 2 ^ 31)) :
    doorbell d h = setCause { h with doorbellBad := satInc h.doorbellBad } 21 :=
  if_neg (by simpa [doorbellOk] using bad)

/-- A write above the registers is one into the rings. -/
theorem exec_ringWrite {off : Nat} (above : 0x100000 ≤ off) (d : List Byte) (s : State) :
    exec (.registerWrite off d) s = .next (s.host (ringWrite off d)) := by
  have reset : ¬(decide (off = 0x4000) && decide (d.length = 4)) = true := by
    rw [Bool.and_eq_true, decide_eq_true_eq]
    omega
  have registers : ¬off < 0x100000 := Nat.not_lt.mpr above
  show Host.Outcome.next (if _ then _ else barWrite off d s) = _
  rw [if_neg reset, barWrite, if_neg registers]

/-- Settles O4: a write into the ring stores its bytes, and a doorbell has the two outcomes of its check. -/
theorem doorbellsAreChecked : Obligations.DoorbellsAreChecked :=
  ⟨fun s off d reach above below => doesHif_host (exec_ringWrite above d s) reach (ringWrite_eq off d s.hif above below),
    fun _ _ reach => ⟨fun ok => doesHif_host rfl reach (doorbell_accepted ok),
      fun bad => doesHif_host rfl reach (doorbell_refused bad)⟩⟩

/-! ## The I²C target (R97) -/

/-- 64 bytes take the whole window. -/
theorem overWindow_whole (win : List Byte) {new : List Byte} (h : new.length = 64) : overWindow win new = new := by
  simp [overWindow, slice, h]

/-- Bytes written from its start leave the rest of the window. -/
theorem overWindow_start {win new : List Byte} (hw : win.length = 64) (hn : new.length ≤ 64) :
    overWindow win new = new ++ win.drop new.length := by
  have whole : (new ++ win.drop new.length).length = 64 := by
    rw [List.length_append, List.length_drop, hw]
    omega
  rw [overWindow, List.take_of_length_le hn, slice, List.drop_zero, List.take_of_length_le whole.le, whole, Nat.sub_self,
    List.replicate_zero, List.append_nil]

section
variable {c : Chip}

theorem i2cTakes_idle (high : c.porLow = false) (idle : c.cci.i2c.msgBusy = false) : i2cTakes c = true := by
  simp [i2cTakes, high, idle]

theorem i2cTakes_not (h : c.porLow = true ∨ c.cci.i2c.msgBusy = true) : i2cTakes c = false := by
  obtain low | busy := h
  · simp [i2cTakes, low]
  · simp [i2cTakes, busy]

section
variable (takes : i2cTakes c = true)
include takes

theorem i2cSubmit_taken (msg : List Byte) : i2cSubmit msg c =
    updI2c c (fun i => { i with window := overWindow i.window msg, msgBusy := true }) :=
  if_neg (by simp [takes])

theorem i2cFull_taken (d : List Byte) : i2cFull d c = updI2c c (fun i => { i with
    dataWin := overWindow c.cci.i2c.dataWin d, inData := i.inData ++ overWindow c.cci.i2c.dataWin d, dataTaken := true }) :=
  if_neg (by simp [takes])

variable (ready : c.cci.i2c.dataReady = true)
include ready

theorem i2cRelease_last (out : c.cci.i2c.outData = []) : i2cRelease c = updI2c c (fun i => { i with dataReady := false }) := by
  simp [i2cRelease, takes, ready, out]

theorem i2cRelease_next (out : c.cci.i2c.outData ≠ []) : i2cRelease c = updI2c c (fun i => { i with
    dataWin := overWindow i.dataWin (i.outData.take 64), outData := i.outData.drop 64 }) := by
  simp [i2cRelease, takes, ready, out]

end

section
variable (takes : i2cTakes c = false)
include takes

theorem i2cSubmit_ignored (msg : List Byte) : i2cSubmit msg c = c := if_pos (by simp [takes])
theorem i2cFull_ignored (d : List Byte) : i2cFull d c = c := if_pos (by simp [takes])

end

end

/-- Settles O28: each access of the target is its window's change where the target takes it. -/
theorem i2cTransport : Obligations.I2cTransport := by
  intro s i becomes
  refine ⟨fun high idle => ?_, does_run rfl rfl, fun refused msg d => ?_⟩
  · have takes := i2cTakes_idle high idle
    refine ⟨fun msg whole => ?_, fun d whole => ?_, fun d short full => ?_, fun ready out => ?_, fun ready long => ?_,
      fun ready short out full => ?_⟩
    · refine does_run rfl ((i2cSubmit_taken takes msg).trans ?_)
      rw [updI2c, updCci, overWindow_whole _ whole]
    · refine does_run rfl ((i2cFull_taken takes d).trans ?_)
      rw [overWindow_whole _ whole]
      rfl
    · refine does_run rfl ((i2cFull_taken takes d).trans ?_)
      rw [overWindow_start full short]
      rfl
    · exact does_run rfl (i2cRelease_last takes ready out)
    · have out : i.outData ≠ [] := by
        intro none
        rw [none] at long
        cases long
      refine does_run rfl ((i2cRelease_next takes ready out).trans ?_)
      rw [updI2c, updCci, overWindow_whole _ (List.length_take_of_le long)]
    · refine does_run rfl ((i2cRelease_next takes ready out).trans ?_)
      rw [updI2c, updCci, List.take_of_length_le short.le, List.drop_of_length_le short.le, overWindow_start full short.le]
  · have takes := i2cTakes_not refused
    exact ⟨does_run rfl (i2cSubmit_ignored takes msg), does_run rfl (i2cFull_ignored takes d)⟩

/-! ## Datagrams (R93, R94) -/

section
variable {c : Chip} {ep : Nat} (here : (eth c ep).isolated = false)
include here

theorem takeDatagram_early (early : (running c || c.start.st = .halted) = false) (src : Peer) (d : List Byte) :
    takeDatagram ep src d c = updCci c (fun x => { x with udpDropped := x.udpDropped + 1 }) := by
  unfold takeDatagram
  rw [here, early]
  rfl

section
variable (released : (running c || c.start.st = .halted) = true) {src : Peer} {d : List Byte}
include released

theorem takeDatagram_bad (bad : checkDatagram c src d = none) : takeDatagram ep src d c =
    updCci (updEth c ep (fun x => { x with link := true })) (fun x => { x with udpDropped := x.udpDropped + 1 }) := by
  have bad' : checkDatagram (updEth c ep (fun x => { x with link := true })) src d = none := bad
  unfold takeDatagram
  rw [here, released]
  dsimp only
  rw [bad']
  rfl

theorem takeDatagram_good {counter : Nat} {m : UdpMsg} (good : checkDatagram c src d = some (counter, m)) :
    takeDatagram ep src d c = updCci (updEth c ep (fun x => { x with link := true })) (fun x => { x with
      udpCounters := (src, m.slot, counter) :: x.udpCounters.filter (fun y => !(y.1 = src && y.2.1 = m.slot))
      udp := x.udp ++ [{ m with ep := ep }] }) := by
  have good' : checkDatagram (updEth c ep (fun x => { x with link := true })) src d = some (counter, m) := good
  unfold takeDatagram
  rw [here, released]
  dsimp only
  rw [good']
  rfl

end

end

/-- Settles O29: a datagram has the outcome of its checks, which look at the keys and the counters alone. -/
theorem datagramsAreChecked : Obligations.DatagramsAreChecked :=
  ⟨fun _ _ src d early here => does_run rfl (takeDatagram_early here early src d),
    fun _ _ _ _ released here => ⟨fun bad => does_run rfl (takeDatagram_bad here released bad),
      fun _ _ good => does_run rfl (takeDatagram_good here released good)⟩⟩

end Sys2Proof.Machine

/-!
PROOF. CCI messages: checks 1 to 7 (O17), the response and HALTED (O18), sessions and keys (O26), logs and the summary (O27).
-/

namespace Sys2Proof.Machine

/-! ## Checks 1 and 2 -/

section
variable {s : State} {via : Via} {m : Waiting} (waits : front s via = some m) (unknown : opcodeOf m.msg = none)
include waits unknown

theorem unknownMessage_answered (live : s.chip.start.st ≠ .halted) : unknownMessage via s =
    flush (respondWords (popFront s via) via m.peer (signSlot (envAt s via m))
      (responseWords m.msg (reply (if checkGood m.msg then 0x0100 else 0x0105))) []) := by
  unfold unknownMessage
  rw [waits]
  dsimp only
  rw [if_neg (not_not.mpr unknown), popFront_start, if_neg live]
  rfl

theorem unknownMessage_discarded (halted : s.chip.start.st = .halted) :
    unknownMessage via s = discardMessage (popFront s via) via := by
  unfold unknownMessage
  rw [waits]
  dsimp only
  rw [if_neg (not_not.mpr unknown), popFront_start, if_pos halted]

end

/-! ## Checks 3 and 4 (R77) -/

section
variable {x : Session} {m : List U32} {op : Nat}

theorem seqVerdict_next (h : nth m 1 = x.nextSeq) : seqVerdict x m op = .carryOut true := if_pos h

/-- A SEQ above NEXT_SEQ leaves a gap. -/
theorem seqVerdict_gap (h : 2 ^ 31 ≤ (x.nextSeq - nth m 1).toNat) :
    seqVerdict x m op = .early { status := 0x0106, result := [x.nextSeq] } := by
  have other : nth m 1 ≠ x.nextSeq := by
    intro same
    rw [same, BitVec.sub_self] at h
    cases h
  unfold seqVerdict
  dsimp only
  rw [if_neg other, if_neg (Nat.not_lt.mpr h)]
  rfl

section
variable (other : nth m 1 ≠ x.nextSeq) (below : (x.nextSeq - nth m 1).toNat < 2 ^ 31)
include other below

/-- A SEQ below NEXT_SEQ is one that the session has used; a response that it still holds is looked for. -/
theorem seqVerdict_below : seqVerdict x m op =
    match x.cache.find? (fun k => k.seq = nth m 1 && k.opcode = op && k.tag = nth m 2) with
    | some k => if (x.nextSeq - nth m 1).toNat ≤ 16 then
        (if [0x03, 0x04, 0x27, 0x33].contains op then .carryOut false else .cached k.words) else .early (reply 0x0107)
    | none => .early (reply 0x0107) := by
  unfold seqVerdict
  dsimp only
  rw [if_neg other, if_pos below]
  rfl

theorem seqVerdict_old (old : 16 < (x.nextSeq - nth m 1).toNat) : seqVerdict x m op = .early (reply 0x0107) := by
  rw [seqVerdict_below other below]
  split
  · exact if_neg (Nat.not_le.mpr old)
  · rfl

theorem seqVerdict_unheld (unheld : ∀ k ∈ x.cache, ¬(k.seq = nth m 1 ∧ k.opcode = op ∧ k.tag = nth m 2)) :
    seqVerdict x m op = .early (reply 0x0107) := by
  have missed : x.cache.find? (fun k => k.seq = nth m 1 && k.opcode = op && k.tag = nth m 2) = none :=
    List.find?_eq_none.mpr (fun k hk => by simpa [and_assoc] using unheld k hk)
  rw [seqVerdict_below other below, missed]

theorem seqVerdict_held (recent : (x.nextSeq - nth m 1).toNat ≤ 16) {k : Cached}
    (held : x.cache.find? (fun k => k.seq = nth m 1 && k.opcode = op && k.tag = nth m 2) = some k) :
    seqVerdict x m op = if [0x03, 0x04, 0x27, 0x33].contains op then .carryOut false else .cached k.words := by
  rw [seqVerdict_below other below, held]
  exact if_pos recent

end

end

/-- In an open session checks 5 to 7 follow where check 4 lets a message through. -/
def afterSeq (c : Chip) (e : Env) (op : Nat) (busy : Bool) : Verdict → Verdict
  | .carryOut consume => lateVerdict c e op busy consume
  | v => v

section
variable {c : Chip} {e : Env} {op : Nat} {busy : Bool} (live : c.start.st ≠ .recovery)
  (named : fld (nth e.msg 3).toNat 15 0 ≠ 0)
include live named

theorem verdict_unopened (h : sessionFor c e.via e.peer (fld (nth e.msg 3).toNat 15 0) = none) :
    verdict c e op busy = .early (reply 0x0108) := by
  unfold verdict
  dsimp only
  rw [if_neg live, if_neg named, h]
  rfl

theorem verdict_session {x : Session} {v : Verdict}
    (h : sessionFor c e.via e.peer (fld (nth e.msg 3).toNat 15 0) = some x) (check : seqVerdict x e.msg op = v) :
    verdict c e op busy = afterSeq c e op busy v := by
  unfold verdict
  dsimp only
  rw [if_neg live, if_neg named, h, ← check]
  rfl

end

/-! ## Checks 5 to 7 (R78) -/

section
variable {c : Chip} {e : Env} {op : Nat} {busy consume : Bool}

theorem lateVerdict_stopped (stopped : running c = false) (live : c.start.st ≠ .halted) :
    lateVerdict c e op busy consume = .rejected (reply 0x0103) consume :=
  if_pos (by simp [stopped, live])

theorem lateVerdict_shuttingDown (st : c.start.st = .shuttingDown) (h3 : op ≠ 0x03) (h4 : op ≠ 0x04) :
    lateVerdict c e op busy consume = .rejected (reply 0x0104) consume := by
  unfold lateVerdict
  rw [if_neg (by simp [running, st]), if_pos (by simp [st, h3, h4])]
  rfl

/-- In RELEASED check 5 passes. -/
theorem lateVerdict_released (st : c.start.st = .released) : lateVerdict c e op busy consume =
    if busy then .rejected (reply 0x0104) consume
    else if denied c e op then .rejected (reply 0x010A) consume else .carryOut consume := by
  unfold lateVerdict
  rw [if_neg (by simp [running, st]), if_neg (by simp [st])]
  rfl

end

/-! ## RECOVERY (R52) -/

section
variable {c : Chip} {e : Env} {op : Nat} {busy : Bool} (st : c.start.st = .recovery)
include st

theorem verdict_recovery : verdict c e op busy =
    if op ≠ 0x60 && op ≠ 0x04 && op ≠ 0x03 then .early (reply 0x0103)
    else if fld (nth e.msg 3).toNat 15 0 ≠ 0 then .early (reply 0x0108) else .carryOut false := if_pos st

theorem verdict_recovery_offered (offered : op = 0x60 ∨ op = 0x04 ∨ op = 0x03) : verdict c e op busy =
    if fld (nth e.msg 3).toNat 15 0 ≠ 0 then .early (reply 0x0108) else .carryOut false := by
  have listed : ¬(op ≠ 0x60 && op ≠ 0x04 && op ≠ 0x03) = true := by
    obtain rfl | rfl | rfl := offered <;> decide
  rw [verdict_recovery st, if_neg listed]

end

/-- Settles O17: the checks are made in the order of Table 3-7, and the first that fails gives the verdict. -/
theorem messagesAreChecked : Obligations.MessagesAreChecked := by
  refine ⟨fun s via m waits unknown live => ?_,
    fun c e op busy live named => ⟨verdict_unopened live named, fun x found => ?_⟩,
    fun c e op busy consume => ⟨lateVerdict_stopped, lateVerdict_shuttingDown, fun st now => ?_, fun st idle no => ?_,
      fun st idle yes => ?_⟩,
    fun c e op busy st => ⟨fun h60 h04 h03 => ?_, fun offered named => ?_, fun offered unnamed => ?_⟩⟩
  · exact congrArg Host.Outcome.next (unknownMessage_answered waits unknown live)
  · have check {v : Verdict} (h : seqVerdict x e.msg op = v) : verdict c e op busy = afterSeq c e op busy v :=
      verdict_session live named found h
    refine ⟨fun next => check (seqVerdict_next next), fun above => check (seqVerdict_gap above), fun old below => ?_,
      fun other recent unheld => check (seqVerdict_unheld other (by omega) unheld),
      fun k other recent held => ⟨fun h03 h04 h27 h33 => ?_, fun again => ?_⟩⟩
    · have other : nth e.msg 1 ≠ x.nextSeq := by
        intro same
        rw [same, BitVec.sub_self] at old
        cases old
      exact check (seqVerdict_old other below old)
    · exact check ((seqVerdict_held other (by omega) recent held).trans (if_neg (by simp [h03, h04, h27, h33])))
    · exact check ((seqVerdict_held other (by omega) recent held).trans (if_pos (by simpa using again)))
  · rw [lateVerdict_released st, now]
    rfl
  · rw [lateVerdict_released st, idle, no]
    rfl
  · rw [lateVerdict_released st, idle, yes]
    rfl
  · rw [verdict_recovery st, if_pos (by simp [h60, h04, h03])]
  · rw [verdict_recovery_offered st offered, if_pos named]
  · rw [verdict_recovery_offered st offered, if_neg (not_not.mpr unnamed)]

/-! ## The response, and HALTED (R63, R77, R83) -/

theorem finish_hp {s : State} {e : Env} {op : Nat} {r : Reply} (via : e.via = .hp) (answers : r.held = none)
    (room : rspFull s.hif = false) : finish s e op r true =
      { s with
        hif := setCause { s.hif with
          rspRing := (responseWords e.msg r :: s.hif.rspRing).take 256, rspProduced := s.hif.rspProduced + 1 } 0
        chip := consumeSeq s.chip (sid e) op e.msg (responseWords e.msg r) } := by
  unfold finish respondWords
  dsimp only
  rw [answers, via]
  dsimp only
  rw [if_neg (by simp [room])]
  rfl

theorem cciCommand_discarded {s : State} {via : Via} {m : Waiting} {op : Nat} (waits : front s via = some m)
    (halted : s.chip.start.st = .halted) (h3 : op ≠ 0x03) (h4 : op ≠ 0x04) (named : opcodeOf m.msg = some op)
    (busy : Env → Chip → Bool) (body : Body) : cciCommand op busy body via s = discardMessage (popFront s via) via := by
  unfold cciCommand
  rw [waits]
  dsimp only
  rw [if_neg (not_not.mpr named), popFront_start, if_pos (by simp [halted, h3, h4])]

/-- Every message that is carried out is carried out as the CCI command of its opcode. -/
theorem exec_messageCommand : ∀ p ∈ messageCommands,
    ∃ busy body, ∀ via s, exec (p.2 via) s = .next (cciCommand p.1 busy body via s) := by
  unfold messageCommands
  simp only [List.forall_mem_cons, List.not_mem_nil, IsEmpty.forall_iff, implies_true, and_true]
  repeat' apply And.intro
  all_goals exact ⟨_, _, fun _ _ => rfl⟩

/-- Settles O18: the response is written and its SEQ consumed in one; HALTED takes the message before any check. -/
theorem messagesAreAnsweredOrCounted : Obligations.MessagesAreAnsweredOrCounted := by
  refine ⟨fun s e op r via answers room => finish_hp via answers room,
    fun s via m waits halted => ⟨fun unknown => ?_, fun p hp h3 h4 named => ?_⟩, fun s => rfl⟩
  · exact congrArg Host.Outcome.next (unknownMessage_discarded waits unknown halted)
  · obtain ⟨busy, body, carried⟩ := exec_messageCommand p hp
    rw [carried, cciCommand_discarded waits halted h3 h4 named]

/-! ## Sessions and keys (R76, R81, R86) -/

/-- The session that `session_open` enters. -/
def openedSession (e : Env) (c : Chip) (id : Nat) : Session :=
  { id := id, via := e.via, peer := if e.via = .udp then e.peer else {}, control := mf e 0x10 1 0 = 1, admin := bit e 0x10 2
    keySlot := if e.via = .udp then e.slot else 0, keepalive := mf e 0x10 31 16, mask := mf e 0x20 15 0
    evtPort := mf e 0x24 15 0, nonce := mw e 0x18 + mw e 0x1C * 2 ^ 32, openedNs := nowNs c, lastNs := nowNs c }

theorem sessionOpenBody_opens {e : Env} {c : Chip} (role : mf e 0x10 1 0 ≤ 1) (anew : bit e 0x10 3 = false)
    (keepalive : mf e 0x10 31 16 ≤ 600) (admin : bit e 0x10 2 = true → e.via ≠ .udp ∨ e.slot = 0)
    (nonce : sameNonce c e (mw e 0x18 + mw e 0x1C * 2 ^ 32) = none) (room : c.cci.sessions.length < 8) :
    sessionOpenBody e c =
      (let id := freeSession c 8 c.cci.nextSession
       (updCci c (fun x => { x with
          sessions := x.sessions ++ [openedSession e c id]
          lapsed := x.lapsed.filter (· ≠ id)
          nextSession := sessionAfter id }),
        openedReply e id 1)) := by
  have permitted : ¬((bit e 0x10 3 && mf e 0x10 1 0 ≠ 1) || (bit e 0x10 2 && e.via = .udp && e.slot ≠ 0)) = true := by
    rw [anew]
    cases h : bit e 0x10 2
    · simp
    · simpa [imp_iff_not_or] using admin h
  unfold sessionOpenBody
  dsimp only
  rw [if_neg permitted, if_neg (by simp; omega), nonce]
  dsimp only
  rw [anew, if_neg (by simp), if_neg (by simp; omega)]
  rfl

theorem lapse_closes {c : Chip} {id : Nat} {x : Session} (found : session? c id = some x) (timed : x.keepalive ≠ 0)
    (serves : smServes c = true) : lapse id c =
      raiseFor (closeSession (advanceTo c (x.lastNs + x.unservedNs + x.keepalive * 1000000000)) id) 0x0021 0 id [] := by
  unfold lapse
  rw [found]
  dsimp only
  rw [if_neg (by simp [timed, serves])]

/-- The key that `key_load` names: 32 bytes, or none. -/
def loadedKey (e : Env) : List Byte :=
  if bit e 0x10 8 then [] else bytesOf ((List.range 8).map (fun i => nth e.msg (5 + i)))

section
variable {e : Env} (c : Chip)

theorem keyLoadBody_cci (cci : bit e 0x10 0 = true) (low : 1 ≤ mf e 0x10 7 4) (high : mf e 0x10 7 4 ≤ 3) : keyLoadBody e c =
    (updCci c (fun x => { x with cciKeys := put x.cciKeys (mf e 0x10 7 4) (loadedKey e) }), ok []) := by
  unfold keyLoadBody
  dsimp only
  rw [cci, if_neg (by simp; omega), if_pos rfl]
  rfl

theorem keyLoadBody_dst (dst : bit e 0x10 0 = false) (high : mf e 0x10 7 4 ≤ 7) : keyLoadBody e c =
    (updCci c (fun x => { x with dstKeys := put x.dstKeys (mf e 0x10 7 4) (loadedKey e) }), ok []) := by
  unfold keyLoadBody
  dsimp only
  rw [dst, if_neg (by simp; omega), if_neg nofun]
  rfl

theorem keyLoadBody_outside (cci : bit e 0x10 0 = true) (slot : mf e 0x10 7 4 = 0 ∨ 3 < mf e 0x10 7 4) :
    keyLoadBody e c = reject c 0x0101 := by
  unfold keyLoadBody
  dsimp only
  rw [cci, if_pos (by simpa using slot)]
  rfl

end

/-- Settles O26: each command is its operation under the conditions of its rule. -/
theorem sessionsAndKeys : Obligations.SessionsAndKeys := by
  refine ⟨⟨fun s via m k admitted => ?_, fun s via m k admitted => answered_cci rfl admitted rfl rfl,
    fun s id x found timed serves => does_run rfl (lapse_closes found timed serves)⟩, fun s via m k admitted => ?_⟩
  · intro e c x id role anew keepalive admin nonce room
    exact answered_cci rfl admitted rfl (sessionOpenBody_opens role anew keepalive admin nonce room)
  · intro e c slot key
    exact ⟨fun cci low high => answered_cci rfl admitted rfl (keyLoadBody_cci c cci low high),
      fun dst high => answered_cci rfl admitted rfl (keyLoadBody_dst c dst high),
      fun cci outside => answered_cci rfl admitted rfl (keyLoadBody_outside c cci outside)⟩

/-! ## Logs and the summary (R75, R84, R91) -/

/-- A message is checked with the events as they stand. -/
theorem envAt_evt (s : State) (via : Via) (m : Waiting) : (envAt s via m).evt = s.evt := by cases via <;> rfl

section
variable (c : Chip) {b : Buf} (d : List Byte) (result : List U32)

/-- Inline data comes with the response. -/
theorem bufWrite_inline (h : b.kind = 2) : bufWrite c b d = (c, d, true) := by simp [bufWrite, h]

variable {c} {d}

theorem giveData_moved (h : (bufWrite c b d).2.2 = true) : giveData c b d result =
    ((bufWrite c b d).1, { status := 0, result := result, data := (bufWrite c b d).2.1 }) := if_pos h

theorem giveData_unmoved (h : (bufWrite c b d).2.2 = false) : giveData c b d result = (c, { status := 0x0111 }) :=
  if_neg (by simp [h])

end

/-- A command that gives its data to a buffer as its last step answers whether they were moved (R75). -/
theorem answered_giveData {i : Instr} {s : State} {op : Nat} {body : Body} {via : Via} {m : Waiting} {consume : Bool}
    {c : Chip} {b : Buf} {d : List Byte} {result : List U32} (carried : exec i s = .next (cciCommand op neverBusy body via s))
    (admitted : Admitted s via m op consume) (gives : body (envAt s via m) (chipAt s via m) = giveData c b d result) :
    (b.kind = 2 → bufWrite c b d = (c, d, true)) ∧
      ((bufWrite c b d).2.2 = true → Answered i s via m op consume (bufWrite c b d).1
        { status := 0, result := result, data := (bufWrite c b d).2.1 }) ∧
      ((bufWrite c b d).2.2 = false → Answered i s via m op consume c { status := 0x0111 }) :=
  ⟨bufWrite_inline c d, fun moved => answered_cci carried admitted rfl (gives.trans (giveData_moved result moved)),
    fun unmoved => answered_cci carried admitted rfl (gives.trans (giveData_unmoved result unmoved))⟩

section
variable {e : Env} {c : Chip} (log : mf e 0x10 7 0 ≤ 3) (kind : bufKindOk e (bufAt e 0x18) = true)
  (sound : bufFault c (sid e) true (bufAt e 0x18) = none) (recovery : c.start.st = .recovery → mf e 0x10 7 0 = 3)
include log kind sound recovery

/-- A `log_read` that passes its checks gives what its log holds from the index asked on. -/
theorem logReadBody_reads : logReadBody e c =
    (let b := bufAt e 0x18
     let r := logRecords e.evt (mf e 0x10 7 0)
     let oldest := r.2 - w r.1.length
     let skip := (seqDiff (mw e 0x14) oldest.toNat).toNat
     let found := r.1.drop skip
     if found = [] then (c, ok [0, r.2, oldest])
     else if b.len < 64 then (c, { status := stBUFFER_SHORT, result := [64] })
     else
       let given := found.take (b.len / 64)
       giveData c b (given.flatMap (fun x => bytesOf (eventWords x)))
         [w given.length, oldest + w (skip + given.length), oldest]) := by
  have offered : ¬(c.start.st = .recovery && mf e 0x10 7 0 ≠ 3) = true := by simpa using recovery
  unfold logReadBody
  dsimp only
  rw [kind, if_neg (by simp; omega), if_neg offered, sound]

end

section
variable {e : Env} {c : Chip} (kind : bufKindOk e (bufAt e 0x10) = true)
  (sound : bufFault c (sid e) true (bufAt e 0x10) = none)
include kind sound

theorem resyncBody_short (short : (bufAt e 0x10).len < (summary e c).length) :
    resyncBody e c = (c, { status := 0x010C, result := [w (summary e c).length] }) := by
  unfold resyncBody
  dsimp only
  rw [kind, sound, if_neg (by simp)]
  exact if_pos short

theorem resyncBody_gives (fits : (summary e c).length ≤ (bufAt e 0x10).len) :
    resyncBody e c = giveData c (bufAt e 0x10) (summary e c) [w (summary e c).length, e.evt.nextSeq - 1] := by
  unfold resyncBody
  dsimp only
  rw [kind, sound, if_neg (by simp)]
  exact if_neg (Nat.not_lt.mpr fits)

end

/-- Settles O27: both commands give their data to the buffer, which takes it or fails. -/
theorem logsAndSummaryAreRead : Obligations.LogsAndSummaryAreRead := by
  refine ⟨fun s via m k admitted => ?_, fun s via m k admitted => ?_⟩
  · intro e c log b all oldest skip low kind sound recovery
    have reads := logReadBody_reads low kind sound recovery
    rw [envAt_evt] at reads
    refine ⟨fun past => answered_cci rfl admitted rfl (reads.trans (if_pos (List.drop_of_length_le past))),
      fun holds long => ?_⟩
    have held : ¬all.1.drop skip = [] := by
      rw [List.drop_eq_nil_iff]
      omega
    exact answered_giveData rfl admitted ((reads.trans (if_neg held)).trans (if_neg (Nat.not_lt.mpr long)))
  · intro e c b kind sound
    refine ⟨fun fits => ?_, fun short => answered_cci rfl admitted rfl (resyncBody_short kind sound short)⟩
    have gives := resyncBody_gives kind sound fits
    rw [envAt_evt] at gives
    exact answered_giveData rfl admitted gives

end Sys2Proof.Machine

/-!
PROOF. Holes, streams, paths and ports that time out, and control frames (O31).
-/

namespace Sys2Proof.Machine

/-! ## Streams (R105, R108, R114) -/

section
variable {c : Chip} {i : Nat}

theorem windowElapsed_open {n : Nat} {h : Nat × Nat × List Nat}
    (hole : (stream c i).holes.find? (fun h => h.1 = n) = some h) :
    windowElapsed i n c = afterIngest (settleHoles (advanceTo c (windowEnd (stream c i) h.2.1)) i) i := by
  unfold windowElapsed; rw [hole]

theorem streamLost_falls (live : (stream c i).fromStore = false)
    (bound : (stream c i).st = .unanchored ∨ (stream c i).st = .anchored) :
    streamLost i c = raiseOwn (updStream (advanceTo c ((stream c i).heardNs + 16000000)) i
      (fun s => { s with st := .fallback, reason := 0 })) (stream c i).owner 0x1010 [w i, w (stream c i).lastSeq] :=
  if_neg (by simpa [live, or_iff_not_imp_left] using bound)

/-- A request goes out on each path in service (R109). -/
theorem requestAnchor_sends {peer : Peer} (source : (stream c i).srcPeer = some peer)
    (paths : pathsInService c (stream c i) ≠ []) : requestAnchor c i =
      raiseOwn { updStream c i (fun s => { s with requests := w32 (s.requests + 1) }) with
        out := { c.out with anchors := (pathsInService c (stream c i)).map (fun ep => (ep, peer, anchorPacket c (stream c i))) ++
          c.out.anchors } } (stream c i).owner 0x1012 [w i, w (stream c i).reason] := by
  unfold requestAnchor
  dsimp only
  rw [source]
  exact if_neg paths

theorem anchorAgain_asks (st : (stream c i).st = .unanchored) : anchorAgain i c = requestAnchor c i := if_pos st

section
variable {f : Nat} {fr : SceneFrame} (auth : (stream c i).authRequired = true) (closed : fr.closed = true)
  (unverified : fr.verified = false)
include auth closed unverified

theorem trailerLate_live (live : sceneFrame? (chan c i false) f = some fr) : trailerLate i f c =
    afterIngest (authFail (advanceTo c (fr.closedNs + trailerWindow (stream c i))) i false f 2) i := by
  unfold trailerLate
  dsimp only
  rw [auth, live, Option.filter_some_pos (by simp [closed, unverified])]
  rfl

theorem trailerLate_stored (absent : sceneFrame? (chan c i false) f = none)
    (stored : sceneFrame? (chan c i true) f = some fr) : trailerLate i f c =
      afterIngest (finishFrames 64 (authFail (advanceTo c (fr.closedNs + trailerWindow (stream c i))) i true f 2) i true) i := by
  unfold trailerLate
  dsimp only
  rw [auth, absent, stored, Option.filter_none, Option.filter_some_pos (by simp [closed, unverified])]
  rfl

end

/-- Nothing comes on a path for 10 ms, while the other delivers (R105). -/
theorem pathSilent_tells {ep : Nat} (bound : (stream c i).st ≠ .unbound) (live : (stream c i).fromStore = false)
    (named : (stream c i).paths.getLsbD ep = true) (link : (eth c ep).link = true)
    (silent : (pathOf (stream c i) ep).silent = false)
    (other : pathServes (advanceTo c ((pathOf (stream c i) ep).lastNs + ms10)) (stream c i) (1 - ep) = true) :
    pathSilent i ep c = afterIngest (settleHoles (raiseOwn
      (updPath (advanceTo c ((pathOf (stream c i) ep).lastNs + ms10)) i ep (fun q => { q with silent := true }))
      (stream c i).owner 0x1003 [w i, w ep]) i) i := by
  unfold pathSilent
  dsimp only
  rw [if_neg (by simp [bound, live, named, link, silent]), if_neg (by simp [other])]

end

/-! ## Ports (R99, R115) -/

section
variable {c : Chip} {ep : Nat} (runs : running c = true)
include runs

theorem pathUp_tells (down : (eth c ep).up = false) (here : (eth c ep).isolated = false) (rate : Nat) : pathUp ep rate c =
    raise (updEth c ep (fun e => { e with up := true, link := true, rateGbs := rate })) 0x1002 [w ep, w rate] :=
  if_neg (by simp [runs, down, here])

theorem dropCounters_tells (counted : (eth c ep).drops.all (· = 0) = false) : dropCounters ep c =
    raise (updEth c ep (fun e => { e with drops := List.replicate 8 0 })) 0x1020 (w ep :: (eth c ep).drops.map w) :=
  if_neg (by rw [runs, counted]; nofun)

/-! ## Control frames (R93, R98) -/

section
variable (here : (eth c ep).isolated = false)
include here

/-- The port that takes a frame is in service. -/
theorem controlFrame_taken : ¬(!running c || (eth c ep).isolated) = true := by simp [runs, here]

theorem controlFrame_arp (mac : BitVec 48) (sender target : BitVec 32) :
    controlFrame ep (.arpRequest mac sender target) c =
      if ownAddress c ep (0xFFFF#96 ++ target) then answer c ep (.arpReply (c.cfg.macs.getD ep 0) target mac sender) else c :=
  if_neg (controlFrame_taken runs here)

theorem controlFrame_neighbor (mac : BitVec 48) (sender target : BitVec 128) :
    controlFrame ep (.neighborSolicitation mac sender target) c =
      if ownAddress c ep target then answer c ep (.neighborAdvertisement (c.cfg.macs.getD ep 0) target mac sender) else c :=
  if_neg (controlFrame_taken runs here)

theorem controlFrame_query (v4 : Bool) : controlFrame ep (if v4 then .igmpQuery else .mldQuery) c =
    if groupsOn c ep v4 = [] then c else answer c ep (.groupReport (groupsOn c ep v4)) := by
  cases v4
  · exact if_neg (controlFrame_taken runs here)
  · exact if_neg (controlFrame_taken runs here)

/-- Echoes that the port has answered in the present second. -/
def echoesNow (c : Chip) (ep : Nat) : Nat := if (eth c ep).echoSecond = c.time.sec.toNat then (eth c ep).echoCount else 0

theorem controlFrame_echo (sender target : BitVec 128) (body : List Byte) : controlFrame ep (.icmpEcho sender target body) c =
    if ownAddress c ep target = true ∧ echoesNow c ep < 100 then
      updEth (answer c ep (.echoReply target sender body)) ep (fun e =>
        { e with echoSecond := c.time.sec.toNat, echoCount := echoesNow c ep + 1 })
    else c := by
  have answers : controlFrame ep (.icmpEcho sender target body) c =
      if !ownAddress c ep target || 100 ≤ echoesNow c ep then c
      else updEth (answer c ep (.echoReply target sender body)) ep (fun e =>
        { e with echoSecond := c.time.sec.toNat, echoCount := echoesNow c ep + 1 }) :=
    if_neg (controlFrame_taken runs here)
  rw [answers]
  by_cases h : ownAddress c ep target = true ∧ echoesNow c ep < 100
  · rw [if_pos h, if_neg (by simp [h.1, h.2])]
  · rw [if_neg h, if_pos (by simpa [imp_iff_not_or] using h)]

theorem controlFrame_pause : controlFrame ep .pause c = c := if_neg (controlFrame_taken runs here)
theorem controlFrame_unsupported : controlFrame ep .unsupported c = countDrop c ep 7 := if_neg (controlFrame_taken runs here)

end

end

/-- Settles O31: each command is its operation under the conditions of its rule, at the instant that the rule fixes. -/
theorem streamsAndPortsTimeOut : Obligations.StreamsAndPortsTimeOut := by
  refine ⟨fun s i runs => ⟨fun n h hole => ?_, fun live bound => ?_, fun peer st source paths => ?_,
      fun f fr auth closed unverified => ⟨fun live => ?_, fun absent stored => ?_⟩⟩,
    fun s ep runs => ⟨fun i => ?_, does_runLive rfl runs rfl, fun rate down here => ?_, fun counted => ?_, fun here => ?_⟩⟩
  · exact does_runLive rfl runs (windowElapsed_open hole)
  · exact does_runLive rfl runs (streamLost_falls live bound)
  · exact does_runLive rfl runs ((anchorAgain_asks st).trans (requestAnchor_sends source paths))
  · exact does_runLive rfl runs (trailerLate_live auth closed unverified live)
  · exact does_runLive rfl runs (trailerLate_stored auth closed unverified absent stored)
  · intro x c bound live named link silent other
    exact does_runLive rfl runs (pathSilent_tells bound live named link silent other)
  · exact does_runLive rfl runs (pathUp_tells runs down here rate)
  · exact does_runLive rfl runs (dropCounters_tells runs counted)
  · exact ⟨fun mac sender target => does_runLive rfl runs (controlFrame_arp runs here mac sender target),
      fun mac sender target => does_runLive rfl runs (controlFrame_neighbor runs here mac sender target),
      fun v4 => does_runLive rfl runs (controlFrame_query runs here v4),
      fun sender target body => does_runLive rfl runs (controlFrame_echo runs here sender target body),
      does_runLive rfl runs (controlFrame_pause runs here), does_runLive rfl runs (controlFrame_unsupported runs here)⟩

end Sys2Proof.Machine

/-!
PROOF. The content store's items, and the aborts of jobs (O34).
-/

namespace Sys2Proof.Machine

/-! ## `store_put`, `store_delete` and `store_list` (R116 to R120) -/

section
variable {e : Env} {c : Chip} (kind : (bufAt e 0x14).kind ≤ 1) (valid : bufKindOk e (bufAt e 0x14) = true)
  (present : storePresent c = true) (sound : bufFault c (sid e) false (bufAt e 0x14) = none)
include kind valid present sound

theorem storePutBody_accepts (owned : itemFree c (sid e) (mw e 0x10) = true) (jobs : c.cci.jobs.length < 192)
    (items : storeItem? c (mw e 0x10) ≠ none ∨ itemsTaken c < 4096) (bytes : (bufAt e 0x14).len ≤ freeBytes c)
    (idle : itemBusy c (mw e 0x10) = false) : storePutBody e c =
      (let b := bufAt e 0x14
       let n := newJob c 0x30 (tagOf e) (sid e) (bufHolds b)
       (updStore n.2 (fun t => { t with puts :=
          { job := n.1, item := mw e 0x10, bytes := b.len, buf := [b.lo, b.hi, b.len, b.kind], failure := 0 } :: t.puts }),
        { status := 0x0001, result := [w n.1] })) := by
  have room : ¬(jobsFull c || ((storeItem? c (mw e 0x10)).isNone && 4096 ≤ itemsTaken c) ||
      freeBytes c < (bufAt e 0x14).len) = true := by
    have known : (storeItem? c (mw e 0x10)).isNone = true → ¬4096 ≤ itemsTaken c := fun fresh =>
      Nat.not_le.mpr (items.resolve_left (not_not.mpr (Option.isNone_iff_eq_none.mp fresh)))
    simpa [jobsFull, Nat.not_le.mpr jobs, Nat.not_lt.mpr bytes] using known
  unfold storePutBody
  dsimp only
  rw [valid, if_neg (by simp; omega), present, if_neg nofun, sound]
  dsimp only
  rw [owned, if_neg nofun, if_neg room, idle, if_neg nofun]
  rfl

end

/-- A `store_put` that has its bytes settles with them. -/
def putSettled (job : Nat) (x : StorePut) (c : Chip) (d : List Byte) : Chip :=
  if x.failure ≠ 0 then endJob c job .failed x.failure 0 []
  else match itemPackets d with
    | none => endJob c job .failed stINVALID_FIELD 0 []
    | some y =>
      if !storePresent c then endJob c job .failed stTRANSFER_FAULT 0 []
      else endJob (updDrivesUp c (addItem { id := x.item, frames := frameCount y.2, bytes := x.bytes, streamId := y.1,
                                            created := w32 c.time.sec.toNat, packets := y.2 })) job (finishedAs c job) 0 0 []

section
variable {c : Chip} {job : Nat} {x : StorePut} (waits : c.store.puts.find? (fun y => y.job = job) = some x)
include waits

theorem putDone_unread (read : (putData (dropPut c job) x).2 = none) :
    putDone job c = endJob (putData (dropPut c job) x).1 job .failed 0x0111 0 [] := by
  unfold putDone
  rw [waits]
  dsimp only
  rw [read]
  rfl

theorem putDone_read {d : List Byte} (read : (putData (dropPut c job) x).2 = some d) :
    putDone job c = putSettled job x (putData (dropPut c job) x).1 d := by
  unfold putDone
  rw [waits]
  dsimp only
  rw [read]
  rfl

end

section
variable {c : Chip} {job : Nat} {x : StorePut} {d : List Byte}

theorem putSettled_cut (cut : x.failure ≠ 0) : putSettled job x c d = endJob c job .failed x.failure 0 [] := if_pos cut

theorem putSettled_no_item (whole : x.failure = 0) (item : itemPackets d = none) :
    putSettled job x c d = endJob c job .failed 0x0101 0 [] := by
  unfold putSettled
  rw [if_neg (not_not.mpr whole), item]
  rfl

section
variable {y : Nat × List Packet} (whole : x.failure = 0) (item : itemPackets d = some y)
include whole item

theorem putSettled_no_drive (missing : storePresent c = false) :
    putSettled job x c d = endJob c job .failed 0x0111 0 [] := by
  unfold putSettled
  rw [if_neg (not_not.mpr whole), item]
  exact if_pos (by simp [missing])

theorem putSettled_kept (present : storePresent c = true) : putSettled job x c d =
    endJob (updDrivesUp c (addItem { id := x.item, frames := frameCount y.2, bytes := x.bytes, streamId := y.1,
                                     created := w32 c.time.sec.toNat, packets := y.2 })) job (finishedAs c job) 0 0 [] := by
  unfold putSettled
  rw [if_neg (not_not.mpr whole), item]
  exact if_neg (by simp [present])

end

end

theorem storeDeleteBody_deletes {e : Env} {c : Chip} (present : storePresent c = true) (item : storeItem? c (mw e 0x10) ≠ none)
    (owned : itemFree c (sid e) (mw e 0x10) = true) (idle : itemBusy c (mw e 0x10) = false) :
    storeDeleteBody e c = (updDrivesUp c (dropItem (mw e 0x10)), ok []) := by
  unfold storeDeleteBody
  dsimp only
  rw [if_neg (by simpa [present] using item), owned, if_neg nofun, idle, if_neg nofun]

section
variable {e : Env} {c : Chip} (valid : bufKindOk e (bufAt e 0x10) = true) (present : storePresent c = true)
  (sound : bufFault c (sid e) true (bufAt e 0x10) = none)
include valid present sound

theorem storeListBody_short (short : (bufAt e 0x10).len < (storeListBytes c).length) :
    storeListBody e c = (c, { status := 0x010C, result := [w (storeListBytes c).length] }) := by
  unfold storeListBody
  dsimp only
  rw [valid, present, sound]
  exact if_pos short

theorem storeListBody_gives (fits : (storeListBytes c).length ≤ (bufAt e 0x10).len) :
    storeListBody e c = giveData c (bufAt e 0x10) (storeListBytes c) [w (storeListBytes c).length] := by
  unfold storeListBody
  dsimp only
  rw [valid, present, sound]
  exact if_neg (Nat.not_lt.mpr fits)

end

/-! ## Aborts (R89) -/

/-- An unfinished job of the command's kind waits for its abort. -/
theorem abortCheck_job {c : Chip} {e : Env} {ops : List Nat} {j : Job} (found : job? c (mw e 0x10) = some j)
    (kind : j.opcode ∈ ops) (owned : mayAct c (sid e) j.owner = true) : abortCheck c e ops = .inr j := by
  unfold abortCheck
  dsimp only
  rw [found]
  dsimp only
  rw [List.contains_iff_mem.mpr kind, owned]
  rfl

theorem storeAbortBody_holds {c : Chip} {e : Env} {j : Job} (present : storePresent c = true)
    (found : job? c (mw e 0x10) = some j) (kind : j.opcode = 0x30 ∨ j.opcode = 0x32)
    (owned : mayAct c (sid e) j.owner = true) : storeAbortBody e c = (c, { status := 0, held := some j.id }) := by
  unfold storeAbortBody
  rw [present, abortCheck_job found (by simpa using kind) owned]
  rfl

section
variable {c : Chip} {job : Nat} (waits : (c.cci.held.map (·.job)) = some job)
include waits

theorem settleAbort_mover {good : Bool} {j : MoverJob} (mover : c.movers.find? (fun j => j.id = job) = some j) :
    settleAbort job good c = schedule (settleMoverAbort c j) := by
  unfold settleAbort
  rw [if_neg (by simp [abortWaits, waits]), mover]

section
variable {good : Bool} (mover : c.movers.find? (fun j => j.id = job) = none)
include mover

theorem settleAbort_put (put : c.store.puts.any (fun x => x.job = job) = true) :
    settleAbort job good c = endJob (dropPut c job) job .aborted 0 0 [] := by
  unfold settleAbort
  rw [if_neg (by simp [abortWaits, waits]), mover]
  exact if_pos put

theorem settleAbort_stream (put : c.store.puts.any (fun x => x.job = job) = false) {i : Nat}
    (stands : streamOfJob c job = some i) : settleAbort job good c =
    if ((stream c i).playing.map (·.job)) = some job then
      schedule (dispatchDecoders (switchBack (endJob c job .aborted 0 0 []) i good))
    else
      endJob (updStream c i (fun s => { s with sched := s.sched.filter (fun x => x.job ≠ job) })) job .aborted 0
        0xFFFFFFFF [] := by
  unfold settleAbort
  rw [if_neg (by simp [abortWaits, waits]), mover]
  dsimp only
  rw [if_neg (by rw [put]; nofun), stands]

end

end

/-- Settles O34: each message is its body under the checks of its rule, and each abort settles where its job stands. -/
theorem itemsAreKeptAndAborted : Obligations.ItemsAreKeptAndAborted := by
  refine ⟨⟨fun s via m k admitted => ?_, fun s job x runs waits => ?_, fun s via m k admitted => ?_,
      fun s via m k admitted => ?_⟩,
    fun s via m k j admitted => ?_, fun s job good runs held => ?_⟩
  · intro e c id b unbusy kind valid present sound owned jobs items bytes idle
    exact answered_cci rfl admitted unbusy
      (storePutBody_accepts kind valid present sound owned jobs items bytes idle)
  · intro b r c
    refine ⟨fun unread => does_runLive rfl runs (putDone_unread waits unread), fun d read => ?_⟩
    have done := putDone_read waits read
    exact ⟨fun cut => does_runLive rfl runs (done.trans (putSettled_cut cut)),
      fun whole item => does_runLive rfl runs (done.trans (putSettled_no_item whole item)),
      fun y whole item missing => does_runLive rfl runs (done.trans (putSettled_no_drive whole item missing)),
      fun y whole item present => does_runLive rfl runs (done.trans (putSettled_kept whole item present))⟩
  · intro e id c unbusy present item owned idle
    exact answered_cci rfl admitted unbusy (storeDeleteBody_deletes present item owned idle)
  · intro e c b d valid present sound
    exact ⟨fun fits => answered_giveData rfl admitted (storeListBody_gives valid present sound fits),
      fun short => answered_cci rfl admitted rfl (storeListBody_short valid present sound short)⟩
  · intro e c present found kind owned
    exact answered_cci rfl admitted rfl (storeAbortBody_holds present found kind owned)
  · intro mover put
    refine ⟨fun j moves => does_runLive rfl runs (settleAbort_mover held moves),
      fun unmoved writes => does_runLive rfl runs (settleAbort_put held unmoved writes), fun i unmoved other stands => ?_⟩
    have settles := settleAbort_stream (good := good) held unmoved other stands
    exact ⟨fun waiting => does_runLive rfl runs (settles.trans (if_neg waiting)),
      fun playing => does_runLive rfl runs (settles.trans (if_pos playing))⟩

end Sys2Proof.Machine

/-!
PROOF. Layer definitions and commits (O46), and the layer movers (O48).
-/

namespace Sys2Proof.Machine

/-! ## `layer_define` (R195, R196) -/

section
variable {e : Env} {c : Chip}

theorem layerDefineBody_zero (zero : mf e 0x10 2 0 = 0) : layerDefineBody e c = reject c 0x0101 := by
  unfold layerDefineBody
  exact if_pos (by simp [zero])

section
variable (layered : mf e 0x10 2 0 ≠ 0) {r : Nat} (ref : referencePort c = some r)
include layered ref

section
variable (undef : bit e 0x10 8 = true) (owned : mayLayer c (sid e) (mf e 0x10 2 0) 0xFFFF = true)
include undef owned

theorem layerDefineBody_undefine : layerDefineBody e c =
    if !layerKnown (layer c (mf e 0x10 2 0)) then (c, ok [])
    else (pendChange c (mf e 0x10 2 0) { undefine := true, target := layerTarget c r 0, tag := tagOf e }, ok []) := by
  unfold layerDefineBody
  dsimp only
  simp only [undef, layered, owned, ref, decide_false, Bool.not_true, Bool.false_and, Bool.or_self, Bool.false_eq_true, if_false,
    if_true, ne_eq, not_true]

end

/-- The change that a definition makes pending. -/
def definedChange (e : Env) (c : Chip) (r : Nat) : LayerChange :=
  { surf := if mf e 0x14 15 0 = 0xFFFF then none else some (mf e 0x14 15 0), newDef := some (layerDefOf e),
    target := layerTarget c r 0, tag := tagOf e, waits := waitsFor c (mf e 0x14 15 0) }

theorem layerDefineBody_defines (defines : bit e 0x10 8 = false) (fitting : layerDefOk c (layerDefOf e) = true)
    (owned : mayLayer c (sid e) (mf e 0x10 2 0) (mf e 0x14 15 0) = true)
    (suits : if mf e 0x14 15 0 = 0xFFFF then
        suitsId c (layer c (mf e 0x10 2 0)).surf (layerDefOf e) = true ∧
          suitsId c ((layer c (mf e 0x10 2 0)).pending.bind (·.surf)) (layerDefOf e) = true
      else commitSurface c (mf e 0x14 15 0) ≠ none ∧ suitsId c (some (mf e 0x14 15 0)) (layerDefOf e) = true)
    (fits : fitsAfter c (mf e 0x10 2 0) (definedChange e c r) = true) : layerDefineBody e c =
      (pendChange (updLayer c (mf e 0x10 2 0) (fun l => { l with owner := sid e })) (mf e 0x10 2 0) (definedChange e c r),
        ok []) := by
  have known : ¬(mf e 0x14 15 0 ≠ 0xFFFF && (commitSurface c (mf e 0x14 15 0)).isNone) = true := by
    split at suits
    · rename_i unnamed
      simp [unnamed]
    · simpa using fun _ => suits.1
  have suited : (if mf e 0x14 15 0 = 0xFFFF then
      suitsId c (layer c (mf e 0x10 2 0)).surf (layerDefOf e) &&
        suitsId c ((layer c (mf e 0x10 2 0)).pending.bind (·.surf)) (layerDefOf e)
      else suitsId c (some (mf e 0x14 15 0)) (layerDefOf e)) = true := by
    split at suits
    · rename_i unnamed
      rw [if_pos unnamed, suits.1, suits.2]
      rfl
    · rename_i named
      rw [if_neg named, suits.2]
  unfold definedChange at fits ⊢
  unfold layerDefineBody
  dsimp only
  rw [defines, fitting, if_neg (by simp [layered])]
  simp only [Bool.false_eq_true, if_false]
  rw [if_neg known, owned, if_neg (by simp), suited, if_neg (by simp), ref]
  dsimp only
  rw [fits, if_neg (by simp)]

end

/-! ## `layer_commit` (R208 to R211) -/

/-- The change that a commit makes pending. -/
def committedChange (e : Env) (c : Chip) (r : Nat) : LayerChange :=
  { surf := some (mf e 0x14 15 0), target := layerTarget c r (mw e 0x18), tag := tagOf e, waits := waitsFor c (mf e 0x14 15 0) }

theorem layerCommitBody_commits {d : LayerDef} {surf : Surface} {r : Nat} (layered : mf e 0x10 2 0 ≠ 0)
    (defined : newestDef (layer c (mf e 0x10 2 0)) = some d) (found : commitSurface c (mf e 0x14 15 0) = some surf)
    (owned : mayLayer c (sid e) (mf e 0x10 2 0) (mf e 0x14 15 0) = true) (suits : surfaceSuits surf d = true)
    (ref : referencePort c = some r) (fits : fitsAfter c (mf e 0x10 2 0) (committedChange e c r) = true) : layerCommitBody e c =
      (pendChange (updLayer c (mf e 0x10 2 0) (fun l => { l with owner := sid e })) (mf e 0x10 2 0) (committedChange e c r),
        ok [w (layerTarget c r (mw e 0x18))]) := by
  unfold committedChange at fits ⊢
  unfold layerCommitBody
  dsimp only
  rw [if_neg layered, defined, found]
  dsimp only
  rw [owned, if_neg nofun, suits, if_neg nofun, ref]
  dsimp only
  rw [fits, if_neg nofun]

end

/-- A layer command deals the tiles again after its body (R180). -/
theorem andDeal_of {body : Body} {e : Env} {c d : Chip} {r : Reply} (h : body e c = (d, r)) :
    andDeal body e c = (schedule d, r) := by
  unfold andDeal; rw [h]

/-- Settles O46: each message is its body under the checks of its rule, after which tiles are dealt. -/
theorem layersAreDefined : Obligations.LayersAreDefined := by
  refine ⟨fun s via m k r admitted => ?_, fun s via m k r d surf admitted => ?_⟩
  · intro e c i d surf x
    refine ⟨fun zero => answered_cci rfl admitted rfl (andDeal_of (layerDefineBody_zero zero)), fun layered ref =>
      ⟨fun undef owned => ?_, fun defines fitting owned suits fits =>
        answered_cci rfl admitted rfl (andDeal_of (layerDefineBody_defines layered ref defines fitting owned suits fits))⟩⟩
    have undefines := layerDefineBody_undefine layered ref undef owned
    refine ⟨fun known => ?_, fun unknown => ?_⟩
    · exact answered_cci rfl admitted rfl (andDeal_of (undefines.trans (if_neg (by rw [known]; nofun))))
    · exact answered_cci rfl admitted rfl (andDeal_of (undefines.trans (if_pos (by rw [unknown]; rfl))))
  · intro e c i f x layered defined found owned suits ref fits
    exact answered_cci rfl admitted rfl
      (andDeal_of (layerCommitBody_commits layered defined found owned suits ref fits))

/-! ## `mover_submit` and `mover_abort` (R89, R343) -/

section
variable {e : Env} {c : Chip}

theorem moverSubmitBody_accepts {dst src : Surface} (fields : moverFieldsOk (moverJobOf e) = true)
    (dest : commitSurface c (moverJobOf e).dst = some dst) (destOwned : mayAct c (sid e) dst.owner = true)
    (source : (if (moverJobOf e).op = 0 then some {} else commitSurface c (moverJobOf e).src) = some src)
    (sourceOwned : (moverJobOf e).op ≠ 0 → mayAct c (sid e) src.owner = true)
    (fits : moverFits (moverJobOf e) src dst = true) (jobs : c.cci.jobs.length < 192) : moverSubmitBody e c =
      (let n := newJob c 0x23 (tagOf e) (sid e) []
       (dispatchMovers { n.2 with
          movers := n.2.movers ++ [{ moverJobOf e with id := n.1, hazard := readsOwnWrites (moverJobOf e) }] },
        { status := 1, result := [w n.1] })) := by
  unfold moverSubmitBody
  dsimp only
  rw [fields, if_neg nofun, dest, source]
  dsimp only
  rw [if_neg (by simpa [destOwned] using sourceOwned), fits, if_neg nofun, if_neg (by simpa [jobsFull] using jobs)]
  rfl

theorem moverAbortBody_holds {j : Job} (found : job? c (mw e 0x10) = some j) (kind : j.opcode = 0x23)
    (owned : mayAct c (sid e) j.owner = true) : moverAbortBody e c =
      ({ c with movers := c.movers.map (fun x => if x.id = j.id then { x with aborting := true } else x) },
        { status := 0, held := some j.id }) := by
  unfold moverAbortBody
  rw [abortCheck_job found (by simpa using kind) owned]
  rfl

theorem moverAbortBody_ended {f : Finished} (gone : job? c (mw e 0x10) = none)
    (ended : c.cci.finished.find? (fun f => f.id = mw e 0x10 && f.opcode = 0x23) = some f) : moverAbortBody e c =
      (c, { status := 0x010D, result := [f.tag, w (match f.terminal with
        | .completed => 0
        | .failed => 1
        | .aborted => 2
        | .completedBeforeAbort => 3), w f.lastLine] }) := by
  have listed : c.cci.finished.find? (fun f => f.id = mw e 0x10 && [0x23].contains f.opcode) = some f := by
    simpa using ended
  unfold moverAbortBody abortCheck
  dsimp only
  rw [gone]
  dsimp only
  rw [listed]
  rfl

end

/-! ## A line of a job (R352 to R354) -/

/-- The job with its next line done. -/
def lineNext (c : Chip) (j : MoverJob) (poisoned : List Nat) : MoverJob :=
  { j with linesDone := j.linesDone + 1, poisoned := poisoned
           destShown := j.destShown || ((surface? c j.dst).getD {}).inDisplay }

/-- The line that a job runs next. -/
def lineRun (c : Chip) (j : MoverJob) : Chip × List Nat :=
  runLine c j (if j.yDesc then jobLines (destFormat c j) j.h - 1 - j.linesDone else j.linesDone)

/-- A mover has written its next line: the job's progress, the counters and the signal that the job asked for. -/
def lineTold (c : Chip) (u : Nat) (j : MoverJob) : Chip :=
  let f := destFormat c j
  let x := lineRun c j
  let next := lineNext c j x.2
  let d := setProgress { x.1 with movers := x.1.movers.map (fun y => if y.id = j.id then next else y) } j.id (j.linesDone + 1)
  let d := count (count d (116 + u) 0x0603 1) (116 + u) 0x0602 (j.w / elemW f * elemBytes f)
  let sf := ((surface? d j.src).getD {}).format
  let d := if j.op = 0 then d
    else count d (116 + u) 0x0601 (j.w / elemW sf * elemBytes sf * max 1 (elemH f / elemH sf))
  if j.signal ≠ 0 && j.linesDone + 1 = j.signal then
    raiseJob d j.id 0 0x4010 [w j.id, w (j.dst + u * 65536), w (lineRow d next j.linesDone), w j.signal]
  else d

section
variable {c : Chip} {u : Nat} {j : MoverJob} (serves : c.moverOut.contains u = false)
  (taken : c.movers.find? (fun j => j.mover = some u) = some j)
include serves taken

theorem moverLine_tells : moverLine u c =
    if j.linesDone + 1 < jobLines (destFormat c j) j.h then
      (if j.aborting then endMover (lineTold c u j) (lineNext c j (lineRun c j).2) .aborted 0 else lineTold c u j)
    else endMover (lineTold c u j) (lineNext c j (lineRun c j).2) (if j.aborting then .completedBeforeAbort else .completed) 0 := by
  unfold moverLine
  rw [serves, if_neg nofun, taken]
  rfl

end

/-- Settles O48: the messages are their bodies, and a line leaves its job going on, aborted or ended. -/
theorem moversWork : Obligations.MoversWork := by
  refine ⟨fun s via m k dst src admitted => ?_, fun s via m k admitted => ?_, fun s u j runs serves taken => ?_⟩
  · intro e c j n fields dest destOwned source sourceOwned fits jobs
    exact answered_cci rfl admitted rfl
      (moverSubmitBody_accepts fields dest destOwned source sourceOwned fits jobs)
  · intro c id
    exact ⟨fun j found kind owned => answered_cci rfl admitted rfl (moverAbortBody_holds found kind owned),
      fun f gone ended => answered_cci rfl admitted rfl (moverAbortBody_ended gone ended)⟩
  · have tells := moverLine_tells serves taken
    refine ⟨fun more goesOn => ?_, fun more aborting => ?_, fun last => ?_⟩
    · refine does_runLive rfl runs (congrArg schedule (tells.trans ((if_pos more).trans (if_neg ?_))))
      rw [goesOn]
      nofun
    · exact does_runLive rfl runs (congrArg schedule (tells.trans ((if_pos more).trans (if_pos aborting))))
    · exact does_runLive rfl runs (congrArg schedule (tells.trans (if_neg (Nat.not_lt.mpr last))))

end Sys2Proof.Machine

/-!
PROOF. Memory regions, their filling, scrubbing, and the writes and reads of a message (O49).
-/

namespace Sys2Proof.Machine

/-! ## `mem_region_define` (R330 to R332) -/

section
variable {e : Env} {c : Chip}

theorem memRegionDefineBody_deletes {r : MemRegion} (deletes : bit e 0x10 8 = true)
    (found : memRegion? c (mf e 0x10 5 0) = some r) (owned : mayAct c (sid e) r.owner = true)
    (unused : regionInUse c (mf e 0x10 5 0) = false) : memRegionDefineBody e c = (deleteRegion c r, ok []) := by
  unfold memRegionDefineBody
  dsimp only
  rw [if_pos deletes, found]
  dsimp only
  rw [if_neg (by simp [owned]), unused, if_neg nofun]

/-- The chip in which a region is placed: without the old one of its identifier, which nothing may be using. -/
def Vacated (e : Env) (c free : Chip) : Prop :=
  memRegion? c (mf e 0x10 5 0) = none ∧ free = c ∨
    ∃ old, memRegion? c (mf e 0x10 5 0) = some old ∧ mayAct c (sid e) old.owner = true ∧
      regionInUse c (mf e 0x10 5 0) = false ∧ free = deleteRegion c old

/-- The operands of a definition pass their checks. -/
structure RegionFields (e : Env) (c : Chip) : Prop where
  defines : bit e 0x10 8 = false
  code : mf e 0x10 10 9 ≤ 2
  least : 4096 ≤ mw e 0x14 + mw e 0x18 * 2 ^ 32
  pages : (mw e 0x14 + mw e 0x18 * 2 ^ 32) % 4096 = 0
  pairs : bit e 0x10 11 = true →
    mf e 0x10 10 9 ≠ 0 ∧ ∀ n < 8, (mf e 0x1C 15 0).testBit (2 * n) = (mf e 0x1C 15 0).testBit (2 * n + 1)
  controllers : ∀ u ∈ bitsOf (mf e 0x1C 15 0) 16, mcOk c u = true

/-- The place of R315 is one for the code that was asked. -/
theorem regionFit_ecc {mcs : List Nat} {twin : Bool} {ecc size : Nat} {r : MemRegion}
    (h : regionFit c mcs twin ecc size = some r) : r.ecc = ecc := by
  unfold regionFit at h
  split at h
  · cases h
  · obtain ⟨b, -, rfl⟩ := Option.map_eq_some_iff.mp h
    rfl

section
variable (fields : RegionFields e c)
include fields

theorem RegionFields.ranges : ¬(mf e 0x10 10 9 = 3 || mw e 0x14 + mw e 0x18 * 2 ^ 32 < 4096 ||
    (mw e 0x14 + mw e 0x18 * 2 ^ 32) % 4096 ≠ 0 || (bit e 0x10 11 && mf e 0x10 10 9 = 0) ||
    (bit e 0x10 11 && (List.range 8).any (fun k =>
      (mf e 0x1C 15 0).testBit (2 * k) != (mf e 0x1C 15 0).testBit (2 * k + 1)))) = true := by
  have code : mf e 0x10 10 9 ≠ 3 := by
    have := fields.code
    omega
  have size := And.intro fields.least fields.pages
  generalize mw e 0x14 + mw e 0x18 * 2 ^ 32 = n at size ⊢
  cases twin : bit e 0x10 11
  · simpa [code] using size
  · obtain ⟨coded, paired⟩ := fields.pairs twin
    simpa [code, coded] using And.intro size paired

theorem RegionFields.serve : ¬(bitsOf (mf e 0x1C 15 0) 16).any (fun m => !mcOk c m) = true := by
  simpa using fields.controllers

/-- A definition with sound operands is entered at its place, where one is free and a strong region finds room for its job. -/
theorem memRegionDefineBody_defines {free : Chip} (vacated : Vacated e c free) {r : MemRegion}
    (fit : regionFit free (regionMcs c (mf e 0x1C 15 0) (bit e 0x10 11)) (bit e 0x10 11) (mf e 0x10 10 9)
      (mw e 0x14 + mw e 0x18 * 2 ^ 32) = some r)
    (room : mf e 0x10 10 9 = 2 → free.cci.jobs.length < 192) : memRegionDefineBody e c =
      enterRegion free e { r with id := mf e 0x10 5 0, owner := sid e, noGuard := bit e 0x10 12 } := by
  have jobs : ¬(mf e 0x10 10 9 = 2 && jobsFull free) = true := by simpa [jobsFull] using room
  unfold memRegionDefineBody
  dsimp only
  rw [if_neg (by rw [fields.defines]; nofun), if_neg fields.ranges, if_neg fields.serve]
  obtain ⟨fresh, rfl⟩ | ⟨old, found, owned, unused, rfl⟩ := vacated
  · rw [fresh]
    dsimp only
    rw [if_neg nofun, fit]
    dsimp only
    rw [if_neg jobs, if_neg nofun]
  · rw [found]
    dsimp only
    simp only [owned, unused, Bool.not_true, Bool.and_false, Bool.false_eq_true, if_false, fit]
    rw [if_neg jobs]

end

end

section
variable (c : Chip) (e : Env) (r : MemRegion)

theorem enterRegion_plain (h : r.ecc ≠ 2) : enterRegion c e r =
    (let d := dropPages c (withMirrors r.mcs r.twin) r.base (r.pages + r.check)
     ({ d with mems := r :: d.mems }, { status := 0 })) := if_pos h

/-- A strong region is filled by a job. -/
theorem enterRegion_strong (h : r.ecc = 2) : enterRegion c e r =
    (let n := newJob (dropPages c (withMirrors r.mcs r.twin) r.base (r.pages + r.check)) 0x20 (tagOf e) (sid e) []
     ({ n.2 with mems := { r with filling := true, fillJob := n.1 } :: n.2.mems }, { status := 1, result := [w n.1] })) :=
  if_neg (not_not.mpr h)

end

/-! ## STRONG_FILL_DONE (R332) -/

theorem fillDone_fills {c : Chip} {id : Nat} {r : MemRegion} (found : memRegion? c id = some r) (filling : r.filling = true) :
    fillDone id c =
      (let d := { c with mems := c.mems.map (fun x => if x.id = id then { x with filling := false, fillJob := 0 } else x) }
       if r.fillJob = 0 then d else endJob d r.fillJob .completed 0 0 []) := by
  unfold fillDone
  rw [found]
  dsimp only
  rw [filling, if_neg nofun]

/-! ## `scrub_set`, `mem_write` and `mem_read` (R86, R214, R329, R336) -/

section
variable {e : Env} {c : Chip}

theorem scrubSetBody_sets (named : mf e 0x14 15 0 ≠ 0)
    (range : mw e 0x10 = 0 ∨ (600 ≤ mw e 0x10 ∧ mw e 0x10 ≤ 2592000))
    (exist : ∀ u ∈ bitsOf (mf e 0x14 15 0) 16, u < mcCount c) : scrubSetBody e c =
      ((bitsOf (mf e 0x14 15 0) 16).foldl (fun c m => updMc c m (fun x => { x with scrubS := mw e 0x10 })) c, ok []) := by
  have fields : ¬(mf e 0x14 15 0 = 0 || (mw e 0x10 ≠ 0 && (mw e 0x10 < 600 || 2592000 < mw e 0x10))) = true := by
    simp [named]
    omega
  unfold scrubSetBody
  dsimp only
  rw [if_neg fields, if_neg (by simpa using exist)]

section
variable (least : 0 < mw e 0x18) (most : mw e 0x18 ≤ 1024) {r : MemRegion}
  (found : memRegion? c (mf e 0x10 5 0) = some r) (within : mw e 0x14 + mw e 0x18 ≤ r.size)
include least most found within

theorem memWriteBody_writes (owned : mayAct c (sid e) r.owner = true)
    (unguarded : guardedSurface c r (mw e 0x14) (mw e 0x18) = none) (comes : mw e 0x18 ≤ e.inline.length)
    (reach : ∀ o ∈ wordStarts (mw e 0x14) (mw e 0x18), reachable c (regionPlace r o) = true) :
    memWriteBody e c = (writeRegion c r (mw e 0x14) (e.inline.take (mw e 0x18)), ok []) := by
  unfold memWriteBody
  dsimp only
  rw [if_neg (by simp; omega), found]
  dsimp only
  rw [owned, if_neg nofun, if_neg (Nat.not_lt.mpr within), unguarded, if_neg nofun,
    if_neg (by simpa [Nat.not_lt.mpr comes] using reach)]

theorem memReadBody_reads : memReadBody e c =
    (let x := readThrough c (regionPlace r) (mw e 0x14) (mw e 0x18) false
     if x.2.1 ≠ 0 then reject x.2.2 stTRANSFER_FAULT else (x.2.2, { status := stOK, data := x.1 })) := by
  unfold memReadBody
  dsimp only
  rw [if_neg (by simp; omega), found]
  dsimp only
  rw [if_neg (Nat.not_lt.mpr within)]

end

end

/-- Settles O49: each message is its body under the checks of its rule, and a strong region ends its fill's job. -/
theorem regionsAreDefined : Obligations.RegionsAreDefined := by
  refine ⟨fun s via m k admitted => ?_, fun s id r runs found filling => ?_, fun s via m k admitted => ?_,
    fun s via m k r admitted => ?_, fun s via m k r admitted => ?_⟩
  · intro e c id ecc twin mask size
    refine ⟨fun r deletes found owned unused =>
      answered_cci rfl admitted rfl (memRegionDefineBody_deletes deletes found owned unused), ?_⟩
    intro r free defines code least pages pairs controllers vacated fit
    have fields : RegionFields e c := ⟨defines, code, least, pages, pairs, controllers⟩
    have place := regionFit_ecc fit
    intro d new
    refine ⟨fun plain => ?_, fun strong room => ?_⟩
    · have entered := memRegionDefineBody_defines fields vacated fit (fun strong => absurd strong plain)
      exact answered_cci rfl admitted rfl (entered.trans (enterRegion_plain free e new (fun h => plain (place.symm.trans h))))
    · have entered := memRegionDefineBody_defines fields vacated fit (fun _ => room)
      exact answered_cci rfl admitted rfl (entered.trans (enterRegion_strong free e new (place.trans strong)))
  · have fills := fillDone_fills found filling
    exact ⟨fun job => does_runLive rfl runs (fills.trans (if_neg job)),
      fun unjobbed => does_runLive rfl runs (fills.trans (if_pos unjobbed))⟩
  · intro e c mask named range exist
    exact answered_cci rfl admitted rfl (scrubSetBody_sets named range exist)
  · intro e c n least most found owned within unguarded comes reach
    exact answered_cci rfl admitted rfl (memWriteBody_writes least most found within owned unguarded comes reach)
  · intro e c n x least most found within
    have reads := memReadBody_reads least most found within
    exact ⟨fun good => answered_cci rfl admitted rfl (reads.trans (if_neg (not_not.mpr good))),
      fun poisoned => answered_cci rfl admitted rfl (reads.trans (if_pos poisoned))⟩

end Sys2Proof.Machine

/-!
PROOF. A datagram at its port, and the merge of the packets of two paths (O30).
-/

namespace Sys2Proof.Machine

/-! ## A datagram at its port (R98, R103, R115) -/

/-- The port has heard a frame: its link shows (log 74). -/
def linkShown (c : Chip) (ep : Nat) : Chip := updEth c ep (fun e => { e with link := true })

/-- The streams that a datagram at a port matches. -/
def streamHits (c : Chip) (ep : Nat) (d : Datagram) : List Nat :=
  (List.range 16).filter (fun i => matchesStream (linkShown c ep) ep d (stream (linkShown c ep) i))

section
variable {c : Chip} {ep : Nat} {d : Datagram} (runs : running c = true) (here : (eth c ep).isolated = false)
include runs here

/-- A port in service takes the frame. -/
theorem receive_taken : ¬(!running c || (eth c ep).isolated) = true := by simp [runs, here]

theorem receive_unsupported (fault : frameFault d = true) : receive ep d c = countDrop (linkShown c ep) ep 7 :=
  (if_neg (receive_taken runs here)).trans (if_pos fault)

section
variable (sound : frameFault d = false)
include sound

theorem receive_unmatched (unmatched : streamHits c ep d = []) : receive ep d c = countDrop (linkShown c ep) ep 0 :=
  (if_neg (receive_taken runs here)).trans ((if_neg (Bool.eq_false_iff.mp sound)).trans (if_pos unmatched))

section
variable (matched : streamHits c ep d ≠ [])
include matched

/-- The first matching stream that has the packet's STREAM_ID takes it. -/
theorem receive_matched : receive ep d c =
    match parsePacket ep d.payload with
    | none => countDrop (linkShown c ep) ep 1
    | some (id, p) => match (streamHits c ep d).find? (fun i => (stream (linkShown c ep) i).streamId = id) with
      | none => countDrop (linkShown c ep) ep 2
      | some i => afterIngest (mergePacket (linkShown c ep) i ep d.src p) i :=
  (if_neg (receive_taken runs here)).trans ((if_neg (Bool.eq_false_iff.mp sound)).trans (if_neg matched))

theorem receive_malformed (malformed : parsePacket ep d.payload = none) :
    receive ep d c = countDrop (linkShown c ep) ep 1 := by
  rw [receive_matched runs here sound matched, malformed]

section
variable {id : Nat} {p : Packet} (parsed : parsePacket ep d.payload = some (id, p))
include parsed

theorem receive_other_stream (other : ∀ i ∈ streamHits c ep d, (stream (linkShown c ep) i).streamId ≠ id) :
    receive ep d c = countDrop (linkShown c ep) ep 2 := by
  rw [receive_matched runs here sound matched, parsed]
  dsimp only
  rw [List.find?_eq_none.mpr (by simpa using other)]

theorem receive_merges {i : Nat} (only : streamHits c ep d = [i]) (named : (stream (linkShown c ep) i).streamId = id) :
    receive ep d c = afterIngest (mergePacket (linkShown c ep) i ep d.src p) i := by
  have takes : [i].find? (fun k => (stream (linkShown c ep) k).streamId = id) = some i :=
    List.find?_cons_of_pos (by simpa using named)
  rw [receive_matched runs here sound matched, parsed, only]
  dsimp only
  rw [takes]

end

end

end

end

/-! ## The merge (R100, R104) -/

/-- The stream's path has delivered, and the holes that were lost by then are declared so. -/
def pathHeard (c : Chip) (i ep : Nat) : Chip :=
  updPath (settleHoles c i) i ep (fun q => { q with heard := true, lastNs := nowNs c, silent := false })

/-- The path's run of stale packets ends. -/
def staleRunOver (c : Chip) (i ep : Nat) : Chip := updPath c i ep (fun q => { q with staleRun := 0 })

/-- A packet within the record has been heard: the holes below its number are passed on its path. -/
def heardWithin (c : Chip) (i ep n : Nat) : Chip := passOver (staleRunOver (pathHeard c i ep) i ep) i ep n

/-- A packet within the record is ahead of H, fills a hole, or has come before. -/
def mergedWithin (c : Chip) (i ep : Nat) (src : Peer) (p : Packet) (h : Nat) : Chip :=
  let d := heardWithin c i ep p.seq
  if 0 < seqDiff p.seq h then
    settleHoles (acceptPacket (updStream d i (fun s =>
      { s with
        high := some p.seq
        holes := s.holes ++ (List.range ((seqDiff p.seq h).toNat - 1)).map (fun k =>
          (w32 (h + 1 + k), nowNs d, [ep])) })) i src p) i
  else if (stream d i).holes.any (fun x => x.1 = p.seq) then
    settleHoles (acceptPacket (updStream d i (fun s => { s with holes := s.holes.filter (fun x => x.1 ≠ p.seq) })) i src p) i
  else settleHoles (countDrop d ep (if (stream d i).lostHoles.contains p.seq then 4 else 3)) i

section
variable {c : Chip} {i ep : Nat} {src : Peer} {p : Packet}

theorem mergePacket_cases : mergePacket c i ep src p =
    match (stream (pathHeard c i ep) i).high with
    | none => release releaseFuel (acceptPacket (updStream (staleRunOver (pathHeard c i ep) i ep) i
        (fun s => { s with high := some p.seq, nextOut := some p.seq })) i src p) i
    | some h => if seqDiff p.seq h ≤ -65536 || 65536 < seqDiff p.seq h then stalePacket (pathHeard c i ep) i ep p.seq
      else mergedWithin c i ep src p h := rfl

theorem mergePacket_first (first : (stream (pathHeard c i ep) i).high = none) : mergePacket c i ep src p =
    release releaseFuel (acceptPacket (updStream (staleRunOver (pathHeard c i ep) i ep) i
      (fun s => { s with high := some p.seq, nextOut := some p.seq })) i src p) i := by
  rw [mergePacket_cases, first]

section
variable {h : Nat} (high : (stream (pathHeard c i ep) i).high = some h)
include high

theorem mergePacket_outside (outside : seqDiff p.seq h ≤ -65536 ∨ 65536 < seqDiff p.seq h) :
    mergePacket c i ep src p = stalePacket (pathHeard c i ep) i ep p.seq := by
  rw [mergePacket_cases, high]
  exact if_pos (by simpa using outside)

theorem mergePacket_within (above : -65536 < seqDiff p.seq h) (below : seqDiff p.seq h ≤ 65536) :
    mergePacket c i ep src p = mergedWithin c i ep src p h := by
  rw [mergePacket_cases, high]
  exact if_neg (by simpa using And.intro above below)

end

theorem mergedWithin_ahead {h : Nat} (ahead : 0 < seqDiff p.seq h) : mergedWithin c i ep src p h =
    settleHoles (acceptPacket (updStream (heardWithin c i ep p.seq) i (fun s =>
      { s with
        high := some p.seq
        holes := s.holes ++ (List.range ((seqDiff p.seq h).toNat - 1)).map (fun k =>
          (w32 (h + 1 + k), nowNs (heardWithin c i ep p.seq), [ep])) })) i src p) i := if_pos ahead

section
variable {h : Nat} (behind : seqDiff p.seq h ≤ 0)
include behind

theorem mergedWithin_fills (hole : (stream (heardWithin c i ep p.seq) i).holes.any (fun x => x.1 = p.seq) = true) :
    mergedWithin c i ep src p h = settleHoles (acceptPacket (updStream (heardWithin c i ep p.seq) i (fun s =>
      { s with holes := s.holes.filter (fun x => x.1 ≠ p.seq) })) i src p) i :=
  (if_neg (not_lt.mpr behind)).trans (if_pos hole)

theorem mergedWithin_repeats (filled : (stream (heardWithin c i ep p.seq) i).holes.any (fun x => x.1 = p.seq) = false) :
    mergedWithin c i ep src p h = settleHoles (countDrop (heardWithin c i ep p.seq) ep
      (if (stream (heardWithin c i ep p.seq) i).lostHoles.contains p.seq then 4 else 3)) i :=
  (if_neg (not_lt.mpr behind)).trans (if_neg (Bool.eq_false_iff.mp filled))

end

end

/-- Settles O30: a datagram meets the checks in their order, and the place of its number decides what the merge does. -/
theorem packetsAreSortedAndMerged : Obligations.PacketsAreSortedAndMerged := by
  refine ⟨fun s ep d runs here => ?_, fun c i ep src p => ?_⟩
  · intro c hits drop
    refine ⟨fun fault => ?_, fun sound => ⟨fun unmatched => ?_, fun matched malformed => ?_,
      fun id p matched parsed other => ?_, fun id p i only parsed named => ?_⟩⟩
    · exact does_runLive rfl runs (receive_unsupported runs here fault)
    · exact does_runLive rfl runs (receive_unmatched runs here sound unmatched)
    · exact does_runLive rfl runs (receive_malformed runs here sound matched malformed)
    · exact does_runLive rfl runs (receive_other_stream runs here sound matched parsed other)
    · have matched : hits ≠ [] := by simp [only]
      exact does_runLive rfl runs (receive_merges runs here sound matched parsed only named)
  · intro heard fresh
    refine ⟨mergePacket_first, fun h high => ?_⟩
    intro d
    refine ⟨fun ahead below => ?_, fun above behind hole => ?_, fun above behind filled => ?_, mergePacket_outside high⟩
    · exact (mergePacket_within high (by omega) below).trans (mergedWithin_ahead ahead)
    · exact (mergePacket_within high above (by omega)).trans (mergedWithin_fills behind hole)
    · exact (mergePacket_within high above (by omega)).trans (mergedWithin_repeats behind filled)

end Sys2Proof.Machine

/-!
PROOF. `stream_bind`: a stream is unbound, bound, and bound again (O32).
-/

namespace Sys2Proof.Machine

/-! ## `stream_bind` (R108 to R111, R233) -/

/-- The reserve that a binding has: its own, or the one that a new binding is given (R156). -/
def BindingRoom (c : Chip) (i : Nat) (d : Chip) : Prop :=
  ((stream c i).st = .unbound → reserveArea c 4 i (128 * 2 ^ 20) false false false = some d) ∧
    ((stream c i).st ≠ .unbound → d = c)

/-- The old binding of a stream ends, and the work of the decoders on it. -/
def bindingLeft (c : Chip) (i : Nat) : Chip :=
  leaveWork (leaveWork (forgetUsed (endItems (groupChange c i false) i false) i true) i false) i true

/-- The stream as the message `n` binds it, with its schedule `sched` kept, for its packets to be read again. -/
def boundStream (c : Chip) (n : Stream) (sched : List Schedule) : Stream :=
  { n with
    sched := sched.map (fun x => { x with left := [], readCount := 0 })
    loopAhead := if n.fallback = 1 then readItem c n.fallbackItem 0 (64 * 2 ^ 20) else []
    path0 := { lastNs := nowNs c }, path1 := { lastNs := nowNs c }, heardNs := nowNs c }

/-- The stream is bound, its group joined, and the ports that follow it choose again. -/
def bindingEntered (c : Chip) (i : Nat) (n : Stream) (sched : List Schedule) : Chip :=
  schedule (dispatchDecoders (followersRenew (groupChange (updStream c i (fun _ => boundStream c n sched)) i true) i))

/-- The fields of a binding are in range. -/
structure BindingFields (n : Stream) : Prop where
  window : n.mergeWindow ≤ 200
  fallback : n.fallback ≠ 3
  vlan : n.vlan ≠ 4095

section
variable {e : Env} {c : Chip} (fields : BindingFields (bindingOf e))
include fields

theorem BindingFields.ranges : ¬(decide ((bindingOf e).mergeWindow > 200) || decide ((bindingOf e).fallback = 3) ||
    decide ((bindingOf e).vlan = 4095)) = true := by
  simpa [fields.fallback, fields.vlan] using fields.window

section
variable (unbind : (mw e 0x10).testBit 8 = true)
include unbind

theorem streamBindBody_unbinds (bound : (stream c (mf e 0x10 3 0)).st ≠ .unbound)
    (owned : mayAct c (sid e) (stream c (mf e 0x10 3 0)).owner = true) :
    streamBindBody e c = (unbindStream c (mf e 0x10 3 0), ok []) :=
  (if_neg fields.ranges).trans ((if_pos unbind).trans ((if_neg bound).trans (if_neg (by simp [owned]))))

theorem streamBindBody_unbound (unbound : (stream c (mf e 0x10 3 0)).st = .unbound) : streamBindBody e c = (c, ok []) :=
  (if_neg fields.ranges).trans ((if_pos unbind).trans (if_pos unbound))

end

section
variable (binds : (mw e 0x10).testBit 8 = false)
include binds

theorem streamBindBody_no_path (live : (bindingOf e).fromStore = false) (pathless : (bindingOf e).paths = 0) :
    streamBindBody e c = reject c 0x0101 :=
  (if_neg fields.ranges).trans ((if_neg (Bool.eq_false_iff.mp binds)).trans (if_pos (by simp [live, pathless])))

theorem streamBindBody_binds (source : (bindingOf e).fromStore = true ∨ (bindingOf e).paths ≠ 0)
    (loop : (bindingOf e).fallback = 1 → storePresent c = true ∧ (storeItem? c (bindingOf e).fallbackItem).isSome = true)
    (store : (bindingOf e).fromStore = true → storePresent c = true)
    (owned : mayAct c (sid e) (stream c (mf e 0x10 3 0)).owner = true) {d : Chip} (room : BindingRoom c (mf e 0x10 3 0) d) :
    streamBindBody e c = (bindingEntered (bindingLeft d (mf e 0x10 3 0)) (mf e 0x10 3 0) (bindingOf e)
      (stream c (mf e 0x10 3 0)).sched, ok []) := by
  have sources : ¬(!(bindingOf e).fromStore && decide ((bindingOf e).paths = 0)) = true := by
    simpa [or_iff_not_imp_left] using source
  have items : ¬((decide ((bindingOf e).fallback = 1) &&
      (!storePresent c || (storeItem? c (bindingOf e).fallbackItem).isNone)) ||
      ((bindingOf e).fromStore && !storePresent c)) = true := by
    rw [Bool.or_eq_true, not_or]
    refine ⟨fun bad => ?_, fun bad => ?_⟩
    · obtain ⟨one, missing⟩ := by simpa using bad
      obtain ⟨present, found⟩ := loop one
      simp [present, Option.isSome_iff_ne_none.mp found] at missing
    · obtain ⟨stored, missing⟩ := by simpa using bad
      simp [store stored] at missing
  have reserve : (if (stream c (mf e 0x10 3 0)).st = .unbound then
      reserveArea c 4 (mf e 0x10 3 0) (128 * 2 ^ 20) false false false else some c) = some d := by
    obtain ⟨new, again⟩ := room
    split
    · next unbound => exact new unbound
    · next bound => rw [again bound]
  refine (if_neg fields.ranges).trans ((if_neg (Bool.eq_false_iff.mp binds)).trans ((if_neg sources).trans
    ((if_neg items).trans ((if_neg (by simp [owned])).trans ?_))))
  rw [reserve]
  rfl

end

end

/-- Settles O32: the message is its body under the checks of its rule. -/
theorem streamsAreBound : Obligations.StreamsAreBound := by
  intro s via m k admitted e c i x n window fallback vlan
  have fields : BindingFields n := ⟨window, fallback, vlan⟩
  refine ⟨fun unbind bound owned => ?_, fun unbind unbound => ?_, fun binds source loop store owned d new again => ?_,
    fun binds live pathless => ?_⟩
  · exact answered_cci rfl admitted rfl (streamBindBody_unbinds fields unbind bound owned)
  · exact answered_cci rfl admitted rfl (streamBindBody_unbound fields unbind unbound)
  · exact answered_cci rfl admitted rfl (streamBindBody_binds fields binds source loop store owned ⟨new, again⟩)
  · exact answered_cci rfl admitted rfl (streamBindBody_no_path fields binds live pathless)

end Sys2Proof.Machine

/-!
PROOF. The decoders: a tile row is entered, concealed or suspended, and a free decoder takes work (O33).
-/

namespace Sys2Proof.Machine

/-! ## TILE_ROW_DECODED (R107, R148, R150, R152, R154) -/

/-- The decoder has put its work down. -/
def handFree (c : Chip) (dd : Nat) : Chip := updDec c dd (fun d => { d with work := none })

/-- The tile row in the decoder's hand: the array that it belongs to, the header of its frame, and how it ended. -/
def rowInHand (c : Chip) (dd i : Nat) (item : Bool) (x : SceneFrame) (n y : Nat) (full : Option Nat) :
    HistArray × List Nat × RowEnd := decodeRow (handFree c dd) i (chan c i item) x n y full

/-- The content that stands in for a tile row that is lost or in error. -/
def rowHidden (c : Chip) (dd i : Nat) (item : Bool) (a : HistArray) (y : Nat) : List (List Nat) :=
  concealedRow (seenArray (handFree c dd) (stream (handFree c dd) i) (chan c i item)) (chan c i item) a y

/-- A tile row enters the history of the chip `d` and is counted, the decoder goes on, and frames that it completes finish. -/
def rowEntered (c : Chip) (dd i : Nat) (item : Bool) (f n y : Nat) (x : SceneFrame) (r : HistArray × List Nat × RowEnd)
    (d : Chip) (l : List (List Nat)) (hidden bad : Bool) : Chip :=
  finishFrames 64 (nextRow (reportLate
    (count (count (enterRow (countRefs d i item x r.1 y hidden) i item f r.1 y l r.2.1 hidden bad) (108 + dd) 0x0501 l.length)
      (108 + dd) 0x0502 1)
    i item f n y (rowDue (handFree c dd) i item f (n, y))) dd i item f n) i item

section
variable {c : Chip} {dd i f n y : Nat} {item : Bool} {x : SceneFrame} {full : Option Nat} {r : HistArray × List Nat × RowEnd}
  (serves : (nth c.decs dd).isolated = false) (work : (nth c.decs dd).work = some (i, item, f, n, y))
  (frame : sceneFrame? (chan c i item) f = some x) (row : rowInHand c dd i item x n y full = r)
include serves work frame row

/-- How the tile row ended decides what becomes of it. -/
theorem rowDone_row : rowDone c dd full =
    match r.2.2 with
    | .starved s out => count (updDec (updFrame (handFree c dd) i item f (fun x => { x with rows := x.rows.map (fun d =>
        if d.array = n && d.row = y then { d with tried := d.bytes.length, saved := some s, outputFull := out } else d) }))
        dd (fun d => { d with suspended := true })) (108 + dd) (if out then 0x0503 else 0x0504) 1
    | .elements l => rowEntered c dd i item f n y x r (handFree c dd) l false false
    | .lost => rowEntered c dd i item f n y x r (if x.rows.any (fun d => d.array = n && d.row = y && d.counted)
        then handFree c dd else loseRows (handFree c dd) i 1) (rowHidden c dd i item r.1 y) true false
    | .error e => rowEntered c dd i item f n y x r (dcError (handFree c dd) i e.code e.cause e.pos n y f)
        (rowHidden c dd i item r.1 y) true true := by
  subst row
  refine (if_neg (Bool.eq_false_iff.mp serves)).trans ?_
  rw [work]
  dsimp only
  rw [frame]
  rfl

end

/-- A report of a decoder is `rowDone` on the stream that it works for. -/
theorem does_tileRowDecoded {s : State} {dd : Fin 8} {i f n y : Nat} {item : Bool} {full : Option Nat} {d : Chip}
    (runs : running s.chip = true) (work : (nth s.chip.decs dd.val).work = some (i, item, f, n, y))
    (done : rowDone s.chip dd.val full = d) : Does (.tileRowDecoded ⟨dd, full⟩) s (afterIngest d i) := by
  refine does_runLive rfl runs ?_
  rw [work, done]

/-! ## DECODE_RESUME (R152, R154) -/

theorem takeWork_takes {c : Chip} {dd : Nat} {suspended : Bool} {p : Piece} (free : (nth c.decs dd).work = none)
    (serves : (nth c.decs dd).isolated = false) (next : nextPiece c suspended = some p) :
    takeWork c suspended dd = updDec c dd (fun d => { d with work := some p, suspended := false }) := by
  refine (if_neg (by simp [free, serves])).trans ?_
  rw [next]

/-- Settles O33: how the tile row ended decides what becomes of it, and a free decoder takes the first piece. -/
theorem decodersWork : Obligations.DecodersWork := by
  refine fun s dd runs => ⟨fun i item f n y x full serves work frame => ?_, fun p free serves next => ?_⟩
  · intro c ch r entered
    have done := rowDone_row serves work frame (full := full) rfl
    refine ⟨fun l ended => ?_, fun ended => ?_, fun e ended => ?_, fun st out ended => ?_⟩
    all_goals
      refine does_tileRowDecoded runs work (done.trans ?_)
      rw [show (rowInHand s.chip dd.val i item x n y full).2.2 = _ from ended]
      rfl
  · exact does_runLive rfl runs (takeWork_takes free serves next)

end Sys2Proof.Machine

/-!
PROOF. Scheduled items: `store_schedule`, reading ahead, and the end of an item (O35).
-/

namespace Sys2Proof.Machine

/-! ## `store_schedule` (R121, R123) -/

/-- The schedule that a message asks for. -/
def scheduleOf (e : Env) (c : Chip) : Schedule :=
  let start := fullSeconds c (mw e 0x1C) * 1000000000 + mw e 0x18
  { item := mw e 0x10, startNs := start.toNat, loop := bit e 0x20 0, owner := sid e,
    late := decide (start < (nowNs c : Int) + 100000000) }

theorem storeScheduleBody_accepts {e : Env} {c : Chip} (start : mw e 0x18 < 1000000000) (present : storePresent c = true)
    (item : storeItem? c (mw e 0x10) ≠ none) (bound : (stream c (mf e 0x14 3 0)).st ≠ .unbound)
    (owned : mayAct c (sid e) (stream c (mf e 0x14 3 0)).owner = true) (jobs : c.cci.jobs.length < 192)
    (waiting : (stream c (mf e 0x14 3 0)).sched.any (overlaps c (mf e 0x14 3 0) (scheduleOf e c)) = false)
    (playing : ∀ y, (stream c (mf e 0x14 3 0)).playing = some y → y.job ≠ 0 →
      overlaps c (mf e 0x14 3 0) (scheduleOf e c) y = false) : storeScheduleBody e c =
      (updStream (newJob c 0x32 (tagOf e) (sid e) []).2 (mf e 0x14 3 0) (fun t =>
        { t with sched := insertBy (fun a b => a.startNs < b.startNs) { scheduleOf e c with job := c.cci.nextJob } t.sched }),
        { status := 0x0001, result := [w c.cci.nextJob] }) := by
  have apart : ¬((match (stream c (mf e 0x14 3 0)).playing with
      | some y => if y.job = 0 then [] else [y]
      | none => []) ++ (stream c (mf e 0x14 3 0)).sched).any (overlaps c (mf e 0x14 3 0) (scheduleOf e c)) = true := by
    rw [List.any_append, waiting, Bool.or_false]
    cases plays : (stream c (mf e 0x14 3 0)).playing with
    | none => nofun
    | some y =>
      dsimp only
      split
      · nofun
      · next job => simp [playing y plays job]
  exact (if_neg (Nat.not_le.mpr start)).trans ((if_neg (by simpa [present, bound] using item)).trans
    ((if_neg (by simp [owned])).trans ((if_neg (by simpa [jobsFull] using jobs)).trans (if_neg apart))))

/-! ## ITEM_END (R121 to R123, R158) -/

/-- A LOOP item as it is read from its beginning again: the loop of FALLBACK 1 from the packets read at `stream_bind`. -/
def loopAgain (s : Stream) (x : Schedule) : Schedule :=
  { x with left := if x.job = 0 then s.loopAhead else []
           readCount := if x.job = 0 then s.loopAhead.length else 0, again := true }

section
variable {c : Chip} {i : Nat} {good : Bool} {x : Schedule}

section
variable (plays : (stream c i).playing = some x)
include plays

theorem itemEnds_loop (loop : x.loop = true) : itemEnds i .lastFrame good c =
    (let y := loopAgain (stream c i) x
     schedule (dispatchDecoders (updStream c i (fun t =>
       { t with playing := some (readAhead c (ringBytes - waitingBytes y) y) })))) := by
  have begins : loopAgain (stream c i) x = { x with
      left := if x.job = 0 then (stream c i).loopAhead else []
      readCount := (if x.job = 0 then (stream c i).loopAhead else []).length, again := true } := by
    unfold loopAgain
    rw [apply_ite List.length]
    rfl
  unfold itemEnds
  rw [plays, begins]
  exact congrArg (fun d => schedule (dispatchDecoders d)) (if_pos loop)

theorem itemEnds_once (once : x.loop = false) : itemEnds i .lastFrame good c =
    schedule (dispatchDecoders (switchBack (endJob c x.job (finishedAs c x.job) 0 0 []) i good)) := by
  unfold itemEnds
  rw [plays]
  exact congrArg (fun d => schedule (dispatchDecoders d)) (if_neg (Bool.eq_false_iff.mp once))

end

/-- The other drive goes on with the read, or the item fails. -/
theorem itemEnds_readFailed (reads : itemRead c (stream c i) = some x) (cs0 cs1 : Bool) :
    itemEnds i (.readFailed cs0 cs1) good c =
      schedule (dispatchDecoders (if itemReadable (markBad c x.item cs0 cs1) x.item then markBad c x.item cs0 cs1
        else itemFails (markBad c x.item cs0 cs1) i x good)) := by
  unfold itemEnds
  rw [reads]

section
variable (plays : (stream c i).playing = some x)
include plays

theorem itemFails_playing (job : x.job ≠ 0) :
    itemFails c i x good = switchBack (endJob c x.job .failed 0x0111 0 []) i good := (if_pos plays).trans (if_neg job)

theorem itemFails_loop (job : x.job = 0) :
    itemFails c i x good = updStream (leaveWork c i true) i (fun t => { t with playing := none }) :=
  (if_pos plays).trans (if_pos job)

end

theorem itemFails_waiting (waits : (stream c i).playing ≠ some x) : itemFails c i x good =
    endJob (updStream c i (fun t => { t with sched := t.sched.filter (fun y => y.job ≠ x.job) })) x.job .failed 0x0111 0 [] :=
  if_neg waits

end

/-- Settles O35: the message is its body under the checks of its rule, and the end of an item has the outcomes of its cause. -/
theorem itemsAreScheduled : Obligations.ItemsAreScheduled := by
  refine ⟨fun s via m k admitted => ?_, fun s i runs => does_runLive rfl runs rfl, fun s i good runs => ?_⟩
  · intro e c i x start new unbusy seconds present item bound owned jobs waiting playing
    exact answered_cci rfl admitted unbusy
      (storeScheduleBody_accepts seconds present item bound owned jobs waiting playing)
  · intro st settled
    refine ⟨fun x plays loop => ?_, fun x plays once => ?_, fun x cs0 cs1 reads => ?_⟩
    · exact does_runLive rfl runs (itemEnds_loop plays loop)
    · exact does_runLive rfl runs (itemEnds_once plays once)
    · have fails := fun unread => (itemEnds_readFailed (good := good) reads cs0 cs1).trans
        (congrArg settled (if_neg (Bool.eq_false_iff.mp unread)))
      exact ⟨fun readable => does_runLive rfl runs
          ((itemEnds_readFailed reads cs0 cs1).trans (congrArg settled (if_pos readable))),
        fun unread plays job => does_runLive rfl runs ((fails unread).trans (congrArg settled (itemFails_playing plays job))),
        fun unread plays job => does_runLive rfl runs ((fails unread).trans (congrArg settled (itemFails_loop plays job))),
        fun unread waits => does_runLive rfl runs ((fails unread).trans (congrArg settled (itemFails_waiting waits)))⟩

end Sys2Proof.Machine

/-!
PROOF. Drives that come and go, persistence writes, and the copy that is restored (O36).
-/

namespace Sys2Proof.Machine

/-! ## Drives (R116) -/

section
variable {c : Chip} {k : Nat}

section
variable {r : DriveReport} (runs : running c = true) (down : (driveOf? c k).up = false) (port : k = 0 ∨ c.cfg.csTwoPorts = true)
include runs down port

/-- A port of the store without a drive takes one. -/
theorem driveUp_taken : ¬(!running c || (driveOf? c k).up || (decide (k = 1) && !c.cfg.csTwoPorts)) = true := by
  obtain rfl | two := port
  · simp [runs, down]
  · simp [runs, down, two]

theorem driveUp_rejected {f : U32} (missing : r.missing = some f) : driveUp k r c = raise c 0xD003 [w k, f] := by
  refine (if_neg (driveUp_taken runs down port)).trans ?_
  rw [missing]

/-- The drive that stands at the port again, or the other one that stands there now, with its own content. -/
theorem driveUp_comes (meets : r.missing = none) {d : Drive}
    (same : r.content = none → d = { driveOf? c k with up := true, capacity := r.capacity })
    (other : ∀ x, r.content = some x → d = (contentItems x).foldl (fun d it => addItem it d)
      { up := true, capacity := r.capacity, copyA := x.copyA, copyB := x.copyB
        dir := { identity := x.identity }, dirCopy := { identity := x.identity } }) :
    driveUp k r c = raise (updStore c (fun t => if k = 0 then { t with drive0 := d } else { t with drive1 := d })) 0xD001
      [w k, w r.capacity, w (r.capacity / 2 ^ 32)] := by
  refine (if_neg (driveUp_taken runs down port)).trans ?_
  rw [meets]
  cases content : r.content with
  | none => rw [same content]
  | some x => rw [other x content]; rfl

end

theorem driveDown_tells (up : (driveOf? c k).up = true) : driveDown k c =
    raise (updStore (actionDone c 10 k) (fun t =>
      if k = 0 then { t with drive0 := { t.drive0 with up := false } } else { t with drive1 := { t.drive1 with up := false } }))
      0xD002 [w k] := if_neg (by simp [up])

end

/-! ## Persistence writes (R118, R305) -/

section
variable {c : Chip}

theorem persistTimer_starts (released : c.start.st = .released) (serves : smServes c = true)
    (idle : c.store.writing = none) : persistTimer c = startPersist c := if_neg (by simp [released, serves, idle])

theorem startPersist_no_drive (missing : storePresent c = false) :
    startPersist c = raise (updStore c (fun t => { t with noSource := true })) 0xD021 [0] := if_pos (by simp [missing])

/-- The copy that is not the newest: B where A is, else A. -/
theorem startPersist_writes (present : storePresent c = true) : startPersist c =
    (let second := (newestCopy c).map (·.1) == some false
     updStore (updDrivesUp c (setCopy second [])) (fun t => { t with writing := some (second, c.time.sec.toNat) })) := by
  refine (if_neg (by simp [present])).trans ?_
  cases newest : newestCopy c with
  | none => rfl
  | some x =>
    obtain ⟨b, x⟩ := x
    cases b <;> rfl

/-- A drive in service has taken the write whole. -/
def tookWrite (c : Chip) (written : BitVec 2) (k : Nat) : Bool := written.getLsbD k && (driveOf? c k).up

/-- The number of a copy after the newest. -/
def seqAfter : Option (Bool × Persist) → Nat
  | some x => w32 (x.2.seq + 1)
  | none => 1

/-- No write is under way; `failed` where no drive took the last one. -/
def writeOver (c : Chip) (failed : Bool) : Chip := updStore c (fun t => { t with writing := none, noSource := failed })

/-- No persistence write of a shutdown has failed (R61). -/
def persistGood (c : Chip) : Chip := { c with start := { c.start with shutPersistFailed := false } }

/-- The drives that took the write hold the copy's bytes. -/
def copyTaken (c d : Chip) (written : BitVec 2) (b : Bool) (bytes : List Byte) : Chip :=
  let new : Nat → Drive → Drive := fun k x => if tookWrite c written k then setCopy b bytes x else x
  updStore d (fun t => { t with drive0 := new 0 t.drive0, drive1 := new 1 t.drive1 })

section
variable {b : Bool} {start : Nat} {written : BitVec 2} (writing : c.store.writing = some (b, start))
include writing

/-- The drives that took the write decide whether it failed. -/
theorem persisted_cases : persisted written c =
    (let failed := !tookWrite c written 0 && !tookWrite c written 1
     let d := writeOver c failed
     let seq := seqAfter (newestCopy d)
     if failed then raise d 0xD021 [1]
     else raise (copyTaken c (persistGood d) written b (persistBytes (persistOf d seq start))) 0xD020 [w (b01 b), w seq]) := by
  unfold persisted
  rw [writing]
  rfl

theorem persisted_fails (first : tookWrite c written 0 = false) (second : tookWrite c written 1 = false) :
    persisted written c = raise (writeOver c true) 0xD021 [1] := by
  rw [persisted_cases writing, first, second]
  rfl

theorem persisted_writes (taken : tookWrite c written 0 = true ∨ tookWrite c written 1 = true) : persisted written c =
    (let d := persistGood (writeOver c false)
     let seq := seqAfter (newestCopy c)
     raise (copyTaken c d written b (persistBytes (persistOf d seq start))) 0xD020 [w (b01 b), w seq]) := by
  have good : (!tookWrite c written 0 && !tookWrite c written 1) = false := by
    obtain took0 | took1 := taken
    · rw [took0]; rfl
    · rw [took1, Bool.and_comm]; rfl
  rw [persisted_cases writing, good]
  rfl

end

/-! ## MAP_RESTORE_DONE (R304) -/

theorem restoreDone_restores {b : Bool} {pd : Panel} {x : Persist} (restoring : c.power.restoring = some b)
    (panel : c.tables.panel = some pd) (newest : newestOf ((completeCopies c).filter (fun x => x.1 = b)) = some (b, x)) :
    restoreDone c =
      (let d := (List.range (valueCount pd)).foldl
        (fun d i => writeCount (writeMap d i (nth x.map i)) i (nth x.counters i)) c
       let d := useParams (updPower d (fun p => { p with seeded := x.seeded, restoring := none })) x.params
       raise d 0xB010 [w (b01 b + 2 * b01 (allSeeded d)), w x.seq]) := by
  unfold restoreDone
  rw [restoring, panel]
  dsimp only
  rw [newest]

end

/-- Settles O36: a drive, a write and a restore have the outcomes of their conditions. -/
theorem drivesAndCopies : Obligations.DrivesAndCopies := by
  refine fun s runs => ⟨fun k r down port => ⟨fun f missing => ?_, fun d meets same other => ?_⟩, fun k up => ?_,
    fun released serves idle => ⟨fun present second newest => ?_, fun missing => ?_⟩, fun b start written writing => ?_,
    fun b pd x restoring panel newest => ?_⟩
  · exact does_runLive rfl runs (driveUp_rejected runs down port missing)
  · exact does_runLive rfl runs (driveUp_comes runs down port meets same other)
  · exact does_runLive rfl runs (driveDown_tells up)
  · subst newest
    exact does_runLive rfl runs ((persistTimer_starts released serves idle).trans (startPersist_writes present))
  · exact does_runLive rfl runs ((persistTimer_starts released serves idle).trans (startPersist_no_drive missing))
  · intro took
    refine ⟨fun first second => does_runLive rfl runs (persisted_fails writing first second), fun taken => ?_⟩
    intro c d seq fresh after bytes new
    have numbered : seq = seqAfter (newestCopy s.chip) := by
      cases newest : newestCopy s.chip with
      | none => exact fresh newest
      | some x => exact after x newest
    have writes := persisted_writes writing taken
    rw [← numbered] at writes
    exact does_runLive rfl runs writes
  · exact does_runLive rfl runs (restoreDone_restores restoring panel newest)

end Sys2Proof.Machine

/-!
PROOF. Tiles complete, return, repeat or fall to L3, and the deadline of a frame (O37).
-/

namespace Sys2Proof.Machine

/-! ## What a tile is doing (R179, R188, R189) -/

theorem onCell_iff (t : Tile) : onCell t = true ↔ t.st = .running ∨ t.st = .stopping := by simp [onCell]

theorem notStarted_iff (t : Tile) : notStarted t = true ↔ t.st = .waiting ∨ t.st = .queued := by simp [notStarted]

/-! ## A tile in hand -/

section
variable {c : Chip} {n : U32} {p : Nat} {t : Tile} (found : tileOf? c n = some (p, t))
include found

section
variable (serves : cellServes c t = true)
include serves

theorem tileDone_completes (executes : t.st = .running) : tileDone n c = schedule (completeTile c p t) := by
  unfold tileDone
  rw [found]
  exact if_pos (by simp [executes, serves])

/-- The tile of a stopped run waits 10 us at the head of its queue. -/
theorem tileStopped_returns (stops : t.st = .stopping) : tileStopped n c =
    schedule (updTile c p t.band t.col (fun t => { t with st := .queued, notBefore := nowNs c + 10000 })) := by
  unfold tileStopped
  rw [found]
  exact if_pos (by simp [stops, serves])

end

section
variable (unstarted : t.st = .waiting ∨ t.st = .queued)
include unstarted

theorem tileAgain_advances (waits : t.notBefore ≠ 0) : tileAgain n c = schedule (advanceTo c t.notBefore) := by
  unfold tileAgain
  rw [found]
  exact if_pos (by simpa [waits] using (notStarted_iff t).mpr unstarted)

theorem startPassed_falls : startPassed n c =
    (let d := advanceTo c (tileStartBy c (port c p) t)
     schedule (fallTile d p t.band t.col (fallCause d p t))) := by
  unfold startPassed
  rw [found]
  exact if_pos ((notStarted_iff t).mpr unstarted)

end

theorem copyDone_repeats {u : Nat} (fallen : t.st = .toRepeat) (serves : (List.range 16).find? (regionServes c) = some u) :
    copyDone n c =
      (let d := copyTile c p t u
       if tileDeadline d p ≤ nowNs d then reportRepeats d p else d) := by
  unfold copyDone
  rw [found, serves]
  exact if_pos fallen

end

/-! ## The deadline of a frame (R189) -/

/-- A tile that is not complete at its frame's deadline falls to L3: one that runs for the deadline itself, one that has
not started for its inputs or for want of a cell. -/
def fallAtDeadline (p : Nat) (c : Chip) (t : Tile) : Chip :=
  if t.st = .running ∨ t.st = .stopping then fallTile c p t.band t.col 3
  else if t.st = .waiting ∨ t.st = .queued then fallTile c p t.band t.col (fallCause c p t)
  else c

theorem deadline_falls {c : Chip} {p : Nat} {tt : Timetable} (timed : (port c p).tt = some tt)
    (presents : (port c p).running = true) : deadline p c =
      schedule (reportRepeats ((port c p).tiles.foldl (fallAtDeadline p) (advanceTo c (deadlineNs (port c p) tt))) p) := by
  have falls : (fun c t =>
      if onCell t then fallTile c p t.band t.col 3
      else if notStarted t then fallTile c p t.band t.col (fallCause c p t) else c) = fallAtDeadline p := by
    funext c t
    simp only [fallAtDeadline, onCell_iff, notStarted_iff]
  unfold deadline
  dsimp only
  rw [timed]
  dsimp only
  rw [presents, if_neg nofun, falls]

/-- Settles O37: each command finds its tile in the state that its rule names, and the deadline goes through the port's
tiles. -/
theorem tilesMeetDeadlines : Obligations.TilesMeetDeadlines := by
  refine ⟨fun s n p t runs found => ⟨fun executes serves => ?_, fun stops serves => ?_, fun unstarted waits => ?_,
    fun unstarted => ?_, fun u fallen serves => ?_⟩, fun s runs => ⟨fun rate => ?_, fun p tt timed presents => ?_⟩⟩
  · exact does_runLive rfl runs (tileDone_completes found serves executes)
  · exact does_runLive rfl runs (tileStopped_returns found serves stops)
  · exact does_runLive rfl runs (tileAgain_advances found unstarted waits)
  · exact does_runLive rfl runs (startPassed_falls found unstarted)
  · exact does_runLive rfl runs (copyDone_repeats found fallen serves)
  · exact does_runLive rfl runs rfl
  · exact does_runLive rfl runs (deadline_falls timed presents)

end Sys2Proof.Machine

/-!
PROOF. Surfaces are allocated and freed, and tables take effect (O47).
-/

namespace Sys2Proof.Machine

/-! ## `surface_alloc` (R198) -/

/-- The operands of a surface that R198 admits. -/
structure SurfaceFields (fmt wd ht stride : Nat) : Prop where
  format : fmt ≤ 4
  width : 0 < wd ∧ wd ≤ 8192
  height : 0 < ht ∧ ht ≤ 8192
  pairs : fmt = 3 → wd % 2 = 0
  blocks : fmt = 4 → wd % 4 = 0 ∧ ht % 4 = 0
  aligned : stride % 256 = 0
  least : leastStride fmt wd ≤ stride

theorem SurfaceFields.admitted {fmt wd ht stride : Nat} (fields : SurfaceFields fmt wd ht stride) :
    ¬(fmt > 4 || wd = 0 || wd > 8192 || ht = 0 || ht > 8192 || (fmt = 3 && wd % 2 = 1) ||
      (fmt = 4 && (wd % 4 ≠ 0 || ht % 4 ≠ 0)) || stride % 256 ≠ 0 || stride < leastStride fmt wd) = true := by
  obtain ⟨format, width, height, pairs, blocks, aligned, least⟩ := fields
  simp only [Bool.or_eq_true, Bool.and_eq_true, decide_eq_true_eq]
  omega

/-- The stride that a message asks for, or the least one. -/
def strideAsked (e : Env) : Nat :=
  if mw e 0x18 = 0 then leastStride (mf e 0x10 19 16) (mf e 0x14 15 0) else mw e 0x18

section
variable {e : Env} {c : Chip}

theorem surfaceAllocBody_allocates {r : MemRegion} {off id : Nat}
    (fields : SurfaceFields (mf e 0x10 19 16) (mf e 0x14 15 0) (mf e 0x14 31 16) (strideAsked e))
    (found : memRegion? c (mf e 0x10 5 0) = some r) (owned : mayAct c (sid e) r.owner = true) (few : c.surfs.length < 256)
    (fits : surfaceFit c r (surfSize (mf e 0x10 19 16) (mf e 0x14 31 16) (strideAsked e)) = some off)
    (unnamed : ((List.range 257).filter (fun id => (surface? c id).isNone)).head? = some id) : surfaceAllocBody e c =
      (let size := surfSize (mf e 0x10 19 16) (mf e 0x14 31 16) (strideAsked e)
       ({ c with surfs := c.surfs ++ [{ id := id, region := r.id, format := mf e 0x10 19 16, w := mf e 0x14 15 0
                                        h := mf e 0x14 31 16, offset := off, stride := strideAsked e, size := size
                                        owner := sid e }] },
        ok [w id, w off, w (strideAsked e), w size])) := by
  unfold strideAsked at fields fits ⊢
  unfold surfaceAllocBody
  dsimp only
  rw [if_neg fields.admitted, found]
  dsimp only
  rw [owned, if_neg nofun, if_neg (Nat.not_le.mpr few), fits, unnamed]

/-! ## `surface_free` (R213) -/

section
variable {x : Surface} (found : surface? c (mf e 0x10 15 0) = some x) (owned : mayAct c (sid e) x.owner = true)
include found owned

theorem surfaceFreeBody_again (deferred : x.freeDeferred = true) : surfaceFreeBody e c = (c, reply stFREE_DEFERRED) := by
  unfold surfaceFreeBody
  dsimp only
  rw [found]
  dsimp only
  rw [owned, if_neg nofun, if_pos deferred]

/-- The first freeing of a surface that nothing is about to use waits only while the surface is shown. -/
theorem surfaceFreeBody_first (first : x.freeDeferred = false) (idle : surfaceBusy c (mf e 0x10 15 0) = false) :
    surfaceFreeBody e c =
      if x.inDisplay then (updSurface c (mf e 0x10 15 0) (fun x => { x with freeDeferred := true }), reply stFREE_DEFERRED)
      else (dropSurface c (mf e 0x10 15 0), ok []) := by
  unfold surfaceFreeBody
  dsimp only
  rw [found]
  dsimp only
  rw [owned, if_neg nofun, first, if_neg nofun, idle, if_neg nofun]

end

end

/-! ## `table_load` (R162 to R166) -/

/-- The data of a table reach the chip `d`. -/
structure TableRead (e : Env) (c d : Chip) (b : List Byte) : Prop where
  kind : mf e 0x10 7 0 ≤ 6
  index : indexOk (mf e 0x10 7 0) (mf e 0x10 15 8) = true
  valid : bufKindOk e (bufAt e 0x14) = true
  sound : bufFault c (sid e) false (bufAt e 0x14) = none
  read : bufRead c e.inline (bufAt e 0x14) 0 (bufAt e 0x14).len = (d, some b)

/-- Data that are read take effect with the next generation number, or change nothing. -/
theorem tableLoadBody_takes {e : Env} {c d x : Chip} {b : List Byte} {st : Nat} (reads : TableRead e c d b)
    (taken : takeTable d (mf e 0x10 7 0) (mf e 0x10 15 8) (w32 (c.tableGen + 1)) b = (x, st)) : tableLoadBody e c =
      (let gen := w32 (c.tableGen + 1)
       if st ≠ stOK then reject d st else (schedule { x with tableGen := gen }, ok [w gen])) := by
  obtain ⟨kind, index, valid, sound, read⟩ := reads
  unfold tableLoadBody
  dsimp only
  rw [index, valid, if_neg (by simpa using kind), sound]
  dsimp only
  rw [read]
  dsimp only
  rw [taken]

/-! ## What each KIND does (R162 to R166, R202, R299 to R301, R406) -/

section
variable {c : Chip} {gen i : Nat} {b : List Byte}

theorem loadOffsets_newest {l : List (Int × Int)} (parsed : parseOffsets c.tables.panel b = some l) :
    loadOffsets c gen b = (setTables c 1 gen { c.tables with offsets := l }, stOK) := by
  unfold loadOffsets
  rw [parsed]

theorem loadOffsets_bad (bad : parseOffsets c.tables.panel b = none) : loadOffsets c gen b = (c, stINVALID_FIELD) := by
  unfold loadOffsets
  rw [bad]

theorem loadColour_newest {t : Colour} (parsed : parseColour b = some t) :
    loadColour c gen b = (setTables c 2 gen { c.tables with colour := some t }, stOK) := by
  unfold loadColour
  rw [parsed]

theorem loadColour_bad (bad : parseColour b = none) : loadColour c gen b = (c, stINVALID_FIELD) := by
  unfold loadColour
  rw [bad]

theorem loadCoefs_newest {x : Nat × List Int} (parsed : parseCoefs b = some x) (suits : tapsConflict c i x.1 = false) :
    loadCoefs c gen i b =
      (setTables c (3 + i) gen { c.tables with coefs := (i, x) :: c.tables.coefs.filter (fun y => y.1 ≠ i) }, stOK) := by
  unfold loadCoefs
  rw [parsed]
  exact if_neg (by rw [suits]; nofun)

theorem loadParams_inForce {d : DriveParams} (parsed : parseParams b = some d) : loadParams c b = (useParams c d, stOK) := by
  unfold loadParams
  rw [parsed]

/-- A description of the same extent keeps the direction offsets, and comes in force where every timetable fits it. -/
theorem loadPanel_refits {pd old : Panel} {d : Chip} (parsed : parsePanel c b = some pd) (before : c.tables.panel = some old)
    (width : old.w = pd.w) (height : old.h = pd.h) (dirs : old.dirs = pd.dirs)
    (fits : refitPorts (setTables c 0 gen { c.tables with panel := some pd }) = some d) :
    loadPanel c gen b = (lookForCopy d pd, stOK) := by
  unfold loadPanel
  rw [parsed, before]
  dsimp only
  rw [if_pos (by simp [width, height, dirs]), fits]

theorem loadCalSet_replaces {t : Int} {l : List (Nat × Int)} (parsed : parseCalSet b = some (t, l)) (filled : l ≠ [])
    (unshared : c.cal.sets.any (fun x => x.1 ≠ i && x.2.1 = t) = false) : loadCalSet c i b =
      (let known := l.filter (fun x => (trimItems c).contains x.1)
       (raise { c with cal := { c.cal with sets := c.cal.sets.filter (fun x => x.1 ≠ i) ++ [(i, t, known)] } }
          0x9004 [w (i + (BitVec.ofInt 16 t).toNat * 65536), w (known.length + (l.length - known.length) * 256)], stOK)) := by
  unfold loadCalSet
  rw [parsed]
  dsimp only
  rw [unshared, if_neg nofun, if_neg filled, decide_eq_false filled]
  rfl

end

/-- Settles O47: each message is its body under the checks of its rule, and each KIND is taken by the function of its table. -/
theorem surfacesAndTables : Obligations.SurfacesAndTables := by
  refine ⟨⟨fun s via m k r admitted => ?_, fun s via m k x admitted => ?_⟩, fun s via m k c' b admitted => ?_,
    fun c gen i b => ⟨fun l parsed => loadOffsets_newest parsed, fun t parsed => loadColour_newest parsed,
      fun x parsed suits => loadCoefs_newest parsed suits, fun d parsed => loadParams_inForce parsed,
      fun pd old d parsed before width height dirs fits => loadPanel_refits parsed before width height dirs fits,
      fun t l parsed filled unshared => loadCalSet_replaces parsed filled unshared, fun k least most offsets colour => ?_⟩⟩
  · intro e c fmt wd ht stride size off id format wide width high height pairs blocks aligned least found owned few fits unnamed
    have fields : SurfaceFields fmt wd ht stride := ⟨format, ⟨wide, width⟩, ⟨high, height⟩, pairs, blocks, aligned, least⟩
    exact answered_cci rfl admitted rfl (surfaceAllocBody_allocates fields found owned few fits unnamed)
  · intro c id found owned
    refine ⟨fun deferred => answered_cci rfl admitted rfl (surfaceFreeBody_again found owned deferred), fun first idle => ?_⟩
    have frees := surfaceFreeBody_first found owned first idle
    exact ⟨fun hidden => answered_cci rfl admitted rfl (frees.trans (if_neg (by rw [hidden]; nofun))),
      fun shown => answered_cci rfl admitted rfl (frees.trans (if_pos shown))⟩
  · intro e c kind i buf gen range index valid sound read
    have reads : TableRead e c c' b := ⟨range, index, valid, sound, read⟩
    exact ⟨fun d passes => answered_cci rfl admitted rfl ((tableLoadBody_takes reads passes).trans (if_neg (not_not.mpr rfl))),
      fun d st fails bad => answered_cci rfl admitted rfl ((tableLoadBody_takes reads fails).trans (if_pos bad))⟩
  · obtain rfl | rfl : k = 1 ∨ k = 2 := by omega
    · exact loadOffsets_bad offsets
    · exact loadColour_bad colour

end Sys2Proof.Machine

/-!
PROOF. `timetable_set` gives, replaces and ends the timetable of a port (O38).
-/

namespace Sys2Proof.Machine

/-! ## Who owns a port (R80) -/

section
variable {c : Chip} {p : Nat}

theorem portOwner_timed {t : Timetable} (timed : (port c p).tt = some t) : portOwner c p = t.owner := by
  unfold portOwner
  rw [timed]

/-- Every session may act on a port without a timetable. -/
theorem mayAct_untimed (untimed : (port c p).tt = none) (sess : Nat) : mayAct c sess (portOwner c p) = true := by
  unfold portOwner
  rw [untimed]
  rfl

end

/-! ## `timetable_set` (R220, R221, R238) -/

/-- The timetable of a message is one that port `mf e 0x10 1 0` can take: Table 8-1, the lanes of the part, R221. -/
structure TimetableFits (e : Env) (c : Chip) (pd : Panel) : Prop where
  panel : c.tables.panel = some pd
  grouped : (timetableOf e).laneMask ≠ 0
  fields : timetableOk (timetableOf e) pd.h = true
  lanes : ∀ l ∈ lanesOf (timetableOf e).laneMask, l < laneCount c
  feasible : feasible c (mf e 0x10 1 0) (timetableOf e) = true
  apart : overlapsOthers c (mf e 0x10 1 0) (timetableOf e) = false

section
variable {e : Env} {c : Chip}

section
variable {pd : Panel} (fits : TimetableFits e c pd)
include fits

theorem TimetableFits.lanes_known :
    ¬((lanesOf (timetableOf e).laneMask).any (fun l => decide (laneCount c ≤ l))) = true := by
  simpa using fits.lanes

theorem timetableSetBody_first {d : Chip} (untimed : (port c (mf e 0x10 1 0)).tt = none)
    (room : reserveBuffers c (mf e 0x10 1 0) (timetableOf e) = some d) : timetableSetBody e c =
      (let x := firstTimetable d (mf e 0x10 1 0) (timetableOf e) (tagOf e)
       (schedule x, ok [w ((port x (mf e 0x10 1 0)).cur + 1)])) := by
  unfold timetableSetBody
  dsimp only
  rw [if_neg fits.grouped, fits.panel]
  dsimp only
  rw [fits.fields, if_neg nofun, if_neg fits.lanes_known, mayAct_untimed untimed, if_neg nofun, untimed]
  dsimp only
  rw [room]
  dsimp only
  rw [fits.feasible, if_neg nofun, fits.apart, if_neg nofun]

/-- The timetable that follows waits in its buffers; where it changes the geometry, the frame whose window is open is made
anew. -/
theorem timetableSetBody_replaces {old : Timetable} {d : Chip} (timed : (port c (mf e 0x10 1 0)).tt = some old)
    (owned : mayAct c (sid e) old.owner = true)
    (room : (if sameGeometry old (timetableOf e) then some (releaseArea c 1 (mf e 0x10 1 0 + 4))
      else reserveBuffers (releaseArea c 1 (mf e 0x10 1 0 + 4)) (mf e 0x10 1 0 + 4) (timetableOf e)) = some d) :
    timetableSetBody e c =
      (let p := mf e 0x10 1 0
       let end_ := endInstant (port c p) old
       let x := updPort d p (fun y => { y with pendingTt := some (some (timetableOf e), end_, tagOf e) })
       (schedule (if (port c p).windowOpen && !sameGeometry old (timetableOf e) then renewTiles x p (fun _ => true) else x),
        ok [w (boundaryAt (timetableOf e) end_)])) := by
  unfold timetableSetBody
  dsimp only
  rw [if_neg fits.grouped, fits.panel]
  dsimp only
  rw [fits.fields, if_neg nofun, if_neg fits.lanes_known, portOwner_timed timed, owned, if_neg nofun, timed]
  dsimp only
  rw [room]
  dsimp only
  rw [fits.feasible, if_neg nofun, fits.apart, if_neg nofun]

end

section
variable (ungrouped : (timetableOf e).laneMask = 0)
include ungrouped

theorem timetableSetBody_ends {old : Timetable} (timed : (port c (mf e 0x10 1 0)).tt = some old)
    (owned : mayAct c (sid e) old.owner = true) : timetableSetBody e c =
      (let p := mf e 0x10 1 0
       (updPort (releaseArea c 1 (p + 4)) p (fun y =>
          { y with pendingTt := some (none, endInstant (port c p) old, tagOf e) }), ok [w (endCount (port c p))])) := by
  unfold timetableSetBody
  dsimp only
  rw [if_pos ungrouped, timed]
  dsimp only
  rw [portOwner_timed timed, owned, if_neg nofun]

theorem timetableSetBody_nothing_to_end (untimed : (port c (mf e 0x10 1 0)).tt = none) :
    timetableSetBody e c = reject c stUNAVAILABLE := by
  unfold timetableSetBody
  dsimp only
  rw [if_pos ungrouped, untimed]

end

end

/-- Settles O38: the message is its body, by whether it names lanes and whether the port has a timetable. -/
theorem timetablesAreSet : Obligations.TimetablesAreSet := by
  intro s via m k admitted e c p t x
  refine ⟨fun pd d panel untimed grouped fields lanes room feasible apart => ?_,
    fun pd old d panel timed grouped fields lanes owned room feasible apart => ?_,
    fun old ungrouped timed owned => ?_, fun ungrouped untimed => ?_⟩
  · have fits : TimetableFits e c pd := ⟨panel, grouped, fields, lanes, feasible, apart⟩
    exact answered_cci rfl admitted rfl (timetableSetBody_first fits untimed room)
  · have fits : TimetableFits e c pd := ⟨panel, grouped, fields, lanes, feasible, apart⟩
    exact answered_cci rfl admitted rfl (timetableSetBody_replaces fits timed owned room)
  · exact answered_cci rfl admitted rfl (timetableSetBody_ends ungrouped timed owned)
  · exact answered_cci rfl admitted rfl (timetableSetBody_nothing_to_end ungrouped untimed)

end Sys2Proof.Machine

/-!
PROOF. `frame_commit` and `crc_window_set` make their changes pending (O39).
-/

namespace Sys2Proof.Machine

/-! ## `frame_commit` (R231, R235 to R237) -/

/-- The FRAME_ID that a message commits. -/
def frameIdAsked (e : Env) : Nat := fld (mw e 0x14) 31 24 * 2 ^ 24

/-- The ports of a message's mask. -/
def portsAsked (e : Env) : List Nat := bitsOf (mf e 0x10 3 0) 4

/-- The commit that a message makes, with `r` its mask reference. -/
def commitOf (e : Env) (c : Chip) (r : Nat) : Commit :=
  { id := w (frameIdAsked e), tag := tagOf e, owner := sid e, ref := r, refEnters := (enterFrame (port c r) (mw e 0x18)).1
    target := mw e 0x18 }

/-- COMMIT_LATE, told and counted on the mask reference `r` (R235). -/
def commitMissed (e : Env) (r k : Nat) (d : Chip) : Chip :=
  raiseOwn (updPort d r (fun x => { x with commitLate := x.commitLate + 1 })) (sid e) 0x5003 [w r, w (mw e 0x18), w k, tagOf e]

/-- The session may commit the content that a message names on every port of its mask, for the frame that it names. -/
structure CommitFits (e : Env) (c : Chip) (r : Nat) : Prop where
  id : frameIdOk (frameIdAsked e) = true
  source : fld (frameIdAsked e) 31 28 = 1 ∨ (stream c (fld (frameIdAsked e) 27 24)).st ≠ .unbound
  ports : ∀ q ∈ portsAsked e, mayAct c (sid e) (portOwner c q) = true ∧
    mayAct c (sid e) (commitOwner (port c q)) = true ∧ (port c q).tt ≠ none
  near : mw e 0x18 = 0 ∨ seqDiff (mw e 0x18) (dueFrame (port c r)) ≤ 2 ^ 24

section
variable {e : Env} {c : Chip} {r : Nat} (fits : CommitFits e c r)
include fits

theorem CommitFits.bound : ¬(decide (fld (frameIdAsked e) 31 28 = 0) &&
    decide ((stream c (fld (frameIdAsked e) 27 24)).st = .unbound)) = true := by
  obtain synthetic | bound := fits.source
  · simp [synthetic]
  · simp [bound]

theorem CommitFits.owned : ¬((portsAsked e).any (fun q =>
    !(mayAct c (sid e) (portOwner c q) && mayAct c (sid e) (commitOwner (port c q))))) = true := by
  simpa using fun q hq => And.intro (fits.ports q hq).1 (fits.ports q hq).2.1

theorem CommitFits.timed : ¬((portsAsked e).any (fun q => (port c q).tt.isNone)) = true := by
  simpa using fun q hq => (fits.ports q hq).2.2

theorem CommitFits.not_far : ¬(decide (mw e 0x18 ≠ 0) && (port c r).tt.isSome &&
    decide (2 ^ 24 < seqDiff (mw e 0x18) (dueFrame (port c r)))) = true := by
  obtain next | near := fits.near
  · simp [next]
  · simpa using fun _ _ => near

section
variable {more : List Nat} {rt : Timetable} (mask : portsAsked e = r :: more) (timed : (port c r).tt = some rt)
include mask timed

theorem frameCommitBody_commits : frameCommitBody e c =
    (let f := enterFrame (port c r) (mw e 0x18)
     let d := commitAll (commitOf e c r) (portsAsked e) c
     (schedule (if f.2 then commitMissed e r f.1 d else d), ok [w f.1, w (b01 f.2)])) := by
  have bound := fits.bound
  have owned := fits.owned
  have all := fits.timed
  unfold frameCommitBody commitMissed commitOf
  rw [← portsAsked, ← frameIdAsked]
  dsimp only
  rw [mask] at owned all ⊢
  dsimp only
  rw [fits.id, if_neg nofun, if_neg bound, if_neg owned, if_neg fits.not_far, if_neg all, timed]
  cases (enterFrame (port c r) (mw e 0x18)).2 <;> rfl

theorem frameCommitBody_in_time (early : (enterFrame (port c r) (mw e 0x18)).2 = false) : frameCommitBody e c =
    (schedule (commitAll (commitOf e c r) (portsAsked e) c), ok [w (enterFrame (port c r) (mw e 0x18)).1, 0]) := by
  rw [frameCommitBody_commits fits mask timed]
  dsimp only
  rw [early]
  rfl

theorem frameCommitBody_late (late : (enterFrame (port c r) (mw e 0x18)).2 = true) : frameCommitBody e c =
    (let k := (enterFrame (port c r) (mw e 0x18)).1
     (schedule (commitMissed e r k (commitAll (commitOf e c r) (portsAsked e) c)), ok [w k, 1])) := by
  rw [frameCommitBody_commits fits mask timed]
  dsimp only
  rw [late]
  rfl

end

end

/-! ## `crc_window_set` (R240, R243) -/

/-- The settings that a message carries for a CRC window. -/
def windowAsked (e : Env) : CrcWin :=
  { enabled := bit e 0x10 12, x0 := mf e 0x14 15 0, y0 := mf e 0x14 31 16, w := mf e 0x18 15 0, h := mf e 0x18 31 16
    dirFirst := mf e 0x1C 7 0, dirCount := mf e 0x1C 15 8, expected := w (mw e 0x20), expectFrame := mw e 0x24
    owner := sid e }

/-- The settings of a message wait for the close of a departure window (R243). -/
def windowPends (e : Env) (c : Chip) : Chip :=
  updPort c (mf e 0x10 1 0) (fun q => { q with windowsPending := put q.windowsPending (mf e 0x10 11 8) (windowAsked e) })

/-- The newest settings of a CRC window of a port, in force or not yet. -/
def newestWindow (x : Port) (n : Nat) : CrcWin := look x.windowsPending n (look x.windowsDue n (nth x.windows n))

/-- A window is not empty, and lies within the panel and the rows of the timetable. -/
structure WindowWithin (v : CrcWin) (pd : Panel) (t : Timetable) : Prop where
  columns : 0 < v.w ∧ v.x0 + v.w ≤ pd.w
  rows : 0 < v.h
  first : t.firstRow ≤ v.y0
  last : v.y0 + v.h ≤ t.firstRow + t.rowCount
  dirs : 0 < v.dirCount ∧ v.dirFirst + v.dirCount ≤ pd.dirs

section
variable {v : CrcWin} {pd : Panel} {t : Timetable} (within : WindowWithin v pd t)
include within

theorem WindowWithin.shape (on : Bool) : ¬(on && (decide (v.w = 0) || decide (v.h = 0) || decide (v.dirCount = 0) ||
    (decide (pd.w < v.x0 + v.w) || decide (pd.dirs < v.dirFirst + v.dirCount)))) = true := by
  obtain ⟨columns, rows, -, -, dirs⟩ := within
  simp only [Bool.and_eq_true, Bool.or_eq_true, decide_eq_true_eq]
  omega

theorem WindowWithin.shown (on : Bool) :
    ¬(on && (decide (v.y0 < t.firstRow) || decide (t.firstRow + t.rowCount < v.y0 + v.h))) = true := by
  obtain ⟨-, -, first, last, -⟩ := within
  simp only [Bool.and_eq_true, Bool.or_eq_true, decide_eq_true_eq]
  omega

end

section
variable {e : Env} {c : Chip} {t : Timetable} (timed : (port c (mf e 0x10 1 0)).tt = some t)
  (owned : mayAct c (sid e) (newestWindow (port c (mf e 0x10 1 0)) (mf e 0x10 11 8)).owner = true)
include timed owned

/-- Settings that take a window out of use need not lie anywhere. -/
theorem crcWindowSetBody_disables (off : (windowAsked e).enabled = false) :
    crcWindowSetBody e c = (windowPends e c, ok []) := by
  have unset : bit e 0x10 12 = false := off
  unfold crcWindowSetBody windowPends windowAsked
  dsimp only
  rw [← newestWindow, unset, Bool.false_and, if_neg nofun, owned, if_neg nofun, timed]
  dsimp only
  rw [Bool.false_and, if_neg nofun]

theorem crcWindowSetBody_sets {pd : Panel} (panel : c.tables.panel = some pd) (within : WindowWithin (windowAsked e) pd t) :
    crcWindowSetBody e c = (windowPends e c, ok []) := by
  unfold crcWindowSetBody
  dsimp only
  rw [← newestWindow, owned, panel, timed]
  exact (if_neg (within.shape _)).trans ((if_neg nofun).trans (if_neg (within.shown _)))

end

/-- Settles O39: each message is its body under the checks of its rule, which for a commit counts it late or not. -/
theorem commitsAndWindows : Obligations.CommitsAndWindows := by
  refine ⟨fun s via m k r more rt admitted => ?_, fun s via m k t admitted => ?_⟩
  · intro e c id ports target f d mask known source owned near timed
    have fits : CommitFits e c r := ⟨known, source, owned, near⟩
    refine ⟨fun early => ?_, fun late => ?_⟩
    · exact answered_cci rfl admitted rfl (frameCommitBody_in_time fits mask timed early)
    · exact answered_cci rfl admitted rfl (frameCommitBody_late fits mask timed late)
  · intro e c p n old v timed owned within
    obtain off | ⟨pd, panel, wide, right, high, first, last, deep, dirs⟩ := within
    · exact answered_cci rfl admitted rfl (crcWindowSetBody_disables timed owned off)
    · have within : WindowWithin v pd t := ⟨⟨wide, right⟩, high, first, last, deep, dirs⟩
      exact answered_cci rfl admitted rfl (crcWindowSetBody_sets timed owned panel within)

end Sys2Proof.Machine

/-!
PROOF. The frame boundary, the lines of a frame and the close of its departure window (O40).
-/

namespace Sys2Proof.Machine

section
variable {c : Chip} {p : Nat} {t : Timetable} (timed : (port c p).tt = some t)
include timed

/-! ## The frame boundary (R226, R238) -/

/-- The count of the next boundary of a port. -/
def nextCount (x : Port) : Nat := x.cur + frameStep x

/-- The chip when the next boundary of port `p` is reached. -/
def atBoundary (c : Chip) (p : Nat) (t : Timetable) : Chip := advanceTo c (boundaryNs t (nextCount (port c p)))

theorem frameBoundary_unchanged (unchanged : (port c p).pendingTt = none) :
    frameBoundary p c = runBoundary (atBoundary c p t) p (nextCount (port c p)) t := by
  unfold frameBoundary
  dsimp only
  rw [timed, unchanged]
  rfl

section
variable {n : Option Timetable} {e : Nat} {tag : U32}

theorem frameBoundary_before_change (change : (port c p).pendingTt = some (n, e, tag))
    (before : boundaryNs t (nextCount (port c p)) < e) :
    frameBoundary p c = runBoundary (atBoundary c p t) p (nextCount (port c p)) t := by
  unfold frameBoundary
  dsimp only
  rw [timed, change]
  exact if_pos before

section
variable (reached : e ≤ boundaryNs t (nextCount (port c p)))
include reached

theorem frameBoundary_deletes (change : (port c p).pendingTt = some (none, e, tag)) :
    frameBoundary p c = schedule (deleteTimetable (atBoundary c p t) p t e tag) := by
  unfold frameBoundary
  dsimp only
  rw [timed, change]
  exact if_neg (Nat.not_lt.mpr reached)

/-- The timetable that follows has its first boundary there, or later. -/
theorem frameBoundary_replaces {new : Timetable} (change : (port c p).pendingTt = some (some new, e, tag)) :
    frameBoundary p c =
      (let d := replaceTimetable (atBoundary c p t) p t new e tag
       let k := (port d p).cur + 1
       if boundaryNs new k ≤ nowNs d then runBoundary d p k new else schedule d) := by
  unfold frameBoundary
  dsimp only
  rw [timed, change]
  exact if_neg (Nat.not_lt.mpr reached)

end

end

/-! ## The line instant (R224) -/

/-- The port goes on to its next line, and the driver commands that have waited go out. -/
def lineOver (c : Chip) (p : Nat) : Chip := flushCommands (updPort c p (fun x => { x with line := x.line + 1 })) p

section
variable (presents : (port c p).running = true) (steady : (port c p).rephase = false)
include presents steady

theorem nextLine_presents (left : (port c p).line < t.active + t.blank) : nextLine p c =
    (let i := (port c p).line
     let d := advanceTo c (lineNs (port c p) t i)
     let d := lineOver (if i < t.active then activeLine d p i t else d) p
     let d := if i = t.active then sleepGroup (takeTrims d p) p t else d
     if i + 1 = t.active then startPauses d else d) := by
  unfold nextLine
  dsimp only
  rw [timed]
  exact if_neg (by simp [presents, steady, left])

/-- An active line sends its row, and the last one lets the retraining pauses start. -/
theorem nextLine_active (active : (port c p).line < t.active) : nextLine p c =
    (let i := (port c p).line
     let d := lineOver (activeLine (advanceTo c (lineNs (port c p) t i)) p i t) p
     if i + 1 = t.active then startPauses d else d) := by
  rw [nextLine_presents timed presents steady (Nat.lt_add_right _ active)]
  dsimp only
  rw [if_pos active, if_neg (Nat.ne_of_lt active)]

section
variable (left : (port c p).line < t.active + t.blank)
include left

theorem nextLine_first_blank (first : (port c p).line = t.active) : nextLine p c =
    sleepGroup (takeTrims (lineOver (advanceTo c (lineNs (port c p) t (port c p).line)) p) p) p t := by
  rw [nextLine_presents timed presents steady left]
  dsimp only
  rw [if_neg (by omega), if_pos first, if_neg (by omega)]

theorem nextLine_blank (blank : t.active < (port c p).line) : nextLine p c =
    lineOver (advanceTo c (lineNs (port c p) t (port c p).line)) p := by
  rw [nextLine_presents timed presents steady left]
  dsimp only
  rw [if_neg (by omega), if_neg (by omega), if_neg (by omega)]

end

end

/-! ## The close of the departure window (R234) -/

/-- The commit and the layer changes that frame `f` of port `p` uses are in force. -/
def changesInForce (c : Chip) (p f : Nat) : Chip :=
  if referencePort (commitInForce c p f) = some p then settleLayers (commitInForce c p f) f else commitInForce c p f

theorem windowClose_settles (opened : (port c p).windowOpen = true) : windowClose p c =
    (let f := dueCount (port c p)
     let d := changesInForce (advanceTo c (windowOf (port c p) t (nextCount (port c p)))) p f
     let uses := layersFor d (port d p)
     let x := tablesInForce ((uses.map (·.surf)).foldl showSurface d) p f
     schedule (updPort (windowsInForce x p (w32 f)) p (fun x => { x with windowOpen := false, layers := uses }))) := by
  unfold windowClose
  dsimp only
  rw [timed, opened]
  rfl

end

/-- Settles O40: each command is its operation under the conditions of its rule. -/
theorem portsPresentFrames : Obligations.PortsPresentFrames := by
  intro s p t runs timed x k at_
  refine ⟨fun unchanged => ?_, fun n e tag change before => ?_, fun e tag change reached => ?_,
    fun n e tag change reached => ?_, fun presents steady left => ?_, fun opened => ?_⟩
  · exact does_runLive rfl runs (frameBoundary_unchanged timed unchanged)
  · exact does_runLive rfl runs (frameBoundary_before_change timed change before)
  · exact does_runLive rfl runs (frameBoundary_deletes timed reached change)
  · have replaces := frameBoundary_replaces timed reached change
    exact ⟨fun later => does_runLive rfl runs (replaces.trans (if_neg (Nat.not_le.mpr later))),
      fun begun => does_runLive rfl runs (replaces.trans (if_pos begun))⟩
  · intro c next
    refine ⟨fun inner => ?_, fun last => ?_, fun first => ?_, fun blank => ?_⟩
    · have sends := nextLine_active timed presents steady (Nat.lt_of_succ_lt inner)
      exact does_runLive rfl runs (sends.trans (if_neg (Nat.ne_of_lt inner)))
    · have sends := nextLine_active timed presents steady (Nat.lt_of_succ_le (Nat.le_of_eq last))
      exact does_runLive rfl runs (sends.trans (if_pos last))
    · exact does_runLive rfl runs (nextLine_first_blank timed presents steady left first)
    · exact does_runLive rfl runs (nextLine_blank timed presents steady left blank)
  · exact does_runLive rfl runs (windowClose_settles timed opened)

end Sys2Proof.Machine

/-!
PROOF. One tick of the clock: T grows by INCREMENT, and the lanes' count by the UI of a tick (O20).
-/

namespace Sys2Proof.Machine

/-! ## One tick (R357, R358) -/

/-- T with its fraction, in units of 2⁻⁴⁴ ns. -/
def Time.value (t : Time) : Nat := (t.sec.toNat * 1000000000 + t.ns.toNat) * 2 ^ 44 + t.frac.toNat

theorem addIncrement_ns (t : Time) : (addIncrement t).ns.toNat =
    (t.ns.toNat * 2 ^ 44 + t.frac.toNat + t.inc.toNat) / 2 ^ 44 % 1000000000 := by
  unfold addIncrement
  exact (BitVec.toNat_ofNat _ _).trans (Nat.mod_eq_of_lt (by omega))

theorem addIncrement_frac (t : Time) : (addIncrement t).frac.toNat =
    (t.ns.toNat * 2 ^ 44 + t.frac.toNat + t.inc.toNat) % 2 ^ 44 := by
  unfold addIncrement
  exact BitVec.toNat_ofNat _ _

/-- Before its last second the counter of seconds does not wrap. -/
theorem addIncrement_sec {t : Time} (last : t.sec.toNat < 2 ^ 48 - 1) : (addIncrement t).sec.toNat =
    t.sec.toNat + (if 1000000000 ≤ (t.ns.toNat * 2 ^ 44 + t.frac.toNat + t.inc.toNat) / 2 ^ 44 then 1 else 0) := by
  unfold addIncrement
  dsimp only
  split
  · exact (BitVec.toNat_add _ _).trans (Nat.mod_eq_of_lt (Nat.add_lt_of_lt_sub last))
  · rfl

/-- INCREMENT is less than 16 ns, so one tick carries at most one second. -/
theorem addIncrement_value {t : Time} (within : t.ns.toNat < 1000000000) (last : t.sec.toNat < 2 ^ 48 - 1) :
    (addIncrement t).value = t.value + t.inc.toNat := by
  have inc := t.inc.isLt
  have frac := t.frac.isLt
  unfold Time.value
  rw [addIncrement_ns, addIncrement_frac, addIncrement_sec last]
  split <;> omega

theorem addIncrement_ns_lt (t : Time) : (addIncrement t).ns.toNat < 1000000000 := by
  rw [addIncrement_ns]
  exact Nat.mod_lt _ (by decide)

theorem advanceClock_runs {c : Chip} (runs : c.time.runs = true) : advanceClock c =
    { c with time := addIncrement c.time, laneUi := (c.laneUi + 450) % (65536 * superframeUi) } := if_pos runs

theorem advanceClock_holds {c : Chip} (holds : c.time.runs = false) : advanceClock c = c :=
  if_neg (Bool.eq_false_iff.mp holds)

/-- The loss reports wait for neither T nor the lanes' count. -/
theorem lossWaits_retimed (c : Chip) (t : Time) (u : Nat) : lossWaits { c with time := t, laneUi := u } = lossWaits c := rfl

theorem advanceClock_lossWaits (c : Chip) : lossWaits (advanceClock c) = lossWaits c := by
  cases runs : c.time.runs with
  | false => rw [advanceClock_holds runs]
  | true => rw [advanceClock_runs runs, lossWaits_retimed]

/-- With an empty queue and no loss held back, a step is the tick of the clock alone. -/
theorem step_ticks {s : State} (idle : s.pending = []) (quiet : lossWaits s.chip = false) :
    step s = .next { s with chip := advanceClock s.chip } := by
  unfold step clockTick
  rw [idle]
  exact congrArg _ (if_neg (by rw [advanceClock_lossWaits, quiet]; exact Bool.false_ne_true))

/-- Settles O20: a running clock takes the value of `addIncrement`, and one that holds is left alone. -/
theorem clockTickAddsIncrement : Obligations.ClockTickAddsIncrement := by
  intro s idle quiet within last value
  have ticks := step_ticks idle quiet
  cases runs : s.chip.time.runs with
  | false =>
    rw [advanceClock_holds runs] at ticks
    exact ⟨s.chip.time, s.chip.laneUi, ticks, rfl, within, nofun, fun _ => ⟨rfl, rfl⟩⟩
  | true =>
    rw [advanceClock_runs runs] at ticks
    exact ⟨addIncrement s.chip.time, _, ticks, rfl, addIncrement_ns_lt _,
      fun _ => ⟨addIncrement_value within last, rfl⟩, nofun⟩

end Sys2Proof.Machine

/-!
PROOF. What the panel lanes carry: the scrambler, the superframe and its codewords, the packets of a row, and stripes (O43).
-/

namespace Sys2Proof.Machine

/-! ## Lists made entry by entry -/

/-- What comes before entry k of a concatenation may be dropped, and entry k then stands first. -/
theorem drop_flatMap_range {α : Type} (f : Nat → List α) {k n : Nat} (below : k < n) :
    ∃ rest, ((List.range n).flatMap f).drop ((List.range k).flatMap f).length = f k ++ rest := by
  obtain ⟨m, rfl⟩ := Nat.exists_eq_add_of_lt below
  refine ⟨((List.range m).map (k + 1 + ·)).flatMap f, ?_⟩
  rw [show k + m + 1 = k + 1 + m by omega, List.range_add, List.range_succ, List.append_assoc, List.flatMap_append,
    List.drop_left, List.flatMap_append, List.flatMap_singleton]

/-- The length of a concatenation of entries of one length. -/
theorem length_flatMap_even {α β : Type} {f : β → List α} {l : List β} {m : Nat} (even : ∀ a ∈ l, (f a).length = m) :
    (l.flatMap f).length = m * l.length := by
  rw [List.length_flatMap, List.map_congr_left even, List.map_const', List.sum_replicate, smul_eq_mul, Nat.mul_comm]

/-- Entry k of a concatenation, where the entries before it have one length. -/
theorem take_drop_flatMap_range {α : Type} {f : Nat → List α} {m k n : Nat} (below : k < n)
    (even : ∀ i < k, (f i).length = m) : (((List.range n).flatMap f).drop (m * k)).take (f k).length = f k := by
  obtain ⟨rest, drops⟩ := drop_flatMap_range f below
  rw [length_flatMap_even (fun i member => even i (List.mem_range.mp member)), List.length_range] at drops
  rw [drops, List.take_left]

/-- Pieces of m entries, one after another, are the list up to the end of the last. -/
theorem flatMap_pieces {α : Type} (l : List α) (m n : Nat) :
    (List.range n).flatMap (fun k => (l.drop (m * k)).take m) = l.take (m * n) := by
  induction n with
  | zero => rfl
  | succ n ih => rw [List.range_succ, List.flatMap_append, ih, List.flatMap_singleton, Nat.mul_succ, List.take_add]

theorem nth_map_range {α : Type} [Inhabited α] (f : Nat → α) {k n : Nat} (below : k < n) :
    nth ((List.range n).map f) k = f k := by
  simp [nth, List.getD_eq_getElem?_getD, below]

/-! ## The scrambler (R248, R251) -/

/-- Scrambling twice from one state gives the bits back, and advances the state alike. -/
theorem scrambleBits_twice (b : List Bool) (s : Nat) : scrambleBits (scrambleBits b s).1 s = (b, (scrambleBits b s).2) := by
  induction b generalizing s with
  | nil => rfl
  | cons x b ih => simp only [scrambleBits, ih, Bool.xor_assoc, Bool.xor_self, Bool.xor_false]

theorem scrambleBits_length (b : List Bool) (s : Nat) : (scrambleBits b s).1.length = b.length := by
  induction b generalizing s with
  | nil => rfl
  | cons x b ih => simp only [scrambleBits, List.length_cons, ih]

/-! ## The message bits of a superframe (R249, R251) -/

theorem beBytes_length (n k : Nat) : (beBytes n k).length = k := by simp [beBytes, leBytes]

theorem commaBlock_length (laneId stripe sf : Nat) : (commaBlock laneId stripe sf).length = 16 := by
  simp only [commaBlock, List.length_append, beBytes_length]

theorem byteBits_flatMap_length (l : List Byte) : (l.flatMap byteBits).length = 8 * l.length :=
  length_flatMap_even (fun _ _ => by simp [byteBits])

/-- A block of 128 bits and its header take 130 bits of a slot. -/
theorem scrambledSlots_length {slots : List (Bool × List Byte)} (blocks : ∀ x ∈ slots, x.2.length = 16) (s : Nat) :
    (scrambledSlots slots s).length = 130 * slots.length := by
  induction slots generalizing s with
  | nil => rfl
  | cons x slots ih =>
    have header : (if x.1 then controlHeader else dataHeader).length = 2 := by split <;> rfl
    have block : x.2.length = 16 := blocks x List.mem_cons_self
    simp only [scrambledSlots, List.length_append, header, scrambleBits_length, byteBits_flatMap_length, block,
      ih (fun y member => blocks y (List.mem_cons_of_mem _ member)), List.length_cons]
    omega

theorem superframeBits_length {slots : List (Bool × List Byte)} (blocks : ∀ x ∈ slots, x.2.length = 16)
    (laneId stripe sf : Nat) : (superframeBits laneId stripe sf slots).length = 130 * (slots.length + 1) := by
  have header : controlHeader.length = 2 := rfl
  simp only [superframeBits, List.length_append, header, byteBits_flatMap_length, commaBlock_length,
    scrambledSlots_length blocks]
  omega

/-! ## Codewords (R250) -/

theorem rsGenerator_length (n : Nat) : (rsGenerator n).length = n + 1 := by
  induction n with
  | zero => rfl
  | succ n ih => simp [rsGenerator, ih]

theorem rsParity_length (m : List Nat) : (rsParity m).length = 30 := by
  exact List.foldlRecOn (motive := fun r : List Nat => r.length = 30) m _ List.length_replicate
    (fun r kept s _ => by simp [kept, rsGenerator_length])

/-- The bits of a number that a list of bits spells, bit 0 last. -/
theorem map_testBit_foldl (l : List Bool) : (List.range l.length).map
    (fun i => (l.foldl (fun n x => 2 * n + b01 x) 0).testBit (l.length - 1 - i)) = l := by
  induction l using List.reverseRecOn with
  | nil => rfl
  | append_singleton l x ih =>
    have low : ∀ n : Nat, 2 * n + b01 x = Nat.bit x n := fun n => by cases x <;> rfl
    simp only [List.length_append, List.length_singleton, List.foldl_append, List.foldl_cons, List.foldl_nil, low,
      List.range_succ, List.map_append, List.map_singleton, Nat.add_sub_cancel, Nat.sub_self, Nat.testBit_bit_zero]
    congr 1
    refine Eq.trans (List.map_congr_left (fun i member => ?_)) ih
    have below := List.mem_range.mp member
    rw [show l.length - i = l.length - 1 - i + 1 by omega, Nat.testBit_bit_succ]

theorem symbolBits_symbolAt {b : List Bool} {k : Nat} (within : 10 * (k + 1) ≤ b.length) :
    symbolBits (symbolAt b k) = (b.drop (10 * k)).take 10 := by
  have length : ((b.drop (10 * k)).take 10).length = 10 := by
    rw [List.length_take, List.length_drop]
    omega
  have bits := map_testBit_foldl ((b.drop (10 * k)).take 10)
  rw [length] at bits
  exact bits

theorem codeword_length (b : List Bool) : (codeword b).length = 5440 := by
  unfold codeword
  dsimp only
  rw [length_flatMap_even (m := 10) (fun _ _ => by simp [symbolBits]), List.length_append, rsParity_length, List.length_map,
    List.length_range]

/-- A codeword begins with its message. -/
theorem codeword_take {b : List Bool} (message : b.length = 5140) : (codeword b).take 5140 = b := by
  have symbols : ((List.range 514).map (symbolAt b)).flatMap symbolBits = b := by
    rw [List.flatMap_map]
    calc (List.range 514).flatMap (fun k => symbolBits (symbolAt b k))
        = (List.range 514).flatMap (fun k => (b.drop (10 * k)).take 10) :=
          List.flatMap_congr (fun k member => symbolBits_symbolAt (by have := List.mem_range.mp member; omega))
      _ = b.take 5140 := flatMap_pieces b 10 514
      _ = b := List.take_of_length_le (Nat.le_of_eq message)
  unfold codeword
  dsimp only
  rw [List.flatMap_append, symbols, ← message, List.take_left]

theorem superframeCode_length (b : List Bool) : (superframeCode b).length = 104 * 5440 :=
  (length_flatMap_even (fun _ _ => codeword_length _)).trans (by rw [List.length_range])

theorem superframeCode_codeword (b : List Bool) {k : Nat} (below : k < 104) :
    ((superframeCode b).drop (5440 * k)).take 5440 = codeword ((b.drop (5140 * k)).take 5140) := by
  have piece := take_drop_flatMap_range (f := fun k => codeword ((b.drop (5140 * k)).take 5140)) below
    (fun _ _ => codeword_length _)
  rwa [codeword_length] at piece

/-- The message bits of a superframe stand in its codewords. -/
theorem superframeCode_message {b : List Bool} (full : b.length = 534560) {k : Nat} (below : k < 104) :
    ((superframeCode b).drop (5440 * k)).take 5140 = (b.drop (5140 * k)).take 5140 := by
  have message : ((b.drop (5140 * k)).take 5140).length = 5140 := by
    rw [List.length_take, List.length_drop]
    omega
  calc ((superframeCode b).drop (5440 * k)).take 5140
      = (((superframeCode b).drop (5440 * k)).take 5440).take 5140 := by rw [List.take_take]; rfl
    _ = (codeword ((b.drop (5140 * k)).take 5140)).take 5140 := by rw [superframeCode_codeword b below]
    _ = (b.drop (5140 * k)).take 5140 := codeword_take message

/-! ## The packets of a row (R278, R279) -/

theorem slice_length (l : List Byte) (off n : Nat) : (slice l off n).length = n := by
  simp only [slice, List.length_append, List.length_replicate, List.length_take]
  omega

theorem packet_length (ptype flags w4 w8 : Nat) (payload : List Byte) :
    (packet ptype flags w4 w8 payload).length = 16 + payload.length := by
  simp only [packet, List.length_append, beBytes_length]

theorem rowPacket_length (ratio2 : Bool) (row frame : Nat) (code : List Byte) (k : Nat) :
    (rowPacket ratio2 row frame code k).length = 16 + min 1024 (code.length - 1024 * k) :=
  (packet_length _ _ _ _ _).trans (congrArg (16 + ·) (slice_length _ _ _))

theorem lt_cdiv_iff {a b k : Nat} (positive : 0 < b) : k < cdiv a b ↔ b * k < a := by
  rw [cdiv, Nat.lt_div_iff_mul_lt positive, Nat.mul_comm]
  omega

/-- Every packet before the last of a row holds 1,024 bytes of code: 65 line blocks with its header. -/
theorem rowPackets_packet (ratio2 : Bool) (row frame : Nat) {code : List Byte} {k : Nat} (below : k < cdiv code.length 1024) :
    ((rowPackets ratio2 row frame code).drop (16 * (65 * k))).take (16 + min 1024 (code.length - 1024 * k)) =
      rowPacket ratio2 row frame code k := by
  have within := (lt_cdiv_iff (by decide)).mp below
  have full : ∀ i < k, (rowPacket ratio2 row frame code i).length = 16 * 65 := fun i before => by
    rw [rowPacket_length]
    omega
  rw [← rowPacket_length ratio2 row frame code k, ← Nat.mul_assoc]
  exact take_drop_flatMap_range below full

/-! ## Stripes (R262) -/

theorem stripeBlocks_block {a j : Nat} {blocks : List (List Byte)} (lanes : 0 < a) (sent : j < blocks.length) :
    nth (stripeBlocks a (j % a) blocks) (j / a) = nth blocks j := by
  have place := Nat.mod_add_div j a
  have within : j / a < cdiv (blocks.length - j % a) a := (lt_cdiv_iff lanes).mpr (by omega)
  rw [stripeBlocks, if_neg (Nat.ne_of_gt lanes), nth_map_range _ within, Nat.mul_comm, place]

/-- Settles O43: a superframe has 4,112 slots of 130 bits, and packets and stripes are pieces of one length. -/
theorem lanesCarryPackets : Obligations.LanesCarryPackets := by
  refine ⟨scrambleBits_twice, fun laneId stripe sf slots count blocks => ?_, fun ratio2 row frame code k _ below => ?_,
    fun a blocks j lanes sent => stripeBlocks_block lanes sent⟩
  · intro b
    have full : b.length = 534560 := (superframeBits_length blocks laneId stripe sf).trans (by rw [count])
    exact ⟨full, superframeCode_length b, fun k below => superframeCode_message full below⟩
  · exact rowPackets_packet ratio2 row frame below

end Sys2Proof.Machine

/-!
PROOF. How a lane trains, is lost, retries and wakes (O41).
-/

namespace Sys2Proof.Machine

/-! ## The end of a phase (R257) -/

/-- Lane `l` of port `p` has passed CHECK and takes its stripe, or stands by for one (R257, R269). -/
def lanePassed (c : Chip) (p l : Nat) : Chip :=
  updLane c l (fun x =>
    { x with
      st := if (trainingStripe c p l).1 = 0xFE then .siding else .active, stripe := (trainingStripe c p l).1
      everTrained := true, retrying := false, lostSince := x.lostSince && !x.full, attempts := 0, lowRun := 0, marginRun := 0
      window := [], trial := none })

section
variable {c : Chip} {l : Nat}

section
variable {r : PhaseReport}

theorem phaseEnd_wake (wakes : (lane c l).st = .wake) : phaseEnd l r c = enterPhase c l .align := by
  simp only [phaseEnd, wakes]

section
variable (aligns : (lane c l).st = .align)
include aligns

theorem phaseEnd_locked (locked : (lane c l).locked = true) :
    phaseEnd l r c = enterPhase c l (if (lane c l).full then .eq else .check) := by
  simp only [phaseEnd, aligns]
  exact if_pos locked

theorem phaseEnd_unlocked (unlocked : (lane c l).locked = false) : phaseEnd l r c = c := by
  simp only [phaseEnd, aligns]
  exact if_neg (Bool.eq_false_iff.mp unlocked)

end

theorem phaseEnd_settled (equalises : (lane c l).st = .eq) {pre post fom : Nat}
    (settled : settledPoint r.points = some (pre, post, fom)) :
    phaseEnd l r c = enterPhase (updLane c l (fun x => { x with pre := pre, post := post })) l .check := by
  simp only [phaseEnd, equalises, settled]

section
variable (checks : (lane c l).st = .check)
include checks

theorem phaseEnd_passes (good : (if (lane c l).full then 16 else 4) ≤ (lane c l).checkRun) :
    phaseEnd l r c = lanePasses c l := by
  simp only [phaseEnd, checks]
  exact if_pos good

theorem phaseEnd_few_windows (few : (lane c l).checkRun < (if (lane c l).full then 16 else 4)) : phaseEnd l r c = c := by
  simp only [phaseEnd, checks]
  exact if_neg (Nat.not_le.mpr few)

end

end

section
variable {p : Nat} (grouped : portOfLane c l = some p)
include grouped

theorem lanePasses_retried (retried : (lane c l).retrying = true) : lanePasses c l =
    groupTrained (raiseOwn (lanePassed c p l) (portOwner (lanePassed c p l) p) 0x6004
      [w (l + p * 256), w ((lane c l).fom % 256)]) p := by
  simp only [lanePasses, grouped]
  exact congrArg (groupTrained · p) (if_pos retried)

theorem lanePasses_first (first : (lane c l).retrying = false) : lanePasses c l =
    groupTrained (updPort (lanePassed c p l) p (fun x => { x with anyFull := x.anyFull || (lane c l).full })) p := by
  simp only [lanePasses, grouped]
  exact congrArg (groupTrained · p) (if_neg (Bool.eq_false_iff.mp first))

end

/-! ## The end of a phase's time (R258) -/

theorem phaseTimeout_left {k : Nat} (left : phaseNumber (lane c l).st ≠ k) : phaseTimeout l k c = c :=
  if_pos (by simp [left])

/-- The third training of lane `l` has failed: the lane is lost, and LNK_TRAIN_FAILED says so. -/
def trainingFailed (c : Chip) (l : Nat) : Chip :=
  let d := updLane c l (fun x => { x with st := .lost, stripe := 0xFF, lostSince := true, attempts := 0 })
  raiseOwn d (laneOwner d l) 0x6003
    [w (l + ((lane c l).attempts + 1) * 256), w ((lane c l).fom % 256 + phaseNumber (lane c l).st * 256)]

section
variable {k : Nat} (trains : inTraining (lane c l) = true) (phase : phaseNumber (lane c l).st = k)
include trains phase

theorem phaseTimeout_taken : ¬(!inTraining (lane c l) || decide (phaseNumber (lane c l).st ≠ k)) = true := by
  simp [trains, phase]

theorem phaseTimeout_again (left : (lane c l).attempts < 2) : phaseTimeout l k c =
    enterPhase (updLane c l (fun x => { x with full := true, attempts := x.attempts + 1 })) l .wake :=
  (if_neg (phaseTimeout_taken trains phase)).trans (if_pos (Nat.succ_lt_succ left))

section
variable (third : 2 ≤ (lane c l).attempts)
include third

theorem phaseTimeout_ungrouped (ungrouped : portOfLane (trainingFailed c l) l = none) :
    phaseTimeout l k c = trainingFailed c l := by
  unfold phaseTimeout
  unfold trainingFailed at ungrouped ⊢
  dsimp only at ungrouped ⊢
  rw [if_neg (phaseTimeout_taken trains phase), if_neg (by omega), ungrouped]

theorem phaseTimeout_grouped {p : Nat} (grouped : portOfLane (trainingFailed c l) l = some p) :
    phaseTimeout l k c = groupTrained (trainingFailed c l) p := by
  unfold phaseTimeout
  unfold trainingFailed at grouped ⊢
  dsimp only at grouped ⊢
  rw [if_neg (phaseTimeout_taken trains phase), if_neg (by omega), grouped]

end

end

/-! ## Retries (R269) -/

theorem retryLane_trains (lost : (lane c l).st = .lost) (usable : (lane c l).unusable = false)
    (driver : c.power.driverUp = true) (serves : smServes c = true) (grouped : portOfLane c l ≠ none) :
    retryLane l c = updLane (trainLane c l) l (fun x =>
      { x with full := true, retrying := true, retries := x.retries + 1 }) :=
  if_neg (by simp [lost, usable, driver, serves, grouped])

/-! ## Wakes (R273, R414) -/

theorem recounted_lanes (c : Chip) (u : Nat) : ({ c with laneUi := u } : Chip).lanes = c.lanes := rfl

theorem countUi_lanes (c : Chip) (n : Nat) : (countUi c n).lanes = c.lanes := recounted_lanes c _

/-- The lanes do not change with T. -/
theorem advanceTo_lane (c : Chip) (t l : Nat) : lane (advanceTo c t) l = lane c l := by
  unfold lane advanceTo
  split
  · rw [setNs_lanes, countUi_lanes]
  · rfl

/-- Lane `l` is awake, and the superframes of its sleep are counted. -/
def laneAwake (c : Chip) (l : Nat) : Chip :=
  updLane (count c (96 + l / 4) 0x0406 (225 * (nowNs c - (lane c l).sleptNs) / superframeUi)) l
    (fun x => { x with asleep := false })

theorem endSleep_awake (asleep : (lane c l).asleep = true) : endSleep c l = laneAwake c l :=
  if_neg (by simp [asleep])

theorem wakeLane_awake (awake : (lane c l).asleep = false) : wakeLane l c = c := if_pos (by simp [awake])

section
variable (asleep : (lane c l).asleep = true) {u : Nat} (wakes : (lane c l).wakeUi = some u)
include asleep wakes

theorem wakeLane_ends : wakeLane l c =
    (let left := untilUi c u
     endSleep (if burstUi (lane c l).deep ≤ left && left < 32768 * superframeUi then
       advanceTo c (nowNs c + (left - burstUi (lane c l).deep) / 225) else c) l) := by
  unfold wakeLane
  dsimp only
  rw [asleep, wakes, Option.map_some, Option.getD_some]
  exact if_neg nofun

/-- The burst begins at its instant where that lies ahead. -/
theorem wakeLane_ahead (early : burstUi (lane c l).deep ≤ untilUi c u) (ahead : untilUi c u < 32768 * superframeUi) :
    wakeLane l c = laneAwake (advanceTo c (nowNs c + (untilUi c u - burstUi (lane c l).deep) / 225)) l := by
  refine (wakeLane_ends asleep wakes).trans (Eq.trans (congrArg (endSleep · l) (if_pos ?_)) (endSleep_awake ?_))
  · simp [early, ahead]
  · rw [advanceTo_lane, asleep]

theorem wakeLane_passed (passed : untilUi c u < burstUi (lane c l).deep ∨ 32768 * superframeUi ≤ untilUi c u) :
    wakeLane l c = laneAwake c l := by
  refine (wakeLane_ends asleep wakes).trans (Eq.trans (congrArg (endSleep · l) (if_neg ?_)) (endSleep_awake asleep))
  rw [Bool.and_eq_true, decide_eq_true_eq, decide_eq_true_eq]
  exact fun ⟨early, ahead⟩ => passed.elim (Nat.not_lt.mpr early) (Nat.not_le.mpr ahead)

end

end

/-- Settles O41: each command is its operation under the conditions of its rule. -/
theorem lanesTrain : Obligations.LanesTrain := by
  intro s l r runs y set
  refine ⟨fun wakes => ?_, fun aligns locked => ?_, fun aligns unlocked => ?_, fun pre post fom equalises settled => ?_,
    fun p checks good grouped => ⟨fun retried => ?_, fun first => ?_⟩, fun checks few => ?_,
    fun k trains phase => ⟨fun left => ?_, fun third => ⟨fun ungrouped => ?_, fun p grouped => ?_⟩⟩, fun k left => ?_,
    fun lost usable driver serves grouped => ?_, fun u asleep wakes => ⟨fun early ahead => ?_, fun passed => ?_⟩,
    fun awake => ?_⟩
  · exact does_runLive rfl runs (phaseEnd_wake wakes)
  · exact does_runLive rfl runs (phaseEnd_locked aligns locked)
  · exact does_runLive rfl runs (phaseEnd_unlocked aligns unlocked)
  · exact does_runLive rfl runs (phaseEnd_settled equalises settled)
  · exact does_runLive rfl runs ((phaseEnd_passes checks good).trans (lanePasses_retried grouped retried))
  · exact does_runLive rfl runs ((phaseEnd_passes checks good).trans (lanePasses_first grouped first))
  · exact does_runLive rfl runs (phaseEnd_few_windows checks few)
  · exact does_runLive rfl runs (phaseTimeout_again trains phase left)
  · exact does_runLive rfl runs (phaseTimeout_ungrouped trains phase third ungrouped)
  · exact does_runLive rfl runs (phaseTimeout_grouped trains phase third grouped)
  · exact does_runLive rfl runs (phaseTimeout_left left)
  · exact does_runLive rfl runs (retryLane_trains lost usable driver serves grouped)
  · exact does_runLive rfl runs (wakeLane_ahead asleep wakes early ahead)
  · exact does_runLive rfl runs (wakeLane_passed asleep wakes passed)
  · exact does_runLive rfl runs (wakeLane_awake awake)

end Sys2Proof.Machine

/-!
PROOF. The return messages of a quad, adaptation in service, `lane_status` and the points (O42).
-/

namespace Sys2Proof.Machine

/-! ## Return messages (R246, R260, R264) -/

section
variable {c : Chip} {q : Nat}

section
variable {b : List Byte} {typ : Nat} {f : Chip → Chip}

/-- A lost return lane brings no message. -/
theorem takeReturn_lost (lost : (quad c q).returnUp = false) : takeReturn q typ b f c = c := if_pos (by simp [lost])

section
variable (used : quadInUse c q = true) (up : (quad c q).returnUp = true)
include used up

theorem returnLane_hears : ¬(!quadInUse c q || !(quad c q).returnUp) = true := by simp [used, up]

theorem takeReturn_unsound (unsound : ¬crc16 (slice b 0 14) = ofBe (slice b 14 2)) :
    takeReturn q typ b f c = discardReturn (noteCheck c q true) q :=
  (if_neg (returnLane_hears used up)).trans (if_pos unsound)

section
variable (sound : crc16 (slice b 0 14) = ofBe (slice b 14 2))
include sound

theorem takeReturn_sound : takeReturn q typ b f c =
    (if !messageTypes.contains (byteOf b 0) then discardReturn (noteCheck c q false) q
     else if byteOf b 0 = typ then f (noteCheck c q false) else noteCheck c q false) :=
  (if_neg (returnLane_hears used up)).trans (if_neg (not_not_intro sound))

theorem takeReturn_reserved (reserved : messageTypes.contains (byteOf b 0) = false) :
    takeReturn q typ b f c = discardReturn (noteCheck c q false) q :=
  (takeReturn_sound used up sound).trans (if_pos (by rw [reserved]; rfl))

theorem takeReturn_typed (defined : messageTypes.contains (byteOf b 0) = true) :
    takeReturn q typ b f c = if byteOf b 0 = typ then f (noteCheck c q false) else noteCheck c q false :=
  (takeReturn_sound used up sound).trans (if_neg (by rw [defined]; exact Bool.false_ne_true))

theorem takeReturn_other (defined : messageTypes.contains (byteOf b 0) = true) (other : byteOf b 0 ≠ typ) :
    takeReturn q typ b f c = noteCheck c q false :=
  (takeReturn_typed used up sound defined).trans (if_neg other)

/-- A message of the type is taken. -/
theorem takeReturn_takes (named : byteOf b 0 = typ) (defined : messageTypes.contains typ = true) :
    takeReturn q typ b f c = f (noteCheck c q false) :=
  (takeReturn_typed used up sound (named ▸ defined)).trans (if_pos named)

end

theorem returnLost_tells (cause : Nat) : returnLost q cause c =
    raise (actionDone (updQuad c q (fun x => { x with returnUp := false, recent := [] })) 8 q) 0x6006
      [w (q + cause * 256)] := if_neg (returnLane_hears used up)

end

end

theorem returnUp_tells (used : quadInUse c q = true) (down : (quad c q).returnUp = false) :
    returnUp q c = raise (updQuad c q (fun x => { x with returnUp := true, recent := [] })) 0x6007 [w q] :=
  if_neg (by simp [used, down])

end

/-! ## What LANE_REPORT and LANE_FAULT say of a lane (R260, R264) -/

/-- A lane's flags and figure of merit are those of its report. -/
def laneReported (c : Chip) (b : List Byte) : Chip :=
  updLane (updLane c (byteOf b 1) (fun x => { x with flags := byteOf b 2, fom := byteOf b 3 })) (byteOf b 1)
    (fun x => { x with locked := x.locked || laneLock x })

section
variable {c : Chip} {b : List Byte}

section
variable (grouped : portOfLane c (byteOf b 1) ≠ none)
include grouped

theorem laneReport_grouped : laneReport b c =
    if (lane c (byteOf b 1)).windowSf = some (be16 b 4) then laneReported c b
    else takeWindow (laneReported c b) (byteOf b 1) b :=
  if_neg (by simp [grouped])

theorem laneReport_same_window (taken : (lane c (byteOf b 1)).windowSf = some (be16 b 4)) :
    laneReport b c = laneReported c b := (laneReport_grouped grouped).trans (if_pos taken)

theorem laneReport_new_window (new : (lane c (byteOf b 1)).windowSf ≠ some (be16 b 4)) :
    laneReport b c = takeWindow (laneReported c b) (byteOf b 1) b := (laneReport_grouped grouped).trans (if_neg new)

end

theorem lane_serves {l : Nat} (serves : (lane c l).st = .active ∨ (lane c l).st = .siding) :
    (decide ((lane c l).st = .active) || decide ((lane c l).st = .siding)) = true := by simpa using serves

/-- The first fault of a lane in service or siding sends it to the points. -/
theorem loseLane_waits {l cause since p : Nat} (grouped : portOfLane c l = some p)
    (serves : (lane c l).st = .active ∨ (lane c l).st = .siding)
    (first : (port c p).switching.any (fun x => x.1 = l) = false) : loseLane c l cause since =
      updPort c p (fun x => { x with switching := x.switching ++ [(l, cause, nowNs c, since)] }) := by
  simp only [loseLane, grouped]
  exact if_neg (by rw [lane_serves serves, first]; exact nofun)

end

/-! ## Adaptation in service (R270) -/

section
variable {c : Chip} {l : Nat}

theorem nextStep_uncommanded (free : eqRun c l = false) : nextStep c l =
    if (lane c l).fom < 128 then updLane (tryStep c l) l (fun x => { x with stepFrame := stepNow c l }) else c :=
  if_neg (Bool.eq_false_iff.mp free)

section
variable (serves : (lane c l).st = .active ∨ (lane c l).st = .siding) (full : 4 ≤ (lane c l).window.length)
  (blanking : mayStep c l = true) (fresh : (calDomain c 3).stale = false ∨ eqRun c l = true)
include serves full blanking fresh

theorem adaptTaps_acts : ¬(!(decide ((lane c l).st = .active) || decide ((lane c l).st = .siding)) ||
    decide ((lane c l).window.length < 4) || !mayStep c l || ((calDomain c 3).stale && !eqRun c l)) = true := by
  have due : ((calDomain c 3).stale && !eqRun c l) = false := by obtain new | run := fresh <;> simp [*]
  rw [lane_serves serves, decide_eq_false (Nat.not_lt.mpr full), blanking, due]
  exact nofun

theorem adaptTaps_steps (idle : (lane c l).trial = none) : adaptTaps l c = nextStep c l := by
  unfold adaptTaps
  dsimp only
  rw [if_neg (adaptTaps_acts serves full blanking fresh), idle]

section
variable {post up : Bool} (tried : (lane c l).trial = some (post, up))
include tried

theorem adaptTaps_waits (few : (lane c l).after.length < 4) : adaptTaps l c = c := by
  unfold adaptTaps
  dsimp only
  rw [if_neg (adaptTaps_acts serves full blanking fresh), tried]
  exact if_pos few

section
variable (judged : 4 ≤ (lane c l).after.length)
include judged

/-- A step that did not make the sum smaller stands, and the next may follow. -/
theorem adaptTaps_keeps (better : (lane c l).before ≤ total (lane c l).after) : adaptTaps l c =
    nextStep (stepDone (updLane c l (fun x => { x with trial := none })) l) l := by
  unfold adaptTaps
  dsimp only
  rw [if_neg (adaptTaps_acts serves full blanking fresh), tried]
  exact (if_neg (Nat.not_lt.mpr judged)).trans (if_pos better)

/-- A step that made the sum smaller is taken back. -/
theorem adaptTaps_undoes (worse : total (lane c l).after < (lane c l).before) : adaptTaps l c =
    stepDone (updLane c l (fun x => { (stepTap post (!up) x).1 with trial := none, stepFrame := stepNow c l })) l := by
  unfold adaptTaps
  dsimp only
  rw [if_neg (adaptTaps_acts serves full blanking fresh), tried]
  exact (if_neg (Nat.not_lt.mpr judged)).trans (if_neg (Nat.not_le.mpr worse))

end

end

end

end

/-! ## `lane_status` (R274) -/

theorem laneStatusBody_reads {e : Env} {c : Chip} (known : mf e 0x10 3 0 < quadCount c) :
    laneStatusBody e c =
      (updQuad c (mf e 0x10 3 0) (fun y => { y with checkFails := 0, corrected := 0, uncorr := 0 }),
       ok ((List.range 4).map (fun k => laneWord (lane c (4 * mf e 0x10 3 0 + k))) ++
         [w (b01 (quad c (mf e 0x10 3 0)).returnUp + b01 (relayed c (mf e 0x10 3 0)) * 2 +
            min (quad c (mf e 0x10 3 0)).checkFails 65535 * 65536),
          w (quad c (mf e 0x10 3 0)).corrected, w (quad c (mf e 0x10 3 0)).uncorr])) :=
  if_neg (Nat.not_le.mpr known)

/-! ## The points (R265, R267) -/

section
variable {c : Chip} {p l cause ns since : Nat} {lost : List Nat} {told : List LostLane}

theorem switchLane_siding (sides : (lane c l).st = .siding) : switchLane p lost (c, told) (l, cause, ns, since) =
    (dropLane c l, told ++ [{ lane := l, cause := cause }]) :=
  if_pos (by rw [sides]; exact nofun)

section
variable (serves : (lane c l).st = .active)
include serves

theorem switchLane_replaced {n : Nat} (found : chooseSiding c p l lost = some n) :
    switchLane p lost (c, told) (l, cause, ns, since) =
      (updLane (dropLane c l) n (fun z => { z with st := .active, stripe := (lane c l).stripe }),
       told ++ [{ lane := l, cause := cause, stripe := (lane c l).stripe, new := n }]) := by
  unfold switchLane
  dsimp only
  rw [if_neg (not_not_intro serves), found]

theorem switchLane_restripes (missing : chooseSiding c p l lost = none) :
    switchLane p lost (c, told) (l, cause, ns, since) =
      (dropLane c l, told ++ [{ lane := l, cause := cause, stripe := (lane c l).stripe, restripe := true }]) := by
  unfold switchLane
  dsimp only
  rw [if_neg (not_not_intro serves), missing]

end

end

/-- Settles O42: each command is its operation under the conditions of its rule, and a lost lane has one of three ends. -/
theorem lanesReportAndSwitch : Obligations.LanesReportAndSwitch := by
  refine ⟨⟨fun s q b runs used up => ?_, fun s q b runs used down => ⟨?_, ?_, ?_⟩,
      fun s l runs => ?_, fun s via m k admitted => ?_⟩,
    fun s p t pd runs timed panel waits => does_runLive rfl runs rfl, fun c p l cause ns since n lost told => ?_⟩
  · intro sound l c0
    refine ⟨fun right named grouped => ⟨fun taken => ?_, fun new => ?_⟩, fun p right named grouped serves first => ?_,
      fun right defined other => ?_, fun right reserved => ?_, fun unsound => ?_, fun cause => ?_⟩
    · have takes := takeReturn_takes (f := laneReport b) used up right named rfl
      exact does_runLive rfl runs (takes.trans (laneReport_same_window grouped taken))
    · have takes := takeReturn_takes (f := laneReport b) used up right named rfl
      exact does_runLive rfl runs (takes.trans (laneReport_new_window grouped new))
    · have takes := takeReturn_takes (f := laneFault b) used up right named rfl
      exact does_runLive rfl runs (takes.trans (loseLane_waits grouped serves first))
    · exact does_runLive rfl runs (takeReturn_other used up right defined other)
    · exact does_runLive rfl runs (takeReturn_reserved used up right reserved)
    · exact does_runLive rfl runs (takeReturn_unsound used up unsound)
    · exact does_runLive rfl runs (returnLost_tells used up cause.val)
  · exact does_runLive rfl runs (takeReturn_lost down)
  · exact does_runLive rfl runs (takeReturn_lost down)
  · exact does_runLive rfl runs (returnUp_tells used down)
  · intro y serves full blanking fresh
    refine ⟨fun idle => ?_, nextStep_uncommanded, fun t tried few => ?_, fun t tried judged better => ?_,
      fun post up tried judged worse => ?_⟩
    · exact does_runLive rfl runs (adaptTaps_steps serves full blanking fresh idle)
    · exact does_runLive rfl runs (adaptTaps_waits serves full blanking fresh tried few)
    · exact does_runLive rfl runs (adaptTaps_keeps serves full blanking fresh tried judged better)
    · exact does_runLive rfl runs (adaptTaps_undoes serves full blanking fresh tried judged worse)
  · intro c q x known
    exact answered_cci rfl admitted rfl (laneStatusBody_reads known)
  · exact ⟨fun serves found => switchLane_replaced serves found, switchLane_restripes, switchLane_siding⟩

end Sys2Proof.Machine

/-!
PROOF. Driver messages and the commands that drivers acknowledge (O44).
-/

namespace Sys2Proof.Machine

/-! ## DRV_HELLO and CMD_ACK (R277, R285) -/

section
variable {c : Chip} {b : List Byte}

/-- What DRV_HELLO records of a driver. -/
def helloDriver (c : Chip) (q : Nat) (b : List Byte) : Driver :=
  { (driver? c (byteOf b 1)).getD { id := byteOf b 1 } with
    quad := q, family := be16 b 2, colFirst := be16 b 4, colCount := be16 b 6, rowFirst := be16 b 8
    rowCount := be16 b 10, announced := true }

theorem drvHello_known {q : Nat} (known : ((driver? c (byteOf b 1)).getD { id := byteOf b 1 }).announced = true) :
    drvHello q b c = setDriver c (helloDriver c q b) := if_pos known

theorem drvHello_announces {q : Nat} (new : ((driver? c (byteOf b 1)).getD { id := byteOf b 1 }).announced = false) :
    drvHello q b c = raise (setDriver c (helloDriver c q b)) 0xB003
      [w (byteOf b 1 + q * 256), w (be16 b 4 + be16 b 6 * 65536), w (be16 b 8 + be16 b 10 * 65536)] :=
  if_neg (Bool.eq_false_iff.mp new)

theorem cmdAck_unknown (unknown : c.power.cmds.find? (fun x => x.seq = be16 b 2) = none) : cmdAck b c = c := by
  unfold cmdAck
  dsimp only
  rw [unknown]

section
variable {x : DrvCmd} (waits : c.power.cmds.find? (fun x => x.seq = be16 b 2) = some x)
include waits

theorem cmdAck_waits : cmdAck b c =
    if x.missing.filter (· ≠ byteOf b 1) = [] then
      commandTaken (updPower c (fun p => { p with cmds := p.cmds.filter (fun y => y.seq ≠ be16 b 2) })) x.port x.ptype
    else updPower c (fun p => { p with
      cmds := p.cmds.map (fun y => if y.seq = be16 b 2 then { y with missing := x.missing.filter (· ≠ byteOf b 1) } else y) }) := by
  unfold cmdAck
  dsimp only
  rw [waits]

/-- The last acknowledgement ends the command. -/
theorem cmdAck_last (last : x.missing.filter (· ≠ byteOf b 1) = []) : cmdAck b c =
    commandTaken (updPower c (fun p => { p with cmds := p.cmds.filter (fun y => y.seq ≠ be16 b 2) })) x.port x.ptype :=
  (cmdAck_waits waits).trans (if_pos last)

theorem cmdAck_more (more : x.missing.filter (· ≠ byteOf b 1) ≠ []) : cmdAck b c =
    updPower c (fun p => { p with
      cmds := p.cmds.map (fun y => if y.seq = be16 b 2 then { y with missing := x.missing.filter (· ≠ byteOf b 1) } else y) }) :=
  (cmdAck_waits waits).trans (if_neg more)

end

end

/-! ## CMD_REPEAT (R285) -/

/-- The driver that DRV_CMD_FAIL names: the one that is missing, or 0xFF for several. -/
def missingDriver : List Nat → Nat
  | [d] => d
  | _ => 0xFF

/-- A command whose repeats are spent leaves the list, with DRV_CMD_FAIL. -/
def commandFailed (c : Chip) (n : Nat) (x : DrvCmd) : Chip :=
  raise (updPower c (fun p => { p with cmds := p.cmds.filter (fun y => y.seq ≠ n) })) 0xB004
    [w (missingDriver x.missing + x.ptype * 256 + n * 65536)]

section
variable {c : Chip} {n : Nat}

theorem cmdRepeat_unknown (unknown : c.power.cmds.find? (fun x => x.seq = n) = none) : cmdRepeat n c = c := by
  unfold cmdRepeat
  rw [unknown]

section
variable {x : DrvCmd} (waits : c.power.cmds.find? (fun x => x.seq = n) = some x)
include waits

theorem cmdRepeat_again (few : x.repeats < 8) : cmdRepeat n c =
    queueCommand (updPower c (fun p => { p with
      cmds := p.cmds.map (fun y => if y.seq = n then { y with repeats := y.repeats + 1 } else y) })) x.port x.ptype n x.payload := by
  unfold cmdRepeat
  rw [waits]
  exact if_pos few

section
variable (spent : 8 ≤ x.repeats)
include spent

/-- DRV_CMD_FAIL leaves the sequence as it is, so what follows depends on the state before it. -/
theorem cmdRepeat_fails : cmdRepeat n c =
    if c.power.run = .up && c.power.step = 6 && x.ptype = 0x11 then failUp (commandFailed c n x) 4
    else commandFailed c n x := by
  unfold cmdRepeat
  rw [waits]
  exact if_neg (Nat.not_lt.mpr spent)

theorem cmdRepeat_fails_alone (other : c.power.run ≠ .up ∨ c.power.step ≠ 6 ∨ x.ptype ≠ 0x11) :
    cmdRepeat n c = commandFailed c n x :=
  (cmdRepeat_fails waits spent).trans (if_neg (by simpa [or_iff_not_imp_left] using other))

theorem cmdRepeat_fails_up (up : c.power.run = .up) (step : c.power.step = 6) (clear : x.ptype = 0x11) :
    cmdRepeat n c = failUp (commandFailed c n x) 4 :=
  (cmdRepeat_fails waits spent).trans (if_pos (by simp [up, step, clear]))

end

end

end

/-- Settles O44: a driver message is its operation once its check passes, and a command that waits is repeated or fails. -/
theorem driversSpeak : Obligations.DriversSpeak := by
  intro s q b runs used up
  refine ⟨?_, fun n unknown => ?_, fun n x waits => ⟨fun few => ?_, ?_⟩⟩
  · intro sound id c0
    refine ⟨?_, fun named unknown => ?_, fun x named waits => ⟨fun last => ?_, fun more => ?_⟩, fun named => ?_⟩
    · intro named old c
      have takes := takeReturn_takes (f := drvHello q.val b) used up sound named rfl
      exact ⟨fun known => does_runLive rfl runs (takes.trans (drvHello_known known)),
        fun new => does_runLive rfl runs (takes.trans (drvHello_announces new))⟩
    · have takes := takeReturn_takes (f := cmdAck b) used up sound named rfl
      exact does_runLive rfl runs (takes.trans (cmdAck_unknown unknown))
    · have takes := takeReturn_takes (f := cmdAck b) used up sound named rfl
      exact does_runLive rfl runs (takes.trans (cmdAck_last waits last))
    · have takes := takeReturn_takes (f := cmdAck b) used up sound named rfl
      exact does_runLive rfl runs (takes.trans (cmdAck_more waits more))
    · exact does_runLive rfl runs (takeReturn_takes (f := drvStatus q.val b) used up sound named rfl)
  · exact does_runLive rfl runs (cmdRepeat_unknown unknown)
  · exact does_runLive rfl runs (cmdRepeat_again waits few)
  · rintro d spent rfl c
    exact ⟨fun other => does_runLive rfl runs (cmdRepeat_fails_alone waits spent other),
      fun run step clear => does_runLive rfl runs (cmdRepeat_fails_up waits spent run step clear)⟩

end Sys2Proof.Machine

/-!
PROOF. `power_sequence`, the steps of its sequences, GOODs that come late, and PWR_FAULT (O45).
-/

namespace Sys2Proof.Machine

/-! ## `power_sequence` (R292, R293, R295) -/

/-- What an accepted up sequence does with its job `n`. -/
def upAccepted (c : Chip) (n : Nat × Chip) : Chip :=
  if c.power.railsUp then endJob n.2 n.1 .completed 0 0 []
  else if c.power.tripped then endJob n.2 n.1 .failed 0x010E 0 [w (1 + 6 * 256)]
  else raiseDrivers (updPower n.2 (fun p => { p with
    run := .up, step := 1, job := n.1, downWaits := none, startNs := nowNs c }))

/-- What an accepted down sequence does with its job `n`. -/
def downAccepted (c : Chip) (n : Nat × Chip) : Chip :=
  if !c.power.railsUp && c.power.run = .idle then endJob n.2 n.1 .completed 0 0 []
  else if c.power.run = .up then updPower n.2 (fun p => { p with downWaits := some n.1 })
  else startDown n.2 n.1

section
variable {c : Chip} {n : Nat × Chip}

theorem upAccepted_lit (lit : c.power.railsUp = true) : upAccepted c n = endJob n.2 n.1 .completed 0 0 [] := if_pos lit

theorem upAccepted_tripped (dark : c.power.railsUp = false) (tripped : c.power.tripped = true) :
    upAccepted c n = endJob n.2 n.1 .failed 0x010E 0 [w (1 + 6 * 256)] :=
  (if_neg (Bool.eq_false_iff.mp dark)).trans (if_pos tripped)

theorem upAccepted_starts (dark : c.power.railsUp = false) (cool : c.power.tripped = false) :
    upAccepted c n = raiseDrivers (updPower n.2 (fun p => { p with
      run := .up, step := 1, job := n.1, downWaits := none, startNs := nowNs c })) :=
  (if_neg (Bool.eq_false_iff.mp dark)).trans (if_neg (Bool.eq_false_iff.mp cool))

theorem downAccepted_dark (idle : c.power.run = .idle) (dark : c.power.railsUp = false) :
    downAccepted c n = endJob n.2 n.1 .completed 0 0 [] := if_pos (by simp [idle, dark])

theorem downAccepted_waits (up : c.power.run = .up) :
    downAccepted c n = updPower n.2 (fun p => { p with downWaits := some n.1 }) :=
  (if_neg (by simp [up])).trans (if_pos up)

theorem downAccepted_starts (idle : c.power.run = .idle) (lit : c.power.railsUp = true) :
    downAccepted c n = startDown n.2 n.1 :=
  (if_neg (by simp [lit])).trans (if_neg (by rw [idle]; nofun))

end

section
variable {e : Env} {c : Chip} (room : c.cci.jobs.length < 192)
include room

/-- An up sequence is accepted while none runs, and during a trip's own descent. -/
theorem powerSequenceBody_up (up : (mw e 0x10).testBit 0 = false)
    (free : c.power.run = .idle ∨ (c.power.tripped = true ∧ c.power.run = .down ∧ c.power.job = 0)) :
    powerSequenceBody e c = (upAccepted c (newJob c 0x42 (tagOf e) (sid e) []),
      { status := 1, result := [w c.cci.nextJob] }) := by
  have kind : bit e 0x10 0 = false := up
  have notFull : jobsFull c = false := by simpa [jobsFull] using room
  unfold powerSequenceBody upAccepted
  simp only [kind, notFull, Bool.not_false, Bool.true_and, Bool.false_and, Bool.or_false, Bool.false_eq_true,
    if_false]
  rw [if_neg (by obtain idle | ⟨trip, run, job⟩ := free <;> simp [*])]
  split_ifs <;> rfl

/-- A down sequence is accepted while none runs or waits. -/
theorem powerSequenceBody_down (down : (mw e 0x10).testBit 0 = true) (alone : c.power.downWaits = none)
    (free : c.power.run ≠ .down) :
    powerSequenceBody e c = (downAccepted c (newJob c 0x42 (tagOf e) (sid e) []),
      { status := 1, result := [w c.cci.nextJob] }) := by
  have kind : bit e 0x10 0 = true := down
  have notFull : jobsFull c = false := by simpa [jobsFull] using room
  unfold powerSequenceBody downAccepted
  simp only [kind, notFull, alone, Bool.not_true, Bool.true_and, Bool.false_and, Bool.false_or,
    Bool.false_eq_true, if_false]
  rw [if_neg (by simpa using free)]
  split_ifs <;> rfl

end

/-! ## The GOODs that a step waits for (R292, R293) -/

section
variable {c : Chip} {n : Nat}

theorem goodTimeout_up (up : c.power.run = .up) (waits : c.power.waitOn = some n) : goodTimeout n c = failUp c 1 := by
  unfold goodTimeout
  rw [if_neg (not_not_intro waits), up]

theorem goodTimeout_down (down : c.power.run = .down) (waits : c.power.waitOn = some n) : goodTimeout n c =
    updPower c (fun p => { p with waitOn := none, stuck := p.stuck ||| BitVec.ofNat 4 (2 ^ n) }) := by
  unfold goodTimeout
  rw [if_neg (not_not_intro waits), down]

theorem goodTimeout_idle (idle : c.power.run = .idle) : goodTimeout n c = c := by
  unfold goodTimeout
  rw [idle]
  exact ite_self c

theorem goodTimeout_other (other : c.power.waitOn ≠ some n) : goodTimeout n c = c := if_pos other

end

/-! ## The steps (R292, R293, R295) -/

section
variable {c : Chip} (done : c.power.waitOn = none)
include done

theorem sequenceStep_up (up : c.power.run = .up) : sequenceStep c =
    if c.power.downWaits.isSome && stepWhole c then
      startDown (endJob c c.power.job .aborted 0 0 []) (c.power.downWaits.getD 0)
    else upNext c := by
  unfold sequenceStep
  dsimp only
  rw [up, done]
  rfl

theorem sequenceStep_up_next (up : c.power.run = .up) (goesOn : c.power.downWaits = none ∨ stepWhole c = false) :
    sequenceStep c = upNext c :=
  (sequenceStep_up done up).trans (if_neg (by obtain alone | part := goesOn <;> simp [*]))

/-- The down job that waits takes over at the boundary of a step. -/
theorem sequenceStep_up_taken {j : Nat} (up : c.power.run = .up) (waits : c.power.downWaits = some j)
    (whole : stepWhole c = true) : sequenceStep c = startDown (endJob c c.power.job .aborted 0 0 []) j := by
  rw [sequenceStep_up done up, waits, whole]
  rfl

theorem sequenceStep_down (down : c.power.run = .down) : sequenceStep c = downNext c := by
  unfold sequenceStep
  dsimp only
  rw [down, done]
  rfl

end

/-! ## PWR_FAULT (R294) -/

/-- PWR_FAULT of output `n` at a step is told. -/
def faultTold (c : Chip) (n step : Nat) : Chip := raise (setGood c n false) 0xB002 [w (n + step * 256)]

section
variable {c : Chip} {n : Nat} (on : enabled c n = true)
include on

theorem powerFault_idle (idle : c.power.run = .idle) : powerFault n c = dropRails (faultTold c n 7) := by
  unfold powerFault
  dsimp only
  rw [on, if_neg nofun, idle]
  rfl

theorem powerFault_down (down : c.power.run = .down) : powerFault n c = dropRails (faultTold c n c.power.step) := by
  unfold powerFault
  dsimp only
  rw [on, if_neg nofun, down]
  rfl

/-- The up job fails, and the trip's descent serves the down job that waits. -/
theorem powerFault_up (up : c.power.run = .up) : powerFault n c =
    dropRails (updPower (endJob (faultTold c n c.power.step) c.power.job .failed 0x010E 0 [w (c.power.step + 2 * 256)])
      (fun x => { x with job := c.power.downWaits.getD 0, downWaits := none, startNs := nowNs c })) := by
  unfold powerFault
  dsimp only
  rw [on, if_neg nofun, up]
  rfl

end

/-- A live command that a restart may follow (R439). -/
theorem next_restartWhenDown {i : Instr} {s : State} {f : Chip → Chip} {c : Chip}
    (hi : exec i s = .next (restartWhenDown (s.runLive f))) (runs : running s.chip = true) (h : f s.chip = c) :
    exec i s = .next (restartWhenDown (settleAborts (flush { s with chip := c }))) := by
  subst h
  rw [hi, State.runLive, if_pos runs]
  rfl

/-- Settles O45: an accepted `power_sequence` and each command of its sequences is its operation in the state of the rails. -/
theorem railsFollowTheSequence : Obligations.RailsFollowTheSequence := by
  refine ⟨?_, fun s n => ?_⟩
  · intro s via m k admitted e c p n takes room
    have answers : ∀ {d : Chip}, powerSequenceBody e c = (d, { status := 1, result := [w c.cci.nextJob] }) → takes d :=
      answered_cci rfl admitted rfl
    refine ⟨fun up idle => ?_, fun up down trip dark tripped => ?_, fun lower alone => ?_⟩
    · have accepted := answers (powerSequenceBody_up room up (.inl idle))
      exact ⟨fun lit => (congrArg takes (upAccepted_lit lit)).mp accepted,
        fun dark tripped => (congrArg takes (upAccepted_tripped dark tripped)).mp accepted,
        fun dark cool => (congrArg takes (upAccepted_starts dark cool)).mp accepted⟩
    · have accepted := answers (powerSequenceBody_up room up (.inr ⟨tripped, down, trip⟩))
      exact (congrArg takes (upAccepted_tripped dark tripped)).mp accepted
    · have accepted := fun free => answers (powerSequenceBody_down room lower alone free)
      exact ⟨fun idle lit => (congrArg takes (downAccepted_starts idle lit)).mp (accepted (by rw [idle]; nofun)),
        fun idle dark => (congrArg takes (downAccepted_dark idle dark)).mp (accepted (by rw [idle]; nofun)),
        fun up => (congrArg takes (downAccepted_waits up)).mp (accepted (by rw [up]; nofun))⟩
  · intro p
    refine ⟨does_run rfl rfl, does_run rfl rfl, fun up waits => does_run rfl (goodTimeout_up up waits),
      fun down waits => does_run rfl (goodTimeout_down down waits),
      fun ended => does_run rfl (ended.elim goodTimeout_idle goodTimeout_other), ?_⟩
    intro runs goesTo
    refine ⟨fun up done => ⟨fun goesOn => ?_, fun j waits whole => ?_⟩, fun down done => ?_, ?_⟩
    · exact next_restartWhenDown rfl runs (sequenceStep_up_next done up goesOn)
    · exact next_restartWhenDown rfl runs (sequenceStep_up_taken done up waits whole)
    · exact next_restartWhenDown rfl runs (sequenceStep_down done down)
    · intro on told
      exact ⟨fun idle => next_restartWhenDown rfl runs (powerFault_idle on idle),
        fun down => next_restartWhenDown rfl runs (powerFault_down on down),
        fun up => next_restartWhenDown rfl runs (powerFault_up on up)⟩

end Sys2Proof.Machine

/-!
PROOF. A whole word written reads back, and no other byte changes what it reads as (O10).
-/

namespace Sys2Proof.Machine

/-! ## What a word holds beneath its poison -/

/-- No write has reached the page of a local address, and it lies below 3 GiB (R334). -/
def blankPage (c : Chip) (mc loc : Nat) : Bool :=
  loc / 4096 < pagesBelow && !c.written.contains (pageKey mc (loc / 4096))

/-- The byte that a controller holds at a local address, zero in a blank page (R335). -/
def heldByte (c : Chip) (mc loc : Nat) : Byte := if blankPage c mc loc then 0#8 else Memory.get c.ram (ramKey mc loc)

/-- No reader of a word takes what it holds: its controller is out of service, its page is lost, or the word is poisoned or
fails its link CRC. -/
def unreadable (c : Chip) (mc loc : Nat) : Bool :=
  (!mcOk c mc || lostPage c mc (loc / 4096)) ||
    (c.poison.contains (wordKey mc (loc / 64)) || c.crcBad.contains (wordKey mc (loc / 64)))

theorem wordOn_eq (c : Chip) (mc loc : Nat) :
    wordOn c mc loc = if unreadable c mc loc then .poisoned else if blankPage c mc loc then .unwritten else .good := by
  unfold wordOn unreadable blankPage
  split
  · rename_i out
    rw [out, Bool.true_or, if_pos rfl]
  · rename_i out
    rw [Bool.eq_false_iff.mpr out, Bool.false_or]

/-- A place without a mirror reads as what its controller holds there, or as zero. -/
theorem byteAt_single (c : Chip) (mc loc : Nat) :
    byteAt c { mc := mc, loc := loc } = if unreadable c mc loc then 0#8 else heldByte c mc loc := by
  have word : wordAt c { mc := mc, loc := loc } = wordOn c mc loc := rfl
  unfold byteAt heldByte
  rw [word, wordOn_eq]
  cases unreadable c mc loc
  · cases blankPage c mc loc <;> rfl
  · rfl

/-! ## Keys of places -/

theorem ramKey_inj {mc mc' loc loc' : Nat} (h : loc < 2 ^ 32) (h' : loc' < 2 ^ 32) :
    ramKey mc' loc' = ramKey mc loc ↔ mc' = mc ∧ loc' = loc := by
  unfold ramKey
  omega

theorem pageKey_inj {mc mc' page page' : Nat} (h : page < 2 ^ 20) (h' : page' < 2 ^ 20) :
    pageKey mc' page' = pageKey mc page ↔ mc' = mc ∧ page' = page := by
  unfold pageKey
  omega

theorem wordKey_inj {mc mc' word word' : Nat} (h : word < 2 ^ 26) (h' : word' < 2 ^ 26) :
    wordKey mc' word' = wordKey mc word ↔ mc' = mc ∧ word' = word := by
  unfold wordKey
  omega

/-- The bytes of a page are those whose address lies in it. -/
theorem ramKey_in_page {mc mc' page loc : Nat} (h : page < 2 ^ 20) (h' : loc < 2 ^ 32) :
    ramKey mc (page * 4096) ≤ ramKey mc' loc ∧ ramKey mc' loc < ramKey mc (page * 4096 + 4096) ↔
      mc' = mc ∧ loc / 4096 = page := by
  unfold ramKey
  omega

/-! ## Writing bytes -/

/-- What a write of bytes may change is left out. -/
def Chip.unfilled (c : Chip) : Chip := { c with ram := [], written := [] }

theorem writeByteOn_unfilled (c : Chip) (mc loc : Nat) (b : Byte) : (writeByteOn c mc loc b).unfilled = c.unfilled := by
  unfold writeByteOn
  split
  · rfl
  · dsimp only
    split <;> rfl

/-- A write of bytes leaves what depends on the rest of the chip. -/
theorem of_unfilled {α : Type} (f : Chip → α) (hf : ∀ x : Chip, f x.unfilled = f x) {c d : Chip}
    (same : d.unfilled = c.unfilled) : f d = f c := by rw [← hf d, ← hf c, same]

section
variable {c : Chip} {mc loc : Nat}

theorem blankPage_same {mc' loc' : Nat} (same : mc' = mc ∧ loc' / 4096 = loc / 4096) :
    blankPage c mc' loc' = blankPage c mc loc := by
  rw [blankPage, blankPage, same.1, same.2]

section
variable (ok : mcOk c mc = true)
include ok

/-- The first write to a page of a controller in service writes zeros to the rest of it (R335). -/
theorem writeByteOn_blank (blank : blankPage c mc loc = true) (b : Byte) : writeByteOn c mc loc b =
    { c with
      ram := Memory.set (Memory.dropRange c.ram (ramKey mc (loc / 4096 * 4096)) (ramKey mc (loc / 4096 * 4096 + 4096)))
        (ramKey mc loc) b
      written := pageKey mc (loc / 4096) :: c.written } :=
  (if_neg (by simp [ok])).trans (if_pos blank)

theorem writeByteOn_written (written : blankPage c mc loc = false) (b : Byte) : writeByteOn c mc loc b =
    { c with ram := Memory.set c.ram (ramKey mc loc) b } :=
  (if_neg (by simp [ok])).trans (if_neg (Bool.eq_false_iff.mp written))

theorem writeByteOn_wf (wf : Memory.wf c.ram = true) (b : Byte) : Memory.wf (writeByteOn c mc loc b).ram = true := by
  cases page : blankPage c mc loc
  · rw [writeByteOn_written ok page]
    exact Memory.wf_set _ _ wf
  · rw [writeByteOn_blank ok page]
    exact Memory.wf_set _ _ (Memory.wf_dropRange _ _ wf)

/-- A page that a write reaches is blank no longer; every other is as it was. -/
theorem blankPage_writeByteOn {mc' loc' : Nat} (h : loc < 2 ^ 32) (h' : loc' < 2 ^ 32) (b : Byte) :
    blankPage (writeByteOn c mc loc b) mc' loc' =
      if mc' = mc ∧ loc' / 4096 = loc / 4096 then false else blankPage c mc' loc' := by
  have key := pageKey_inj (mc := mc) (mc' := mc') (page := loc / 4096) (page' := loc' / 4096) (by omega) (by omega)
  cases page : blankPage c mc loc
  · rw [writeByteOn_written ok page]
    split
    · rename_i same
      exact (blankPage_same same).trans page
    · rfl
  · rw [writeByteOn_blank ok page]
    unfold blankPage
    rw [List.contains_cons]
    split
    · rename_i same
      simp [key.mpr same]
    · rename_i other
      rw [beq_false_of_ne (mt key.mp other), Bool.false_or]

theorem get_writeByteOn {mc' loc' : Nat} (wf : Memory.wf c.ram = true) (h : loc < 2 ^ 32) (h' : loc' < 2 ^ 32) (b : Byte) :
    Memory.get (writeByteOn c mc loc b).ram (ramKey mc' loc') =
      if mc' = mc ∧ loc' = loc then b
      else if blankPage c mc loc = true ∧ mc' = mc ∧ loc' / 4096 = loc / 4096 then 0#8
      else Memory.get c.ram (ramKey mc' loc') := by
  cases page : blankPage c mc loc
  · rw [writeByteOn_written ok page, Memory.get_set wf]
    simp [ramKey_inj h h']
  · rw [writeByteOn_blank ok page, Memory.get_set (Memory.wf_dropRange _ _ wf), Memory.get_dropRange ((Memory.wf_iff _).mp wf)]
    simp [ramKey_inj h h', ramKey_in_page (show loc / 4096 < 2 ^ 20 by omega) h']

/-- A byte written on a controller in service is held there, and every other byte is held as before: a first write fills the rest
of its page with the zeros that it read as. -/
theorem heldByte_writeByteOn {mc' loc' : Nat} (wf : Memory.wf c.ram = true) (h : loc < 2 ^ 32) (h' : loc' < 2 ^ 32) (b : Byte) :
    heldByte (writeByteOn c mc loc b) mc' loc' = if mc' = mc ∧ loc' = loc then b else heldByte c mc' loc' := by
  unfold heldByte
  rw [blankPage_writeByteOn ok h h', get_writeByteOn ok wf h h']
  by_cases here : mc' = mc ∧ loc' = loc
  · obtain ⟨rfl, rfl⟩ := here
    simp
  · by_cases same : mc' = mc ∧ loc' / 4096 = loc / 4096
    · rw [if_pos same, if_neg here, if_neg here, blankPage_same same]
      simp [same]
    · simp [here, same]

end

end

/-! ## Writing a word -/

/-- The first n bytes of a word written on a controller. -/
def writeRun (c : Chip) (mc loc : Nat) (d : List Byte) (n : Nat) : Chip :=
  (List.range n).foldl (fun c i => writeByteOn c mc (loc + i) (nth d i)) c

section
variable {c : Chip} {mc loc : Nat}

theorem writeRun_succ (d : List Byte) (n : Nat) :
    writeRun c mc loc d (n + 1) = writeByteOn (writeRun c mc loc d n) mc (loc + n) (nth d n) := by
  unfold writeRun
  rw [List.range_succ, List.foldl_append]
  rfl

theorem writeRun_unfilled (d : List Byte) (n : Nat) : (writeRun c mc loc d n).unfilled = c.unfilled :=
  foldl_keeps Chip.unfilled _ (fun c i => writeByteOn_unfilled c mc (loc + i) (nth d i)) (List.range n) c

theorem writeRun_ok (ok : mcOk c mc = true) (d : List Byte) (n : Nat) : mcOk (writeRun c mc loc d n) mc = true :=
  (of_unfilled (mcOk · mc) (fun _ => rfl) (writeRun_unfilled d n)).trans ok

theorem writeRun_wf (ok : mcOk c mc = true) (wf : Memory.wf c.ram = true) (d : List Byte) (n : Nat) :
    Memory.wf (writeRun c mc loc d n).ram = true := by
  induction n with
  | zero => exact wf
  | succ n ih =>
    rw [writeRun_succ]
    exact writeByteOn_wf (writeRun_ok ok d n) ih _

/-- Bytes written in a row are held in their order, and every other byte is held as before. -/
theorem heldByte_writeRun (ok : mcOk c mc = true) (wf : Memory.wf c.ram = true) (d : List Byte) {n : Nat}
    (fits : loc + n ≤ 2 ^ 32) (mc' : Nat) {loc' : Nat} (h' : loc' < 2 ^ 32) :
    heldByte (writeRun c mc loc d n) mc' loc' =
      if mc' = mc ∧ loc ≤ loc' ∧ loc' < loc + n then nth d (loc' - loc) else heldByte c mc' loc' := by
  induction n with
  | zero => exact (if_neg (by omega)).symm
  | succ n ih =>
    rw [writeRun_succ, heldByte_writeByteOn (writeRun_ok ok d n) (writeRun_wf ok wf d n) (by omega) h', ih (by omega)]
    by_cases last : mc' = mc ∧ loc' = loc + n
    · rw [if_pos last, if_pos (by omega), last.2, Nat.add_sub_cancel_left]
    · have earlier : mc' = mc ∧ loc ≤ loc' ∧ loc' < loc + (n + 1) ↔ mc' = mc ∧ loc ≤ loc' ∧ loc' < loc + n := by omega
      rw [if_neg last]
      simp only [earlier]

/-- Writing a whole word writes its bytes and clears its poison (R337). -/
theorem writeThrough_word (aligned : loc % 64 = 0) {d : List Byte} (word : d.length = 64) :
    writeThrough c (fun o => { mc := mc, loc := o }) loc d = clearPoison (writeRun c mc loc d 64) { mc := mc, loc := loc } := by
  have starts : wordStarts loc 64 = [loc] := by
    have one : (loc + 64 - 1) / 64 - loc / 64 + 1 = 1 := by omega
    unfold wordStarts
    rw [if_neg (by decide), one]
    rfl
  unfold writeThrough
  rw [word, starts]
  exact if_pos (by simp [aligned])

theorem heldByte_clearPoison (c : Chip) (p : Place) (mc loc : Nat) : heldByte (clearPoison c p) mc loc = heldByte c mc loc := rfl

/-- Clearing the poison of a word leaves the poison of every other. -/
theorem clearPoison_contains (c : Chip) {mc' word : Nat} (h : loc < 2 ^ 32) (h' : word < 2 ^ 26) :
    (clearPoison c { mc := mc, loc := loc }).poison.contains (wordKey mc' word) =
      (c.poison.contains (wordKey mc' word) && !(decide (mc' = mc) && decide (word = loc / 64))) := by
  have key := wordKey_inj (mc := mc) (mc' := mc') (show loc / 64 < 2 ^ 26 by omega) h'
  simp [clearPoison, key]

/-- The word that a whole write covers can be read where its controller, its page and its link allow it. -/
theorem unreadable_clearPoison_same (ok : mcOk c mc = true) (kept : lostPage c mc (loc / 4096) = false)
    (sound : c.crcBad.contains (wordKey mc (loc / 64)) = false) (h : loc < 2 ^ 32) {loc' : Nat} (same : loc' / 64 = loc / 64) :
    unreadable (clearPoison c { mc := mc, loc := loc }) mc loc' = false := by
  have samePage : loc' / 4096 = loc / 4096 := by omega
  have clean := clearPoison_contains (mc := mc) (mc' := mc) c h (show loc / 64 < 2 ^ 26 by omega)
  rw [decide_eq_true rfl, decide_eq_true rfl, Bool.and_self, Bool.not_true, Bool.and_false] at clean
  show ((!mcOk c mc || lostPage c mc (loc' / 4096)) || (_ || c.crcBad.contains (wordKey mc (loc' / 64)))) = false
  rw [samePage, same, ok, kept, sound, clean]
  rfl

theorem unreadable_clearPoison_other {mc' loc' : Nat} (h : loc < 2 ^ 32) (h' : loc' < 2 ^ 32)
    (other : ¬(mc' = mc ∧ loc' / 64 = loc / 64)) :
    unreadable (clearPoison c { mc := mc, loc := loc }) mc' loc' = unreadable c mc' loc' := by
  have left := clearPoison_contains (mc := mc) (mc' := mc') c h (show loc' / 64 < 2 ^ 26 by omega)
  rw [← Bool.decide_and, decide_eq_false other, Bool.not_false, Bool.and_true] at left
  show ((!mcOk c mc' || lostPage c mc' (loc' / 4096)) || (_ || c.crcBad.contains (wordKey mc' (loc' / 64)))) = _
  rw [left]
  rfl

end

/-- Settles O10: each byte of the word is held as it was written, its word has lost its poison, and no other word has changed. -/
theorem wordsReadBack : Obligations.WordsReadBack := by
  intro c m loc d ok kept aligned length fits wf sound place c'
  have written : c' = clearPoison (writeRun c m loc d 64) { mc := m, loc := loc } := writeThrough_word aligned length
  have same := writeRun_unfilled (c := c) (mc := m) (loc := loc) d 64
  have held : ∀ m' {loc'}, loc' < 2 ^ 32 → heldByte c' m' loc' =
      if m' = m ∧ loc ≤ loc' ∧ loc' < loc + 64 then nth d (loc' - loc) else heldByte c m' loc' := fun m' _ h => by
    rw [written, heldByte_clearPoison, heldByte_writeRun ok wf d fits m' h]
  refine ⟨fun i within => ?_, fun m' loc' h outside => ?_⟩
  · have here : m = m ∧ loc ≤ loc + i ∧ loc + i < loc + 64 := by omega
    have readable : unreadable c' m (loc + i) = false := by
      rw [written]
      exact unreadable_clearPoison_same (writeRun_ok ok d 64)
        ((of_unfilled (lostPage · m (loc / 4096)) (fun _ => rfl) same).trans kept)
        ((of_unfilled (·.crcBad.contains (wordKey m (loc / 64))) (fun _ => rfl) same).trans sound) (by omega) (by omega)
    rw [byteAt_single, readable, held m (by omega), if_pos here, Nat.add_sub_cancel_left]
    rfl
  · have elsewhere : ¬(m' = m ∧ loc ≤ loc' ∧ loc' < loc + 64) := by omega
    have others : unreadable c' m' loc' = unreadable c m' loc' := by
      rw [written, unreadable_clearPoison_other (by omega) h (by omega), of_unfilled (unreadable · m' loc') (fun _ => rfl) same]
    rw [byteAt_single, byteAt_single, others, held m' h, if_neg elsewhere]

end Sys2Proof.Machine

/-!
PROOF. Refresh debt, the activation tables and the refresh rate of a hot device (O50).
-/

namespace Sys2Proof.Machine

/-! ## Refresh debt (R321) -/

/-- What a refresh that waits adds to the debt of a bank of a controller, in half intervals. -/
def intervalOwed (c : Chip) (mc : Nat) : Nat := if (nth c.mcs mc).doubled then 1 else 2

section
variable {c : Chip} {mc ch bank : Nat} (ok : mcOk c mc = true)
include ok

theorem refreshDue_issued : refreshDue mc ch bank false c = setBank c { bankOf c mc ch bank with debt := 0 } :=
  if_neg (by simp [ok])

theorem refreshDue_postponed (within : (bankOf c mc ch bank).debt + intervalOwed c mc ≤ debtLimit (nth c.mcs mc).doubled) :
    refreshDue mc ch bank true c = count (setBank c { bankOf c mc ch bank with
      debt := (bankOf c mc ch bank).debt + intervalOwed c mc }) (80 + mc) 0x0308 1 :=
  (if_neg (by simp [ok])).trans (if_neg (Nat.not_lt.mpr within))

theorem refreshDue_spent (spent : debtLimit (nth c.mcs mc).doubled < (bankOf c mc ch bank).debt + intervalOwed c mc) :
    refreshDue mc ch bank true c = c :=
  (if_neg (by simp [ok])).trans (if_pos spent)

end

/-! ## Row-hammer protection (R320) -/

/-- An activation of a row is entered in the table of its bank and counted. -/
def entered (c : Chip) (mc ch bank row : Nat) : Chip :=
  count (setBank c { bankOf c mc ch bank with rows := noteActivation (bankOf c mc ch bank).rows row }) (80 + mc) 0x0306 1

/-- The activation brings the count of its row to the threshold. -/
def hammers (c : Chip) (mc ch bank row : Nat) : Bool :=
  (noteActivation (bankOf c mc ch bank).rows row).any (fun x => x.1 = row && x.2 = c.cfg.hammerThreshold)

/-- The row's count starts again from 0. -/
def unhammered (c : Chip) (mc ch bank row : Nat) : Chip :=
  setBank c { bankOf c mc ch bank with
    rows := (bankOf c mc ch bank).rows.map (fun x => if x.1 = row then (x.1, 0) else x) }

section
variable {c : Chip} {mc ch bank row : Nat}

/-- Entering an activation leaves the threshold as it is configured. -/
theorem entered_cfg : (entered c mc ch bank row).cfg = c.cfg := count_cfg ..

theorem activate_entered (fuel : Nat) (few : hammers c mc ch bank row = false) :
    activate (fuel + 1) mc ch bank c row = entered c mc ch bank row := by
  refine if_pos ?_
  show (!(noteActivation _ row).any (fun x => x.1 = row && x.2 = (entered c mc ch bank row).cfg.hammerThreshold)) = true
  rw [entered_cfg, ← hammers, few]
  rfl

theorem activate_mitigated (fuel : Nat) (reached : hammers c mc ch bank row = true) :
    activate (fuel + 1) mc ch bank c row =
      raiseLimited (count (unhammered ((neighbours (entered c mc ch bank row) row).foldl (activate fuel mc ch bank)
          (entered c mc ch bank row)) mc ch bank row) (80 + mc) 0x0307 (neighbours (entered c mc ch bank row) row).length)
        0x7006 mc sec1 1 1 [w mc, 0] := by
  refine if_neg ?_
  show ¬(!(noteActivation _ row).any (fun x => x.1 = row && x.2 = (entered c mc ch bank row).cfg.hammerThreshold)) = true
  rw [entered_cfg, ← hammers, reached]
  exact nofun

theorem rowActivated_activates (ok : mcOk c mc = true) (present : row < bankRows c) :
    rowActivated mc ch bank row c = activate 130 mc ch bank c row :=
  if_neg (by simp [ok, present])

end

/-! ## Temperature (R322 to R324) -/

/-- A reading gives a controller its temperature, and counts in a row those of at most 80.0 °C. -/
def temperatureTaken (c : Chip) (mc : Nat) (t : Option Int) (cool : Bool) : Chip :=
  updMc c mc (fun m => { m with temp := t.getD m.temp, coolRun := if cool then min 100 (m.coolRun + 1) else 0 })

/-- Channels whose temperature has moved since they trained fall due for a pause (R324). -/
def movedPause (m : Mc) (mc : Nat) (c : Chip) : Chip :=
  startPauses ((movedChannels m).foldl (fun c ch => pauseFor c false mc ch) c)

/-- A reading is above 85.0 °C; one that fails counts as one (R322). -/
def isHot (t : Option Int) : Bool := match t with
  | some v => decide (170 < v)
  | none => true
/-- A reading is at most 80.0 °C. -/
def isCool (t : Option Int) : Bool := match t with
  | some v => decide (v ≤ 160)
  | none => false

theorem isHot_iff (t : Option Int) : isHot t = true ↔ ∀ v, t = some v → 170 < v := by cases t <;> simp [isHot]
theorem isCool_iff (t : Option Int) : isCool t = true ↔ ∃ v, t = some v ∧ v ≤ 160 := by cases t <;> simp [isCool]

/-- The refresh rate after a reading: it doubles at the first hot one, and comes back after 100 cool ones in a row. -/
def rateAfter (c : Chip) (mc : Nat) (hot : Bool) : Chip :=
  if hot && !(nth c.mcs mc).doubled then doubleRate mc c
  else if (nth c.mcs mc).doubled && (nth c.mcs mc).coolRun = 100 then
    rateEvent (updMc c mc (fun m => { m with doubled := false })) mc
  else c

section
variable {c : Chip} {mc : Nat}

theorem temperatureRead_rated (ok : mcOk c mc = true) (t : Option Int) {d : Chip} (taken : temperatureTaken c mc t (isCool t) = d) :
    temperatureRead mc t c = movedPause (nth d.mcs mc) mc (rateAfter d mc (isHot t)) := by
  subst taken
  cases t <;> exact if_neg (by simp [ok])

theorem rateAfter_slow (slow : (nth c.mcs mc).doubled = false) : rateAfter c mc false = c := by simp [rateAfter, slow]

theorem rateAfter_doubles (slow : (nth c.mcs mc).doubled = false) : rateAfter c mc true = doubleRate mc c := by
  simp [rateAfter, slow]

theorem rateAfter_fast (fast : (nth c.mcs mc).doubled = true) (few : (nth c.mcs mc).coolRun ≠ 100) (hot : Bool) :
    rateAfter c mc hot = c := by simp [rateAfter, fast, few]

theorem rateAfter_returns (fast : (nth c.mcs mc).doubled = true) (enough : (nth c.mcs mc).coolRun = 100) (hot : Bool) :
    rateAfter c mc hot = rateEvent (updMc c mc (fun m => { m with doubled := false })) mc := by simp [rateAfter, fast, enough]

end

/-- Settles O50: each command is its operation on a controller in service, by its bank's debt, its row's count or its reading. -/
theorem banksAreRefreshed : Obligations.BanksAreRefreshed := by
  intro s mc runs ok m
  refine ⟨fun ch bank => ?_, does_runLive rfl runs rfl, fun t hot cool => ?_⟩
  · intro b more limit
    refine ⟨does_runLive rfl runs (refreshDue_issued ok), fun within => does_runLive rfl runs (refreshDue_postponed ok within),
      fun spent => does_runLive rfl runs (refreshDue_spent ok spent), fun row present => ?_⟩
    intro rows c
    have acts := rowActivated_activates (ch := ch.val) (bank := bank.val) ok present
    exact ⟨fun few => does_runLive rfl runs (acts.trans (activate_entered 129 few)),
      fun reached => does_runLive rfl runs (acts.trans (activate_mitigated 129 reached))⟩
  · intro hotWhen coolWhen c n goesTo
    obtain rfl : hot = isHot t := Bool.eq_iff_iff.mpr (hotWhen.trans (isHot_iff t).symm)
    obtain rfl : cool = isCool t := Bool.eq_iff_iff.mpr (coolWhen.trans (isCool_iff t).symm)
    have read : temperatureRead mc.val t s.chip = movedPause n mc.val (rateAfter c mc.val (isHot t)) :=
      temperatureRead_rated ok t rfl
    have goes : ∀ {d}, rateAfter c mc.val (isHot t) = d → goesTo d := fun rate =>
      does_runLive rfl runs (read.trans (congrArg (movedPause n mc.val) rate))
    refine ⟨fun slow cold => goes ?_, fun slow hot => goes ?_, fun fast few => goes (rateAfter_fast fast few _),
      fun fast enough => goes (rateAfter_returns fast enough _)⟩
    · rw [cold]
      exact rateAfter_slow slow
    · rw [hot]
      exact rateAfter_doubles slow

end Sys2Proof.Machine

/-!
PROOF. Retraining, scrubbing, repair and the copying of a pair's pages (O51).
-/

namespace Sys2Proof.Machine

/-! ## Retraining (R324 to R326) -/

section
variable {c : Chip} {mc ch : Nat}

/-- A retraining falls due at its interval, or where the link retried more than 64 times in 1 ms. -/
theorem retrainDue_calls (ok : mcOk c mc = true) {retries : Nat} (calls : retries = 0 ∨ 64 < retries) (failed : Nat) :
    retrainDue mc ch retries failed c = startPauses (pauseFor (linkErrors c mc retries failed) false mc ch) :=
  (if_neg (by simp [ok])).trans (if_pos (by simpa using calls))

/-- Few retries are only counted. -/
theorem retrainDue_counts (ok : mcOk c mc = true) {retries : Nat} (positive : 0 < retries) (few : retries ≤ 64) (failed : Nat) :
    retrainDue mc ch retries failed c = linkErrors c mc retries failed :=
  (if_neg (by simp [ok])).trans (if_neg (by simpa using ⟨Nat.ne_of_gt positive, few⟩))

/-- The pause of a channel is over: the partner pays what it owes above its doubled limit. -/
def pauseOver (c : Chip) (mc : Nat) : Chip :=
  let partner := if mc % 2 = 0 then mc + 1 else mc - 1
  let c := updMc c mc (fun m => { m with paused := none })
  if (nth c.mcs partner).doubled then catchUp c partner else c

/-- The retraining of the pause that is over has failed. -/
def retrainFailed (c : Chip) (mc ch : Nat) : Chip := pauseFailed (pauseOver c mc) (nth c.mcs mc).pauseOfRun mc ch

/-- Failed retrainings of a channel in a row, with this one. -/
def failsNow (c : Chip) (mc ch : Nat) : Nat := look (nth c.mcs mc).retrainFails ch 0 + 1

theorem pauseEnd_other (other : (nth c.mcs mc).paused ≠ some ch) (pass : Bool) : pauseEnd mc ch pass c = c := if_pos other

section
variable (paused : (nth c.mcs mc).paused = some ch)
include paused

/-- A retraining that passes keeps its temperature and counts as a run of MEMORY. -/
theorem pauseEnd_passed : pauseEnd mc ch true c =
    startPauses (updCal (countRun (updMc (pauseOver c mc) mc (fun x => { x with
        trainTemps := (ch, (nth c.mcs mc).temp) :: (nth c.mcs mc).trainTemps.filter (fun t => t.1 ≠ ch)
        retrainFails := x.retrainFails.filter (fun f => f.1 ≠ ch) })) 4) 4
      (fun x => { x with
        stale := x.stale && (x.running || (nth c.mcs mc).pauseOfRun), lastFailed := x.lastFailed && (nth c.mcs mc).pauseOfRun })) :=
  if_neg (by simp [paused])

theorem pauseEnd_failed : pauseEnd mc ch false c =
    if failsNow c mc ch < 3 then
      startPauses (pauseFor (updMc (retrainFailed c mc ch) mc
          (fun x => { x with retrainFails := put x.retrainFails ch (failsNow c mc ch) }))
        ((nth c.mcs mc).pauseOfRun && (calDomain (retrainFailed c mc ch) 4).running) mc ch)
    else startPauses (mcFault mc 6
      (raise (retrainFailed c mc ch) 0x7008 [w (mc + ch * 16), w (failsNow c mc ch)])) :=
  if_neg (by simp [paused])

end

end

/-! ## Scrubbing (R326, R336, R337) -/

section
variable {c : Chip} {mc word : Nat}

/-- A word of class light or none that the device cannot correct is bad. -/
theorem deviceBad_light (light : (pageClass c mc (word / 64)).getD 0 ≠ 2) (scrub : Bool) :
    deviceBad c mc word scrub = foundBad c mc word scrub false := if_pos light

/-- On a strong word the controller's code may correct what the device cannot (R328). -/
theorem deviceBad_strong (strong : (pageClass c mc (word / 64)).getD 0 = 2) (scrub : Bool) : deviceBad c mc word scrub =
    if (drawBit c).1 then foundCorrected (drawBit c).2 mc word scrub (Memory.getBytes c.ram (ramKey mc (word * 64)) 64)
    else foundBad (drawBit c).2 mc word scrub false := if_neg (not_not.mpr strong)

section
variable (runs : running c = true) (ok : mcOk c mc = true)
include runs ok

theorem scrubVisit_serves : ¬(!running c || !mcOk c mc) = true := by simp [runs, ok]

theorem scrubVisit_clean : scrubVisit mc word .clean c = c := if_neg (scrubVisit_serves runs ok)

theorem scrubVisit_linkFailed :
    scrubVisit mc word (.uncorrectable true) c = foundBad (linkErrors c mc 4 1) mc word false true :=
  if_neg (scrubVisit_serves runs ok)

theorem scrubVisit_passEnd (on : (nth c.mcs mc).scrubS ≠ 0) (t : U32) : scrubVisit mc word (.passEnd t) c =
    raise (updMc c mc (fun m => { m with scrubCorrected := 0, scrubBad := 0 })) 0x7009
      [w mc, t, w (nth c.mcs mc).scrubCorrected, w (nth c.mcs mc).scrubBad] :=
  (if_neg (scrubVisit_serves runs ok)).trans (if_neg on)

section
variable (visits : (nth c.mcs mc).scrubS ≠ 0 ∧ scrubbed c mc word = true)
include visits

theorem scrubVisit_corrected (d : List Byte) : scrubVisit mc word (.corrected d) c = foundCorrected c mc word true d :=
  (if_neg (scrubVisit_serves runs ok)).trans (if_pos (by simp [visits]))

theorem scrubVisit_uncorrectable : scrubVisit mc word (.uncorrectable false) c = deviceBad c mc word true :=
  (if_neg (scrubVisit_serves runs ok)).trans (if_pos (by simp [visits]))

theorem scrubVisit_strong (strong : (pageClass c mc (word / 64)).getD 0 = 2) (errors : List (Fin 72 × Byte)) :
    scrubVisit mc word (.strong false errors) c = strongRead c mc word true errors :=
  (if_neg (scrubVisit_serves runs ok)).trans (if_pos (by simp [visits, strong]))

end

section
variable (reads : deviceRead c mc word = true)
include reads

theorem scrubVisit_readCrc : scrubVisit mc word .readCrc c = crcRead c mc word :=
  (if_neg (scrubVisit_serves runs ok)).trans (if_pos reads)

theorem scrubVisit_readStrong (strong : (pageClass c mc (word / 64)).getD 0 = 2) (errors : List (Fin 72 × Byte)) :
    scrubVisit mc word (.strong true errors) c = strongRead c mc word false errors :=
  (if_neg (scrubVisit_serves runs ok)).trans (if_pos (by simp [reads, strong]))

section
variable (coded : (pageClass c mc (word / 64)).getD 0 ≠ 0)
include coded

theorem scrubVisit_readCorrected (d : List Byte) :
    scrubVisit mc word (.readCorrected d) c = foundCorrected c mc word false d :=
  (if_neg (scrubVisit_serves runs ok)).trans (if_pos (by simp [reads, coded]))

theorem scrubVisit_readUncorrectable : scrubVisit mc word .readUncorrectable c = deviceBad c mc word false :=
  (if_neg (scrubVisit_serves runs ok)).trans (if_pos (by simp [reads, coded]))

end

section
variable (uncoded : (pageClass c mc (word / 64)).getD 0 = 0)
include uncoded

/-- What the device reports of a word of class none is counted only (Table 11-6). -/
theorem scrubVisit_readCorrected_none (d : List Byte) : scrubVisit mc word (.readCorrected d) c = reported c mc :=
  (if_neg (scrubVisit_serves runs ok)).trans ((if_neg (by simp [uncoded])).trans (if_pos reads))

theorem scrubVisit_readUncorrectable_none : scrubVisit mc word .readUncorrectable c = reported c mc :=
  (if_neg (scrubVisit_serves runs ok)).trans ((if_neg (by simp [uncoded])).trans (if_pos reads))

end

end

end

end

/-- Only a read that fails its link CRC has the next command meet it (log 99). -/
theorem does_scrubVisit {s : State} (runs : running s.chip = true) {mc : Fin 16} {word : Nat} {f : ScrubFinding}
    {c : Chip} (h : scrubVisit mc.val word f s.chip = c) (link : f ≠ .readCrc) : Does (.scrubVisit mc word f) s c :=
  does_runLive (f := scrubVisit mc.val word f) (congrArg _ (if_neg (by simp [link]))) runs h

/-- A read that fails its link CRC in every retry is met by the next command. -/
theorem exec_scrubVisit_readCrc {s : State} (runs : running s.chip = true) {mc : Fin 16} (ok : mcOk s.chip mc.val = true)
    {word : Nat} (reads : deviceRead s.chip mc.val word = true) {t : State}
    (read : t = settleAborts (flush { s with chip := crcRead s.chip mc.val word })) :
    exec (.scrubVisit mc word .readCrc) s = .next { t with chip := { t.chip with crcBad := [wordKey mc.val word] } } := by
  have after : s.runLive (scrubVisit mc.val word .readCrc) = t := by
    rw [State.runLive, if_pos runs, State.run, scrubVisit_readCrc runs ok reads, read]
  show Host.Outcome.next (failNext mc.val word .readCrc s (s.runLive (scrubVisit mc.val word .readCrc))) = _
  rw [after]
  exact congrArg _ (if_pos (by simp [runs, reads, ok]))

/-! ## Repair (R333, R337, R338) -/

/-- The Stationmaster's part of a repair: the source that now stands gives the word, or the repair has failed. -/
def repairFrom (c : Chip) (mc word repair : Nat) : Chip :=
  match repairSource c mc word, areaOfPage c mc (word / 64), matchingCopy c with
  | 1, some a, some x => repairedEvent (reloadPage c a x mc word) mc word repair
  | 2, _, _ => repairedEvent (clearPage c mc (word / 64)) mc word repair
  | _, _, _ => uncorrectable c mc word false false 3

section
variable {c : Chip} {mc word n : Nat}

theorem repairFrom_copy {a : Area} {x : Persist} (copy : repairSource c mc word = 1) (area : areaOfPage c mc (word / 64) = some a)
    (matching : matchingCopy c = some x) : repairFrom c mc word n = repairedEvent (reloadPage c a x mc word) mc word n := by
  simp [repairFrom, copy, area, matching]

theorem repairFrom_store (stored : repairSource c mc word = 2) :
    repairFrom c mc word n = repairedEvent (clearPage c mc (word / 64)) mc word n := by
  simp [repairFrom, stored]

theorem repairFrom_none (lost : repairSource c mc word = 3) : repairFrom c mc word n = uncorrectable c mc word false false 3 := by
  simp [repairFrom, lost]

section
variable (ok : mcOk c mc = true) (poisoned : c.poison.contains (wordKey mc word) = true)
include ok poisoned

theorem repairWord_due : ¬(!mcOk c mc || !c.poison.contains (wordKey mc word)) = true := by
  rw [ok, poisoned]
  exact nofun

/-- The repair of a word that a mirror serves takes the other track's bytes, where it can still be read. -/
theorem repairWord_mirror {r : Nat} (mirror : c.repairs.find? (fun x => x.1 = wordKey mc word) = some (r, 0)) :
    repairWord mc word c = if otherGood c mc word = false then uncorrectable c mc word false false 3 else repairedEvent
      { clearWord c mc word with
        ram := Memory.setBytes c.ram (ramKey mc (word * 64)) (Memory.getBytes c.ram (ramKey (otherTrack mc) (word * 64)) 64) }
      mc word 0 := by
  unfold repairWord
  dsimp only
  rw [if_neg (repairWord_due ok poisoned), mirror]
  cases otherGood c mc word <;> rfl

theorem repairWord_sourced {r : Nat} (under : c.repairs.find? (fun x => x.1 = wordKey mc word) = some (r, n + 1))
    (serves : smServes c = true) : repairWord mc word c = repairFrom c mc word (n + 1) := by
  unfold repairWord
  dsimp only
  rw [if_neg (repairWord_due ok poisoned), under]
  exact if_neg (by simp [serves])

end

end

/-! ## The copying of a pair's pages (R389) -/

/-- The page takes the other member's bytes and poison. -/
def pageTaken (c : Chip) (mc other page : Nat) : Chip :=
  { c with
    ram := Memory.setBytes c.ram (ramKey mc (page * 4096)) (Memory.getBytes c.ram (ramKey other (page * 4096)) 4096)
    poison := (c.poison.filter (fun k => wordKey other (page * 64) ≤ k && k < wordKey other (page * 64 + 64))).map
        (fun k => k - wordKey other 0 + wordKey mc 0) ++
      c.poison.filter (fun k => k < wordKey mc (page * 64) || wordKey mc (page * 64 + 64) ≤ k)
    written := if c.written.contains (pageKey other page) && !c.written.contains (pageKey mc page)
      then pageKey mc page :: c.written else c.written }

section
variable {c : Chip} {mc other page : Nat} (pair : other = if mc % 2 = 0 then mc + 1 else mc - 1)
  (copying : (nth c.mcs mc).copying = true) (ok : mcOk c mc = true) (partner : mcOk c other = true)
  (twin : twinPage c mc page = true) (passed : uncopied c other page = false)
include pair copying ok partner twin passed

theorem bulkCopy_copies : ¬(!(nth c.mcs mc).copying || !mcOk c mc || !mcOk c (if mc % 2 = 0 then mc + 1 else mc - 1) ||
    !twinPage c mc page || uncopied c (if mc % 2 = 0 then mc + 1 else mc - 1) page) = true := by
  rw [← pair, copying, ok, partner, twin, passed]
  exact nofun

/-- A page that the other member has lost stays lost (R381). -/
theorem bulkCopy_lost (lost : lostPage c other page = true) :
    bulkCopy mc page c = updMc c mc (fun m => { m with copied := page :: m.copied }) :=
  (if_neg (bulkCopy_copies pair copying ok partner twin passed)).trans (if_pos (pair ▸ lost))

theorem bulkCopy_takes (kept : lostPage c other page = false) :
    bulkCopy mc page c = updMc (pageTaken c mc other page) mc (fun m => { m with copied := page :: m.copied }) := by
  subst pair
  exact (if_neg (bulkCopy_copies rfl copying ok partner twin passed)).trans (if_neg (Bool.eq_false_iff.mp kept))

end

/-- Settles O51: each command is its operation on a controller in service, by what is due, found, under repair or copied. -/
theorem wordsAreKept : Obligations.WordsAreKept := by
  intro s mc runs ok m
  refine ⟨fun ch n f => ?_, fun ch => ?_, fun word => ?_, fun word poisoned => ?_, fun page => ?_⟩
  · intro kept k c
    exact ⟨fun calls => does_runLive rfl runs (retrainDue_calls ok calls f),
      fun positive few => does_runLive rfl runs (retrainDue_counts ok positive few f)⟩
  · intro partner c0 c n failed
    exact ⟨fun paused => does_runLive rfl runs (pauseEnd_passed paused),
      fun paused again => does_runLive rfl runs ((pauseEnd_failed paused).trans (if_pos again)),
      fun paused third => does_runLive rfl runs ((pauseEnd_failed paused).trans (if_neg (Nat.not_lt.mpr third))),
      fun pass other => does_runLive rfl runs (pauseEnd_other other pass)⟩
  · intro visits cls stored fixed
    have finds {f : ScrubFinding} {c : Chip} (h : scrubVisit mc.val word f s.chip = c) (link : f ≠ .readCrc) :
        Does (.scrubVisit mc word f) s c := does_scrubVisit runs h link
    refine ⟨finds (scrubVisit_clean runs ok) nofun,
      fun d v => finds (scrubVisit_corrected runs ok v d) nofun,
      fun v light => finds ((scrubVisit_uncorrectable runs ok v).trans (deviceBad_light light true)) nofun,
      fun v strong => finds ((scrubVisit_uncorrectable runs ok v).trans (deviceBad_strong strong true)) nofun,
      finds (scrubVisit_linkFailed runs ok) nofun,
      fun errors v strong => finds (scrubVisit_strong runs ok v strong errors) nofun,
      fun d reads coded => finds (scrubVisit_readCorrected runs ok reads coded d) nofun,
      fun reads light => ?_, fun reads strong => ?_,
      fun d reads uncoded => ⟨finds (scrubVisit_readCorrected_none runs ok reads uncoded d) nofun,
        finds (scrubVisit_readUncorrectable_none runs ok reads uncoded) nofun⟩,
      fun errors reads strong => finds (scrubVisit_readStrong runs ok reads strong errors) nofun,
      fun reads => exec_scrubVisit_readCrc runs ok reads rfl,
      fun t on => finds (scrubVisit_passEnd runs ok on t) nofun⟩
    · have coded : cls ≠ 0 := by omega
      have notStrong : cls ≠ 2 := by omega
      exact finds ((scrubVisit_readUncorrectable runs ok reads coded).trans (deviceBad_light notStrong false)) nofun
    · have coded : cls ≠ 0 := by omega
      exact finds ((scrubVisit_readUncorrectable runs ok reads coded).trans (deviceBad_strong strong false)) nofun
  · refine ⟨fun r mirror => ?_, fun r n under serves => ?_⟩
    · have repairs := repairWord_mirror ok poisoned mirror
      exact ⟨fun good => does_runLive rfl runs (repairs.trans (if_neg (by simp [good]))),
        fun bad => does_runLive rfl runs (repairs.trans (if_pos bad))⟩
    · have repairs := repairWord_sourced ok poisoned under serves
      exact ⟨fun a x copy area matching => does_runLive rfl runs (repairs.trans (repairFrom_copy copy area matching)),
        fun stored => does_runLive rfl runs (repairs.trans (repairFrom_store stored)),
        fun lost => does_runLive rfl runs (repairs.trans (repairFrom_none lost))⟩
  · intro other copying partner twin passed
    exact ⟨fun lost => does_run rfl (bulkCopy_lost rfl copying ok partner twin passed lost),
      fun kept => does_run rfl (bulkCopy_takes rfl copying ok partner twin passed kept)⟩

end Sys2Proof.Machine

/-!
PROOF. PTP messages (O56), and the signals of the time unit with `time_set` and TIM_STATUS (O57).
-/

namespace Sys2Proof.Machine

/-! ## A PTP message at its port (R361, R362) -/

theorem ptpMessage_otherVlan {c : Chip} {ep : Nat} {m : PtpMsg} (other : m.vlan.toNat ≠ c.cfg.mgmtVlan) :
    ptpMessage ep m c = c := if_pos (by simp [other])

/-- The chip when a message has crossed its port, with the message counted as one that is not supported. -/
def unsupportedCounted (c : Chip) (m : PtpMsg) : Chip :=
  updTime (advanceFine c m.crossing) (fun t => { t with unsupported := w32 (t.unsupported + 1) })

section
variable {c : Chip} {ep : Nat} {m : PtpMsg} (on : ptpOn c ep = true) (vlan : m.vlan.toNat = c.cfg.mgmtVlan)
include on vlan

theorem ptpMessage_heard : ¬(!ptpOn c ep || m.vlan.toNat ≠ c.cfg.mgmtVlan) = true := by simp [on, vlan]

section
variable (unsupported : ptpSupported m = false)
include unsupported

theorem ptpMessage_unsupported : ptpMessage ep m c =
    if m.udp && m.domain.toNat = ptpDomain (unsupportedCounted c m) && (announced (unsupportedCounted c m) ep m).isSome then
      chooseMaster (updTime (unsupportedCounted c m) (fun t => { t with masters := forget ep m t.masters }))
    else unsupportedCounted c m :=
  (if_neg (ptpMessage_heard on vlan)).trans (if_pos (by simp [unsupported]))

/-- An Announce that is not supported takes its sender out of the comparison. -/
theorem ptpMessage_forgets (udp : m.udp = true) (domain : m.domain.toNat = ptpDomain (unsupportedCounted c m))
    (announces : announced (unsupportedCounted c m) ep m ≠ none) : ptpMessage ep m c =
      chooseMaster (updTime (unsupportedCounted c m) (fun t => { t with masters := forget ep m t.masters })) :=
  (ptpMessage_unsupported on vlan unsupported).trans
    (if_pos (by simp [udp, domain, Option.isSome_iff_ne_none.mpr announces]))

theorem ptpMessage_counts (otherwise : m.udp = false ∨ m.domain.toNat ≠ ptpDomain (unsupportedCounted c m) ∨
    announced (unsupportedCounted c m) ep m = none) : ptpMessage ep m c = unsupportedCounted c m := by
  refine (ptpMessage_unsupported on vlan unsupported).trans (if_neg ?_)
  rcases otherwise with plain | domain | silent
  · simp [plain]
  · simp [domain]
  · simp [silent]

end

section
variable (supported : ptpSupported m = true)
include supported

theorem ptpMessage_otherDomain (other : m.domain.toNat ≠ ptpDomain (advanceFine c m.crossing) ∨
    m.source = (advanceFine c m.crossing).shadow.deviceId) : ptpMessage ep m c = advanceFine c m.crossing :=
  (if_neg (ptpMessage_heard on vlan)).trans ((if_neg (by simp [supported])).trans (if_pos (by simpa using other)))

theorem ptpMessage_taken (domain : m.domain.toNat = ptpDomain (advanceFine c m.crossing))
    (foreign : m.source ≠ (advanceFine c m.crossing).shadow.deviceId) :
    ptpMessage ep m c = ptpTaken ep m (advanceFine c m.crossing) :=
  (if_neg (ptpMessage_heard on vlan)).trans ((if_neg (by simp [supported])).trans (if_neg (by simp [domain, foreign])))

end

end

/-! ## What a message of the domain does (R362 to R364) -/

section
variable {c : Chip} {ep : Nat} {m : PtpMsg}

theorem ptpTaken_announce {scale : Bool} {p1 cls acc p2 : Byte} {var steps utc : U16} {gm : U64} {interval : Nat}
    (body : m.body = .announce scale p1 cls acc var p2 gm steps utc interval) : ptpTaken ep m c =
      chooseMaster (updTime c (fun t => { t with masters :=
        { ep := ep, source := m.source, sourcePort := m.sourcePort.toNat, priority1 := p1.toNat, clockClass := cls.toNat
          accuracy := acc.toNat, variance := var.toNat, priority2 := p2.toNat, ident := gm, steps := steps.toNat
          utcOffset := utc.toNat, lapses := nowNs c + 3 * interval } :: forget ep m t.masters })) := by
  unfold ptpTaken announced
  rw [body]
  rfl

section
variable {twoStep : Bool} {t1 : Int} (body : m.body = .sync twoStep t1)
include body

theorem ptpTaken_sync (chosen : fromChosen c ep m = true) : ptpTaken ep m c =
    updTime (stampNow c ep).2 (fun t => { t with
      t1 := if twoStep then none else some t1, syncWaits := twoStep, syncSeq := m.seq, t2raw := (stampNow c ep).1
      cSync := m.corr }) := by
  unfold ptpTaken
  rw [body]
  exact if_neg (by simp [chosen])

theorem ptpTaken_sync_other (other : fromChosen c ep m = false) : ptpTaken ep m c = c := by
  unfold ptpTaken
  rw [body]
  exact if_pos (by simp [other])

end

section
variable {t1 : Int} (body : m.body = .followUp t1)
include body

theorem ptpTaken_followUp (chosen : fromChosen c ep m = true) (waits : c.time.syncWaits = true)
    (seq : m.seq = c.time.syncSeq) : ptpTaken ep m c =
      updTime c (fun t => { t with t1 := some t1, syncWaits := false, cSync := t.cSync + m.corr }) := by
  unfold ptpTaken
  rw [body]
  exact if_neg (by simp [chosen, waits, seq])

theorem ptpTaken_followUp_other
    (other : fromChosen c ep m = false ∨ c.time.syncWaits = false ∨ m.seq ≠ c.time.syncSeq) : ptpTaken ep m c = c := by
  unfold ptpTaken
  rw [body]
  exact if_pos (by simpa [or_assoc] using other)

end

section
variable {t4 : Int} {id : U64} {port : U16} (body : m.body = .delayResp t4 id port)
include body

theorem ptpTaken_delayResp (chosen : fromChosen c ep m = true) (own : (id, port) = ownPort c ep)
    (seq : m.seq = c.time.delaySeq) {t1 t3 : Int} (sync : c.time.t1 = some t1) (sent : c.time.t3raw = some t3) :
    ptpTaken ep m c =
      (let x := measure c ep t1 c.time.t2raw t3 t4 c.time.cSync m.corr
       takeMeasurement (updTime c (fun t => { t with t3raw := none })) x.1 x.2) := by
  unfold ptpTaken
  rw [body]
  dsimp only
  rw [if_neg (by simp [chosen, own, seq]), sync, sent]

theorem ptpTaken_delayResp_other
    (other : fromChosen c ep m = false ∨ (id, port) ≠ ownPort c ep ∨ m.seq ≠ c.time.delaySeq) : ptpTaken ep m c = c := by
  unfold ptpTaken
  rw [body]
  exact if_pos (by simpa only [Bool.or_eq_true, Bool.not_eq_true', decide_eq_true_eq, or_assoc] using other)

end

section
variable (body : m.body = .delayReq)
include body

theorem ptpTaken_delayReq (serves : grandmaster c = true) (active : passive c ep = false) : ptpTaken ep m c =
    sendPtp (stampNow c ep).2 ep (.delayResp m.seq (stampNow c ep).1 m.corr m.source m.sourcePort) := by
  unfold ptpTaken
  rw [body]
  exact if_neg (by simp [serves, active])

theorem ptpTaken_delayReq_other (other : grandmaster c = false ∨ passive c ep = true) : ptpTaken ep m c = c := by
  unfold ptpTaken
  rw [body]
  exact if_pos (by simpa using other)

end

end

/-! ## What the time unit sends, and masters that lapse (R362, R364) -/

theorem syncSend_sends {c : Chip} {ep : Nat} (on : ptpOn c ep = true) (serves : grandmaster c = true)
    (active : passive c ep = false) : syncSend ep c =
      (let n := c.time.sendSeq + 1
       let o := ownMaster c
       let d := updTime (stampNow c ep).2 (fun t => { t with sendSeq := n })
       { d with out := { d.out with ptp :=
         (ep, .announce n o.priority1 o.clockClass o.accuracy o.variance o.priority2) ::
           (ep, .followUp n (stampNow c ep).1) :: (ep, .sync n) :: d.out.ptp } }) :=
  if_neg (by simp [on, serves, active])

theorem delayReqSend_sends {c : Chip} {m : Master} (chosen : c.time.chosen = some m) (on : ptpOn c m.ep = true)
    (slave : grandmaster c = false) (x : Nat) : delayReqSend x c =
      (let t := stampNow (advanceFine c x) m.ep
       let n := c.time.delaySeq + 1
       sendPtp (updTime t.2 (fun u => { u with t3raw := some t.1, delaySeq := n })) m.ep (.delayReq n)) := by
  unfold delayReqSend
  rw [chosen]
  exact if_neg (by simp [on, slave])

/-- Of two clocks heard, the one that lapses first. -/
def earlierLapse (o : Option Master) (m : Master) : Option Master := match o with
  | none => some m
  | some x => if m.lapses < x.lapses then some m else some x

/-- The clock of which a timeout tells: the chosen master, or what lapses first where the controller is grandmaster. -/
def lapsesFirst (c : Chip) : Option Master :=
  if grandmaster c then c.time.masters.foldl earlierLapse none
  else c.time.masters.find? (fun m => c.time.chosen.any (sameMaster m))

/-- T has come to an instant, and a master is removed with all that have lapsed by then. -/
def removeLapsed (c : Chip) (m : Master) : Chip :=
  updTime c (fun t => { t with masters := t.masters.filter (fun x => !(sameMaster x m || x.lapses ≤ nowNs c)) })

/-- The choice after a timeout: that of the clock it tells of, or of none. -/
def chosenAfterLapse (c : Chip) : Option Master → Chip
  | none => chooseMaster c
  | some m => chooseMaster (removeLapsed (advanceTo c m.lapses.toNat) m)

theorem announceTimeout_eq (c : Chip) : announceTimeout c = chosenAfterLapse c (lapsesFirst c) := rfl

theorem announceTimeout_of_lapsesFirst {c : Chip} {o : Option Master} (first : lapsesFirst c = o) :
    announceTimeout c = chosenAfterLapse c o := by
  rw [announceTimeout_eq, first]

/-- Settles O56: a message has the outcome of its checks and then of its body, and each sending and timeout that of its
conditions. -/
theorem timeIsMeasured : Obligations.TimeIsMeasured := by
  refine ⟨fun s ep m on => ?_, fun s ep on serves active => does_run rfl (syncSend_sends on serves active),
    fun s x m chosen on slave => does_run rfl (delayReqSend_sends chosen on slave x),
    fun s => ⟨fun first => does_run rfl (announceTimeout_of_lapsesFirst first),
      fun m first => does_run rfl (announceTimeout_of_lapsesFirst first)⟩⟩
  refine ⟨fun _ => rfl, fun other => does_run rfl (ptpMessage_otherVlan other), fun vlan => ⟨fun unsupported => ?_,
    fun supported other => does_run rfl (ptpMessage_otherDomain on vlan supported other),
    fun supported domain foreign => ?_⟩⟩
  · exact ⟨fun udp domain announces => does_run rfl (ptpMessage_forgets on vlan unsupported udp domain announces),
      fun otherwise => does_run rfl (ptpMessage_counts on vlan unsupported otherwise)⟩
  · have does {d : Chip} (taken : ptpTaken ep.val m (advanceFine s.chip m.crossing) = d) : Does (.ptpMessage ep m) s d :=
      does_run rfl ((ptpMessage_taken on vlan supported domain foreign).trans taken)
    exact ⟨fun _ _ _ _ _ _ _ _ _ _ body => does (ptpTaken_announce body),
      fun _ _ body => ⟨fun chosen => does (ptpTaken_sync body chosen), fun other => does (ptpTaken_sync_other body other)⟩,
      fun _ body => ⟨fun chosen waits seq => does (ptpTaken_followUp body chosen waits seq),
        fun other => does (ptpTaken_followUp_other body other)⟩,
      fun _ _ _ body => ⟨fun _ _ chosen own seq sync sent => does (ptpTaken_delayResp body chosen own seq sync sent),
        fun other => does (ptpTaken_delayResp_other body other)⟩,
      fun body => ⟨fun serves active => does (ptpTaken_delayReq body serves active),
        fun other => does (ptpTaken_delayReq_other body other)⟩⟩

end Sys2Proof.Machine

/-!
PROOF. PPS_IN, 10M_IN, PPS_OUT, holdover, `time_set` and TIM_STATUS (O57).
-/

namespace Sys2Proof.Machine

/-! ## PPS_IN (R366, R369, R370) -/

/-- An edge of PPS_IN counts where it follows the one before it by a second. -/
def edgeCounts (c : Chip) : Bool := match c.time.ppsLast with
  | some l => decide (999900000 ≤ nowNs c - l ∧ nowNs c - l ≤ 1000100000)
  | none => false

/-- An edge is remembered. -/
def edgeSeen (c : Chip) : Chip := updTime c (fun t => { t with ppsLast := some (nowNs c) })

/-- An edge that counts tells the difference from T. -/
def edgeCounted (c : Chip) : Chip :=
  updTime (edgeSeen c) (fun t => { t with ppsPresent := true, ppsDiff := some (secondOffset c) })

/-- A source is there again. -/
def sourceReturned (c : Chip) : Chip := match c.time.st with
  | .freerun | .holdover | .undisciplined => setTimeState c .acquiring
  | .acquiring | .locked => c

theorem sourceReturned_eq (c : Chip) : sourceReturned c =
    if c.time.st = .acquiring ∨ c.time.st = .locked then c else setTimeState c .acquiring := by
  unfold sourceReturned
  cases c.time.st <;> rfl

/-- A grandmaster follows PPS_IN, and takes the difference as its offset. -/
def edgeFollowed (c : Chip) : Chip :=
  updTime (if c.time.st = .acquiring ∨ c.time.st = .locked then edgeCounted c else setTimeState (edgeCounted c) .acquiring)
    (fun t => { t with offset := 16 * secondOffset c })

/-- The seconds that wait apply at an edge, and the next edge is measured from where T then stands (log 80). -/
def edgeEnd (c : Chip) : Chip :=
  edgeSeen (applySeconds c (if secondOffset c < 0 then c.time.sec.toNat + 1 else c.time.sec.toNat))

theorem edgeCounts_first {c : Chip} (first : c.time.ppsLast = none) : edgeCounts c = false := by
  rw [edgeCounts, first]

theorem edgeCounts_iff {c : Chip} {l : Nat} (last : c.time.ppsLast = some l) :
    edgeCounts c = true ↔ 999900000 ≤ nowNs c - l ∧ nowNs c - l ≤ 1000100000 := by
  rw [edgeCounts, last, decide_eq_true_iff]

section
variable {c : Chip} (used : c.cfg.time.ppsInUse = true) (runs : c.time.runs = true)
include used runs

theorem ppsEdge_eq : ppsEdge c =
    if edgeCounts c = false then edgeSeen c
    else if grandmaster c = false then edgeCounted c
    else edgeEnd (if (edgeFollowed c).time.ppsSet then acceptOffset (edgeFollowed c) (16 * secondOffset c)
      else setNanoseconds (edgeFollowed c) (secondOffset c)) := by
  have listens : ppsEdge c = if !edgeCounts c then edgeSeen c
      else if !grandmaster c then edgeCounted c
      else
        let d := updTime (sourceReturned (edgeCounted c)) (fun t => { t with offset := 16 * secondOffset c })
        edgeEnd (if d.time.ppsSet then acceptOffset d (16 * secondOffset c) else setNanoseconds d (secondOffset c)) :=
    if_neg (by simp [used, runs])
  rw [listens, sourceReturned_eq]
  simp only [Bool.not_eq_true']
  rfl

theorem ppsEdge_seen (uncounted : edgeCounts c = false) : ppsEdge c = edgeSeen c :=
  (ppsEdge_eq used runs).trans (if_pos uncounted)

section
variable (counts : edgeCounts c = true)
include counts

theorem ppsEdge_slave (slave : grandmaster c = false) : ppsEdge c = edgeCounted c :=
  (ppsEdge_eq used runs).trans ((if_neg (by simp [counts])).trans (if_pos slave))

section
variable (serves : grandmaster c = true)
include serves

theorem ppsEdge_grandmaster : ppsEdge c =
    edgeEnd (if (edgeFollowed c).time.ppsSet then acceptOffset (edgeFollowed c) (16 * secondOffset c)
      else setNanoseconds (edgeFollowed c) (secondOffset c)) :=
  (ppsEdge_eq used runs).trans ((if_neg (by simp [counts])).trans (if_neg (by simp [serves])))

theorem ppsEdge_disciplines (isSet : (edgeFollowed c).time.ppsSet = true) :
    ppsEdge c = edgeEnd (acceptOffset (edgeFollowed c) (16 * secondOffset c)) :=
  (ppsEdge_grandmaster used runs counts serves).trans (congrArg edgeEnd (if_pos isSet))

theorem ppsEdge_sets (unset : (edgeFollowed c).time.ppsSet = false) :
    ppsEdge c = edgeEnd (setNanoseconds (edgeFollowed c) (secondOffset c)) :=
  (ppsEdge_grandmaster used runs counts serves).trans (congrArg edgeEnd (if_neg (by simp [unset])))

end

end

end

section
variable {c : Chip} (used : c.cfg.time.ppsInUse = true)
include used

theorem ppsLost_locked (serves : grandmaster c = true) (locked : c.time.st = .locked) : ppsLost c =
    setTimeState (updTime c (fun t => { t with ppsPresent := false, ppsLast := none, ppsDiff := none })) .holdover :=
  (if_neg (by simp [used])).trans (if_pos (by simpa [grandmaster, locked] using serves))

theorem ppsLost_other (other : grandmaster c = false ∨ c.time.st ≠ .locked) : ppsLost c =
    updTime c (fun t => { t with ppsPresent := false, ppsLast := none, ppsDiff := none }) :=
  (if_neg (by simp [used])).trans (if_neg (by
    rcases other with slave | free
    · simp [grandmaster, show c.cfg.time.grandmaster = false from slave]
    · simp [free]))

end

/-! ## 10M_IN (R369) -/

section
variable {c : Chip} {on : Bool}

theorem refChanged_changes (used : c.cfg.time.ref10m = true) (runs : c.time.runs = true) (other : c.time.ref10m ≠ on) :
    refChanged on c =
      raise (updTime c (fun t => { t with ref10m := on })) 0x8004 [w (b01 on + 2 * b01 c.time.ppsPresent)] :=
  if_neg (by simp [used, runs, other])

theorem refChanged_same (same : c.time.ref10m = on) : refChanged on c = c := if_pos (by simp [same])

end

/-! ## Whole seconds, holdover and TIM_STATUS (R366, R370, R371, R374) -/

/-- The counter has reached a whole second in its last tick. -/
def secondHere (t : Time) : Bool := t.ns.toNat ≤ 2 && t.secondDone ≠ some t.sec.toNat

/-- The chip at that second, or at the next. -/
def secondReached (c : Chip) : Chip :=
  if secondHere c.time then c else advanceTo c ((c.time.sec.toNat + 1) * 1000000000)

/-- No `time_set` from before this second waits for it. -/
def secondFree (c : Chip) : Bool :=
  secondHere c.time && !c.time.setPending.any (fun p => p.2 ≠ c.time.sec.toNat)

/-- WHOLE_SECOND has reached the second at which the counter stands. -/
def secondMarked (c : Chip) : Chip := updTime c (fun t => { t with secondDone := some t.sec.toNat })

/-- The chip when it has taken the second. -/
def secondTaken (c : Chip) : Chip :=
  let d := secondReached c
  secondMarked (if d.cfg.time.ppsInUse || secondFree c then d else applySeconds d d.time.sec.toNat)

theorem secondHere_iff (t : Time) : secondHere t = true ↔ t.ns.toNat ≤ 2 ∧ t.secondDone ≠ some t.sec.toNat := by
  simp [secondHere]

theorem secondFree_iff (c : Chip) : secondFree c = true ↔
    (c.time.ns.toNat ≤ 2 ∧ c.time.secondDone ≠ some c.time.sec.toNat) ∧
      ∀ p, c.time.setPending = some p → p.2 = c.time.sec.toNat := by
  rw [secondFree, Bool.and_eq_true, secondHere_iff]
  cases c.time.setPending <;> simp

theorem secondReached_eq (c : Chip) : secondReached c =
    if c.time.ns.toNat ≤ 2 ∧ c.time.secondDone ≠ some c.time.sec.toNat then c
    else advanceTo c ((c.time.sec.toNat + 1) * 1000000000) :=
  if_congr (secondHere_iff c.time) rfl rfl

theorem secondTaken_eq (c : Chip) : secondTaken c =
    secondMarked (if (secondReached c).cfg.time.ppsInUse = true ∨
          (c.time.ns.toNat ≤ 2 ∧ c.time.secondDone ≠ some c.time.sec.toNat) ∧
            ∀ p, c.time.setPending = some p → p.2 = c.time.sec.toNat
        then secondReached c else applySeconds (secondReached c) (secondReached c).time.sec.toNat) :=
  congrArg secondMarked (if_congr (Bool.or_eq_true_iff.trans (or_congr_right (secondFree_iff c))) rfl rfl)

theorem wholeSecond_eq {c : Chip} (runs : c.time.runs = true) : wholeSecond c =
    if (secondTaken c).time.ppsOutOn && (secondTaken c).cfg.time.ppsOutMode = 1 then
      updTime (secondTaken c) (fun t => { t with ppsOut := true })
    else secondTaken c := by
  have free : (!(!secondHere c.time || c.time.setPending.any (fun p => p.2 ≠ c.time.sec.toNat))) = secondFree c := by
    rw [Bool.not_or, Bool.not_not, secondFree]
  unfold secondTaken
  rw [← free]
  exact if_neg (by simp [runs])

section
variable {c d : Chip} (runs : c.time.runs = true) (taken : secondTaken c = d)
include runs taken

theorem wholeSecond_pulse (out : d.time.ppsOutOn = true) (mode : d.cfg.time.ppsOutMode = 1) :
    wholeSecond c = updTime d (fun t => { t with ppsOut := true }) := by
  subst taken
  exact (wholeSecond_eq runs).trans (if_pos (by simp [out, mode]))

theorem wholeSecond_low (low : d.time.ppsOutOn = false ∨ d.cfg.time.ppsOutMode ≠ 1) : wholeSecond c = d := by
  subst taken
  exact (wholeSecond_eq runs).trans (if_neg (by simpa [imp_iff_not_or] using low))

end

/-- Word 0x28 of TIM_STATUS: the difference of PPS_IN in ns, or 0x8000_0000 for none. -/
def ppsDiffWord : Option Int → U32
  | some d => wi d
  | none => 0x80000000#32

theorem timStatus_reports {c : Chip} (active : timeActive c = true) {d : U32} (diff : ppsDiffWord c.time.ppsDiff = d) :
    timStatus c = updTime (raise c 0x8005
        [w (timeCode c.time.st + (slavePort c).1 * 256), wi (clampI c.time.offset (-2147483648) 2147483647),
         wi (c.time.mean.tdiv 16), wi ((((c.time.inc.toNat : Int) - nominalInc) * 1000000000).tdiv nominalInc), d,
         w c.time.utcOffset, w c.time.discarded])
      (fun t => { t with discarded := 0 }) := by
  subst diff
  exact if_neg (by simp [active])

/-! ## `time_set` (R370) -/

section
variable {e : Env} {c : Chip}

theorem timeSetBody_takes (serves : grandmaster c = true) : timeSetBody e c =
    (let n := mw e 0x10 + mf e 0x14 15 0 * 2 ^ 32
     (updTime c (fun t => { t with setPending := some (n, t.sec.toNat), setDone := true }), ok [w n])) :=
  if_neg (by simp [serves])

theorem timeSetBody_slave (slave : grandmaster c = false) : timeSetBody e c = reject c stUNAVAILABLE :=
  if_pos (by simp [slave])

end

/-- Settles O57: each signal and message has the outcome of its conditions. -/
theorem timeSignalsAct : Obligations.TimeSignalsAct := by
  refine ⟨fun s => ⟨fun used runs => ?_, fun used => ?_, fun used runs => ?_, fun runs => ?_, does_run rfl rfl,
      fun holds => does_run rfl (if_pos holds), fun other => does_run rfl (if_neg other),
      fun d active diff => does_run rfl (timStatus_reports active diff)⟩, fun s via m k admitted => ?_⟩
  · refine ⟨fun first => does_run rfl (ppsEdge_seen used runs (edgeCounts_first first)),
      fun l last outside => does_run rfl (ppsEdge_seen used runs ?_), fun l last low high => ?_⟩
    · rw [← Bool.not_eq_true, edgeCounts_iff last]
      omega
    · have counts : edgeCounts s.chip = true := (edgeCounts_iff last).mpr ⟨low, high⟩
      exact ⟨fun slave => does_run rfl (ppsEdge_slave used runs counts slave),
        fun serves => ⟨fun isSet => does_run rfl (ppsEdge_disciplines used runs counts serves isSet),
          fun unset => does_run rfl (ppsEdge_sets used runs counts serves unset)⟩⟩
  · exact ⟨fun serves locked => does_run rfl (ppsLost_locked used serves locked),
      fun other => does_run rfl (ppsLost_other used other)⟩
  · refine ⟨fun on => does_run rfl ((refChanged_changes used runs (by simp [on])).trans ?_),
      fun off => does_run rfl (refChanged_changes used runs (by simp [off])),
      fun off => does_run rfl (refChanged_same off), fun on => does_run rfl (refChanged_same on)⟩
    simp [b01]
  · have taken := secondTaken_eq s.chip
    rw [secondReached_eq] at taken
    exact ⟨fun out mode => does_run rfl (wholeSecond_pulse runs taken out mode),
      fun low => does_run rfl (wholeSecond_low runs taken low)⟩
  · exact ⟨fun serves => answered_cci rfl admitted rfl (timeSetBody_takes serves),
      fun slave => answered_cci rfl admitted rfl (timeSetBody_slave slave)⟩

end Sys2Proof.Machine

/-!
PROOF. The step (O1) and the host interface: consumer indices (O5) and interrupts (O6).
-/

namespace Sys2Proof.Machine

/-! ## The step -/

theorem step_idle {s : State} (idle : s.pending = []) : step s = .next (clockTick s) := by
  unfold step; rw [idle]

/-- Settles O1: the two cases of the step are whether a command waits. -/
theorem stepCarriesOutFrontCommand : Obligations.StepCarriesOutFrontCommand :=
  ⟨fun _ _ _ => rfl, fun _ => step_idle⟩

/-! ## Consumer indices and foreign rings (R430) -/

section
variable {h : Hif} {v : U32}

theorem rspConsumed_accepted (ok : (v - h.rspConsumed).toNat ≤ (h.rspProduced - h.rspConsumed).toNat) :
    rspConsumed v h = { h with rspConsumed := v } :=
  if_pos (by simpa [indexOk_] using ok)

theorem rspConsumed_refused (bad : ¬(v - h.rspConsumed).toNat ≤ (h.rspProduced - h.rspConsumed).toNat) :
    rspConsumed v h = badIndex h :=
  if_neg (by simpa [indexOk_] using bad)

theorem evtConsumed_accepted (ok : (v - h.evtConsumed).toNat ≤ (h.evtProduced - h.evtConsumed).toNat) :
    evtConsumed v h = { h with evtConsumed := v } :=
  if_pos (by simpa [indexOk_] using ok)

theorem evtConsumed_refused (bad : ¬(v - h.evtConsumed).toNat ≤ (h.evtProduced - h.evtConsumed).toNat) :
    evtConsumed v h = badIndex h :=
  if_neg (by simpa [indexOk_] using bad)

end

/-- No byte of a write above the inbound ring lies in it. -/
theorem ringWrite_above {off : Nat} (above : 0x104000 ≤ off) (d : List Byte) (h : Hif) : ringWrite off d h = h :=
  foldl_keeps id _ (fun _ i => if_neg (by
    have outside : ¬off + i < 0x104000 := by omega
    simp [outside])) (List.range d.length) h

theorem evtFree_full {h : Hif} (full : 1024 ≤ (h.evtProduced - h.evtConsumed).toNat) : evtFree h = 0 :=
  Nat.sub_eq_zero_of_le full

theorem respondWords_full {s : State} (full : 256 ≤ (s.hif.rspProduced - s.hif.rspConsumed).toNat) (peer : Peer) (slot : Nat)
    (words : List U32) (data : List Byte) : respondWords s .hp peer slot words data = s :=
  if_pos (show rspFull s.hif = true from decide_eq_true full)

/-- Settles O5: an index has the two outcomes of its check, and nothing is written to a full or a foreign ring. -/
theorem consumerIndicesAreChecked : Obligations.ConsumerIndicesAreChecked :=
  ⟨fun _ _ reach => ⟨fun ok => doesHif_host rfl reach (rspConsumed_accepted ok),
      fun bad => doesHif_host rfl reach (rspConsumed_refused bad),
      fun ok => doesHif_host rfl reach (evtConsumed_accepted ok),
      fun bad => doesHif_host rfl reach (evtConsumed_refused bad)⟩,
    fun s _ d reach above _ =>
      doesHif_host (exec_ringWrite (by omega) d s) reach (ringWrite_above above d s.hif),
    fun _ e full => writeRing_full (evtFree_full full) e,
    fun _ peer slot words data full => respondWords_full full peer slot words data⟩

/-! ## A cause and its message (R433, R434) -/

section
variable {h : Hif} {v : Nat}

/-- The vector is in its holdoff (R434). -/
def heldOff (h : Hif) (v : Nat) : Prop := 2 ≤ v ∧ v ≤ 15 ∧ v ∈ h.inHoldoff

theorem notify_heldOff (held : heldOff h v) : notify h v = h :=
  if_pos (by simpa [heldOff, and_assoc] using held)

theorem notify_free (free : ¬heldOff h v) : notify h v = sendHeld h v :=
  if_neg (by simpa [heldOff, and_assoc] using free)

/-- A vector that MSI-X holds back leaves its message pending, and begins no holdoff. -/
theorem sendHeld_blocked (blocked : msixBlocked h v = true) : sendHeld h v = { h with pba := h.pba ||| w (2 ^ v) } := by
  simp [sendHeld, sendVector, blocked]

/-- The status bit of the cause is set. -/
def causeSet (h : Hif) (v : Nat) : Hif := { h with irqStatus := h.irqStatus ||| w (2 ^ v) }

theorem setCause_again (set : h.irqStatus.toNat.testBit v = true) : setCause h v = h := if_pos set

theorem setCause_masked (clear : h.irqStatus.toNat.testBit v = false) (masked : h.irqMask.toNat.testBit v = true) :
    setCause h v = causeSet h v := by
  simp [setCause, causeSet, clear, masked]

theorem setCause_unmasked (clear : h.irqStatus.toNat.testBit v = false) (unmasked : h.irqMask.toNat.testBit v = false) :
    setCause h v = notify (causeSet h v) v := by
  simp [setCause, causeSet, clear, unmasked]

end

/-! ## Writes of the interrupt registers -/

theorem and_w_pow {x : U32} {n : Nat} (small : n < 32) (set : x.toNat.testBit n = true) : w (2 ^ n) &&& x = w (2 ^ n) := by
  refine BitVec.eq_of_toNat_eq ?_
  rw [BitVec.toNat_and, w_pow n small]
  refine Nat.eq_of_testBit_eq (fun i => ?_)
  rw [Nat.testBit_and, Nat.testBit_two_pow]
  by_cases same : n = i
  · subst same; simp [set]
  · simp [same]

theorem bitsOf_w_pow {n width : Nat} (inUse : n < width) (small : width ≤ 32) : bitsOf (w (2 ^ n)).toNat width = [n] := by
  rw [w_pow n (by omega), bitsOf_pow n width inUse]

theorem irqBits_testBit {n : Nat} (inUse : n < 23) : irqBits.toNat.testBit n = true := by
  rw [show irqBits.toNat = 2 ^ 23 - 1 from rfl, Nat.testBit_two_pow_sub_one]
  exact decide_eq_true inUse

theorem irqStatus_noCause {v arriving : U32} (none : arriving &&& v &&& irqBits = 0) (h : Hif) :
    irqStatus v arriving h = { h with irqStatus := h.irqStatus &&& ~~~v } := by
  unfold irqStatus; rw [none]; rfl

theorem irqStatus_oneCause {v : U32} {n : Nat} (inUse : n < 23) (written : v.toNat.testBit n = true) (h : Hif) :
    irqStatus v (w (2 ^ n)) h = setCause { h with irqStatus := h.irqStatus &&& ~~~v } n := by
  unfold irqStatus
  rw [and_w_pow (by omega) written, and_w_pow (by omega) (irqBits_testBit inUse), bitsOf_w_pow inUse (by omega)]
  rfl

theorem irqMask_noCause {v : U32} {h : Hif} (none : h.irqStatus &&& ~~~v = 0) :
    irqMask v h = { h with irqMask := v &&& irqBits } := by
  unfold irqMask; rw [none]; rfl

theorem irqMask_oneCause {v : U32} {h : Hif} {n : Nat} (inUse : n < 23) (one : h.irqStatus &&& ~~~v = w (2 ^ n)) :
    irqMask v h = notify { h with irqMask := v &&& irqBits } n := by
  unfold irqMask; rw [one, bitsOf_w_pow inUse (by omega)]; rfl

/-! ## The end of a holdoff (R434) -/

section
variable {h : Hif} {n : Nat}

/-- The vector's holdoff is over. -/
def holdoffOver (h : Hif) (n : Nat) : Hif := { h with inHoldoff := h.inHoldoff.filter (· ≠ n) }
/-- The cause of the vector stands, and is not masked. -/
def causeStands (h : Hif) (n : Nat) : Bool := h.irqStatus.toNat.testBit n && !h.irqMask.toNat.testBit n

theorem holdoffOver_absent (absent : h.inHoldoff.contains n = false) : holdoffOver h n = h := by
  have same : h.inHoldoff.filter (· ≠ n) = h.inHoldoff := List.filter_eq_self.mpr (fun x member => by
    have other : x ≠ n := fun e => by simp_all
    simpa using other)
  rw [holdoffOver, same]

theorem holdoffEnds_eq (h : Hif) (n : Nat) : holdoffEnds n h =
    if h.inHoldoff.contains n && causeStands h n then notify (holdoffOver h n) n else holdoffOver h n := by
  unfold holdoffEnds
  cases held : h.inHoldoff.contains n with
  | false => simp [holdoffOver_absent held]
  | true => simp [holdoffOver, causeStands]

theorem holdoffEnds_quiet (quiet : causeStands h n = false) : holdoffEnds n h = holdoffOver h n := by
  simp [holdoffEnds_eq, quiet]

theorem holdoffEnds_stands (held : h.inHoldoff.contains n = true) (stands : causeStands h n = true) :
    holdoffEnds n h = notify (holdoffOver h n) n :=
  (holdoffEnds_eq h n).trans (if_pos (by rw [held, stands]; rfl))

end

theorem doesHif_holdoffEnd {s : State} {n : Fin 32} {h : Hif} (ends : holdoffEnds n.val s.hif = h) :
    DoesHif (.holdoffEnd n) s h := by
  subst ends; rfl

/-- Settles O6: each write is the fold of its vectors, and a cause has the outcomes of its bit, its mask and what holds it back. -/
theorem interruptsAreSent : Obligations.InterruptsAreSent := by
  refine ⟨⟨fun _ _ _ reach => doesHif_host rfl reach rfl, fun _ _ reach => doesHif_host rfl reach rfl,
      fun s n => doesHif_holdoffEnd (holdoffEnds_eq s.hif n.val),
      fun _ _ _ reach none => doesHif_host rfl reach (irqStatus_noCause none _),
      fun _ _ _ reach inUse written => doesHif_host rfl reach (irqStatus_oneCause inUse written _),
      fun _ _ reach none => doesHif_host rfl reach (irqMask_noCause none),
      fun _ _ _ reach inUse one => doesHif_host rfl reach (irqMask_oneCause inUse one),
      fun _ _ _ quiet => doesHif_holdoffEnd (holdoffEnds_quiet quiet),
      fun _ _ held stands => doesHif_holdoffEnd (holdoffEnds_stands held stands)⟩,
    fun h v _ => ⟨setCause_again, fun clear silent => ?_, fun clear unmasked free blocked => ?_,
      fun clear unmasked free opened => ?_⟩⟩
  · cases masked : h.irqMask.toNat.testBit v with
    | true => exact setCause_masked clear masked
    | false =>
      have held : heldOff (causeSet h v) v := silent.resolve_left (by simp [masked])
      exact (setCause_unmasked clear masked).trans (notify_heldOff held)
  · exact (setCause_unmasked clear unmasked).trans ((notify_free (h := causeSet h v) free).trans (sendHeld_blocked blocked))
  · exact (setCause_unmasked clear unmasked).trans ((notify_free (h := causeSet h v) free).trans (sendHeld_open _ v opened))

end Sys2Proof.Machine

/-!
PROOF. Configuration, the MSI-X table and the endpoint reset (O7), and writes of registers (O8).
-/

namespace Sys2Proof.Machine

/-! ## Messages that wait in the PBA (R433) -/

/-- One member of the list changes `a` into `b`, and nothing else changes either. -/
theorem foldl_once {α β : Type} {f : α → β → α} {a b : α} {x : β} (other : ∀ y, y ≠ x → f a y = a) (taken : f a x = b)
    (after : ∀ y, f b y = b) {l : List β} (member : x ∈ l) : l.foldl f a = b := by
  induction l with
  | nil => cases member
  | cons y l ih =>
    rw [List.foldl_cons]
    by_cases first : y = x
    · rw [first, taken, List.foldl_fixed' after]
    · rw [other y first, ih ((List.mem_cons.mp member).resolve_left (Ne.symm first))]

theorem sendPending_none {h : Hif} (none : h.pba = 0) : sendPending h = h :=
  List.foldl_fixed' (fun v => if_neg (by simp [none])) _

/-- The one message that waits is sent when nothing holds its vector back. -/
theorem sendPending_one {h : Hif} {v : Nat} (small : v < 32) (one : h.pba = w (2 ^ v)) (opened : msixBlocked h v = false)
    (free : v ∉ h.inHoldoff) : sendPending h = sendHeld h v := by
  have bits : ∀ y, h.pba.toNat.testBit y = decide (v = y) := fun y => by rw [one, w_pow v small, Nat.testBit_two_pow]
  have sent : (sendHeld h v).pba = 0 := by
    rw [sendHeld_open h v opened, one]
    exact BitVec.and_not_self _
  unfold sendPending
  refine foldl_once (x := v) (fun y other => ?_) ?_ (fun y => ?_) (List.mem_range.mpr small)
  · exact if_neg (by simp [bits, Ne.symm other])
  · exact if_pos (by simp [bits, opened, free])
  · exact if_neg (by simp [sent])

/-! ## Configuration writes and the MSI-X table (R424, R425, R433) -/

section
variable {s : State} (up : hpUp s.chip = true) (on : Bool)
include up

theorem configWrite_busMaster : configWrite (.busMaster on) s =
    { s with chip := { s.chip with pcie := { s.chip.pcie with busMaster := on } } } := if_neg (by simp [up])

theorem configWrite_powerState : configWrite (.powerState on) s =
    { s with chip := { s.chip with pcie := { s.chip.pcie with d3hot := on } } } := if_neg (by simp [up])

theorem configWrite_msixEnable : configWrite (.msixEnable on) s =
    { s with hif := sendPending { s.hif with msixEnable := on } } := if_neg (by simp [up])

theorem configWrite_functionMask : configWrite (.functionMask on) s =
    { s with hif := sendPending { s.hif with functionMask := on } } := if_neg (by simp [up])

end

theorem setEntry_quiet {h : Hif} (none : h.pba = 0) (n : Nat) (e : U64 × U32 × Bool) :
    setEntry n e h = { h with msixTable := h.msixTable.modify n (fun _ => e) } :=
  sendPending_none (h := { h with msixTable := h.msixTable.modify n (fun _ => e) }) none

theorem nth_modify {α : Type} [Inhabited α] {l : List α} {n : Nat} (within : n < l.length) (x : α) :
    nth (l.modify n (fun _ => x)) n = x := by
  simp [nth, within]

/-- An entry whose mask is cleared lets its message go. -/
theorem setEntry_sends {h : Hif} {n : Nat} (small : n < 32) (within : n < h.msixTable.length) (one : h.pba = w (2 ^ n))
    (enabled : h.msixEnable = true) (unmasked : h.functionMask = false) (free : n ∉ h.inHoldoff) (addr : U64) (data : U32) :
    setEntry n (addr, data, false) h =
      { h with
        msixTable := h.msixTable.modify n (fun _ => (addr, data, false))
        sent := (n, addr, data) :: h.sent
        pba := 0
        inHoldoff := if 2 ≤ n ∧ n ≤ 15 ∧ h.holdoff ≠ 0 then n :: h.inHoldoff else h.inHoldoff } := by
  let k : Hif := { h with msixTable := h.msixTable.modify n (fun _ => (addr, data, false)) }
  have entry : nth k.msixTable n = (addr, data, false) := nth_modify within _
  have opened : msixBlocked k n = false := by simp [msixBlocked, entry, k, enabled, unmasked]
  show sendPending k = _
  rw [sendPending_one (h := k) small one opened free, sendHeld_open k n opened, entry, show k.pba = w (2 ^ n) from one,
    BitVec.and_not_self]

/-- Settles O7: a configuration write changes its field, an entry lets its message go, and the three resets are one. -/
theorem configurationAndEndpointReset : Obligations.ConfigurationAndEndpointReset := by
  refine ⟨⟨fun s on up => ⟨?_, ?_, fun none => ⟨?_, ?_⟩⟩,
      fun _ vec addr data masked reach none => doesHif_host rfl reach (setEntry_quiet none vec.val (addr, data, masked)),
      fun _ vec addr data reach within one enabled unmasked free =>
        doesHif_host rfl reach (setEntry_sends vec.isLt within one enabled unmasked free addr data)⟩,
    fun _ _ => rfl⟩
  · exact congrArg Host.Outcome.next (configWrite_busMaster up on)
  · exact congrArg Host.Outcome.next (configWrite_powerState up on)
  · have quiet := sendPending_none (h := { s.hif with msixEnable := on }) none
    rw [← quiet]
    exact congrArg Host.Outcome.next (configWrite_msixEnable up on)
  · have quiet := sendPending_none (h := { s.hif with functionMask := on }) none
    rw [← quiet]
    exact congrArg Host.Outcome.next (configWrite_functionMask up on)

/-! ## Register writes (R427, R434) -/

/-- A write below the rings is one of a register, but for HIF_RESET. -/
theorem exec_registerWrite {off : Nat} {d : List Byte} (register : off < 0x100000) (other : off ≠ 0x4000 ∨ d.length ≠ 4)
    (s : State) : exec (.registerWrite off d) s = .next (registerWord off d s) := by
  have reset : ¬(decide (off = 0x4000) && decide (d.length = 4)) = true := by
    rw [Bool.and_eq_true, decide_eq_true_eq, decide_eq_true_eq]
    omega
  show Host.Outcome.next (if _ then _ else barWrite off d s) = _
  rw [if_neg reset, barWrite, if_pos register]

theorem registerWord_refused {off : Nat} {d : List Byte} (bad : d.length ≠ 4 ∨ off % 4 ≠ 0) (s : State) :
    registerWord off d s = s :=
  if_pos (by simpa using bad)

section
variable {d : List Byte} (four : d.length = 4)
include four

/-- A register with no command of its own. -/
theorem registerWord_plain {off : Nat} (aligned : off % 4 = 0)
    (plain : off ∉ [0x1000, 0x1010, 0x1018, 0x2000, 0x2004, 0x4004]) (table : off < 0x8000 ∨ 0x8200 ≤ off) (s : State) :
    registerWord off d s = s.host (plainRegister off (w (ofLe d))) := by
  have outside : ¬(decide (0x8000 ≤ off) && decide (off < 0x8200)) = true := by
    rw [Bool.and_eq_true, decide_eq_true_eq, decide_eq_true_eq]
    omega
  simp only [List.mem_cons, List.not_mem_nil, or_false, not_or] at plain
  obtain ⟨doorbell, rsp, evt, status, mask, snapshot⟩ := plain
  simp only [registerWord, four, aligned, doorbell, rsp, evt, status, mask, snapshot, outside, ne_eq, not_true_eq_false, decide_false,
    Bool.or_self, Bool.false_eq_true, if_false]

theorem registerWord_data {n : Nat} (entry : n < 32) (s : State) : registerWord (0x8008 + 16 * n) d s =
    s.host (fun h => setEntry n ((nth h.msixTable n).1, w (ofLe d), (nth h.msixTable n).2.2) h) := by
  have word : tableWord (0x8008 + 16 * n) (w (ofLe d)) =
      fun h => setEntry n ((nth h.msixTable n).1, w (ofLe d), (nth h.msixTable n).2.2) h := by
    funext h
    have index : (0x8008 + 16 * n - 0x8000) / 16 = n := by omega
    have field : (0x8008 + 16 * n - 0x8000) / 4 % 4 = 2 := by omega
    simp only [tableWord, index, field]
  have table : (decide (0x8000 ≤ 0x8008 + 16 * n) && decide (0x8008 + 16 * n < 0x8200)) = true := by
    rw [Bool.and_eq_true, decide_eq_true_eq, decide_eq_true_eq]
    omega
  have aligned : ¬(decide (d.length ≠ 4) || decide ((0x8008 + 16 * n) % 4 ≠ 0)) = true := by simp [four]; omega
  have own : ∀ k < 0x8000, ¬0x8008 + 16 * n = k := fun k low => by omega
  simp only [registerWord, aligned, if_false, own 0x1000 (by decide), own 0x1010 (by decide), own 0x1018 (by decide),
    own 0x2000 (by decide), own 0x2004 (by decide), own 0x4004 (by decide), table, if_true, word]
  rfl

end

/-- A register whose offset is none of those of Tables 17-5 and 17-6 takes nothing. -/
theorem plainRegister_none {off : Nat} (none : off ∉ [0x2008, 0x3000, 0x3004, 0x3008, 0x3010]) (v : U32) (h : Hif) :
    plainRegister off v h = h := by
  simp only [List.mem_cons, List.not_mem_nil, or_false, not_or] at none
  obtain ⟨holdoff, mode, low, high, status⟩ := none
  simp only [plainRegister, holdoff, mode, low, high, status, if_false]

/-- A register with no command of its own takes its fields. -/
theorem doesHif_plain {s : State} {d : List Byte} (reach : hpReach s.chip = true) (four : d.length = 4) {off : Nat}
    (below : off < 0x100000) (aligned : off % 4 = 0)
    (plain : off ∉ [0x1000, 0x1010, 0x1018, 0x2000, 0x2004, 0x4000, 0x4004]) (table : off < 0x8000 ∨ 0x8200 ≤ off) {h : Hif}
    (takes : plainRegister off (w (ofLe d)) s.hif = h) : DoesHif (.registerWrite off d) s h := by
  simp only [List.mem_cons, List.not_mem_nil, or_false, not_or] at plain
  obtain ⟨doorbell, rsp, evt, status, mask, reset, snapshot⟩ := plain
  have word := registerWord_plain four aligned (by simp [doorbell, rsp, evt, status, mask, snapshot]) table s
  exact doesHif_host ((exec_registerWrite below (.inl reset) s).trans (congrArg Host.Outcome.next word)) reach takes

/-- A register with a command of its own takes that command. -/
theorem exec_ownRegister {s : State} {d : List Byte} {off : Nat} {i : Instr} {t : State} (hi : exec i s = .next t)
    (below : off < 0x100000) (other : off ≠ 0x4000) (word : registerWord off d s = t) :
    exec (.registerWrite off d) s = exec i s := by
  rw [hi, exec_registerWrite below (.inl other) s, word]

theorem registerWord_own {d : List Byte} (four : d.length = 4) (s : State) :
    registerWord 0x1000 d s = s.host (doorbell (w (ofLe d))) ∧ registerWord 0x1010 d s = s.host (rspConsumed (w (ofLe d))) ∧
    registerWord 0x1018 d s = s.host (evtConsumed (w (ofLe d))) ∧ registerWord 0x2000 d s = s.host (irqStatus (w (ofLe d)) 0) ∧
    registerWord 0x2004 d s = s.host (irqMask (w (ofLe d))) ∧ registerWord 0x4004 d s = registerSnapshot (w (ofLe d)) s := by
  unfold registerWord
  rw [four]
  exact ⟨rfl, rfl, rfl, rfl, rfl, rfl⟩

theorem exec_registerWrite_reset {d : List Byte} (four : d.length = 4) (s : State) :
    exec (.registerWrite 0x4000 d) s = exec (.hifReset (w (ofLe d))) s :=
  congrArg Host.Outcome.next (if_pos (by simp [four]))

/-- Settles O8: a write that is aligned and of 4 bytes is its register's, by the register's offset. -/
theorem registerWrites : Obligations.RegisterWrites := by
  refine ⟨fun s off d below bad => ?_, fun s d reach four => ?_⟩
  · have other : off ≠ 0x4000 ∨ d.length ≠ 4 := by omega
    exact (exec_registerWrite below other s).trans (congrArg Host.Outcome.next (registerWord_refused bad s))
  · have plain := fun off => doesHif_plain (off := off) reach four
    obtain ⟨doorbell, rsp, evt, status, mask, snapshot⟩ := registerWord_own four s
    refine ⟨plain 0x2008 (by decide) (by decide) (by decide) (by decide) rfl,
      plain 0x3000 (by decide) (by decide) (by decide) (by decide) rfl,
      plain 0x3004 (by decide) (by decide) (by decide) (by decide) rfl,
      plain 0x3008 (by decide) (by decide) (by decide) (by decide) rfl,
      plain 0x3010 (by decide) (by decide) (by decide) (by decide) rfl,
      exec_ownRegister rfl (by decide) (by decide) doorbell, exec_ownRegister rfl (by decide) (by decide) rsp,
      exec_ownRegister rfl (by decide) (by decide) evt, exec_ownRegister rfl (by decide) (by decide) status,
      exec_ownRegister rfl (by decide) (by decide) mask, exec_registerWrite_reset four s,
      exec_ownRegister rfl (by decide) (by decide) snapshot, fun n entry => ?_, fun off below aligned table listed => ?_⟩
    · have write := exec_registerWrite (d := d) (off := 0x8008 + 16 * n) (by omega) (.inl (by omega)) s
      exact doesHif_host (write.trans (congrArg Host.Outcome.next (registerWord_data four entry s))) reach rfl
    · simp only [List.mem_cons, List.not_mem_nil, or_false, not_or] at listed
      refine plain off below aligned (by simp [listed]) table (plainRegister_none (by simp [listed]) _ _)

end Sys2Proof.Machine

/-!
PROOF. The BAR2 aperture: reads, and writes in MODE 1 (O9).
-/

namespace Sys2Proof.Machine

/-! ## What a status bit of the aperture leaves of the host interface (R437) -/

/-- The host interface but for what a status bit of the aperture changes. -/
def Hif.beside (h : Hif) : Hif := { h.still with aptStatus := 0, aptFault := 0 }

theorem setAptStatus_beside (h : Hif) (bit addr : Nat) : (setAptStatus h bit addr).beside = h.beside := by
  unfold setAptStatus
  dsimp only
  refine (congrArg (fun h : Hif => { h with aptStatus := 0, aptFault := 0 }) (setCause_still _ 21)).trans ?_
  split <;> rfl

theorem setAptStatus_aptMode1 (h : Hif) (bit addr : Nat) : (setAptStatus h bit addr).aptMode1 = h.aptMode1 :=
  (congrArg Hif.aptMode1 (setAptStatus_beside h bit addr) : (setAptStatus h bit addr).beside.aptMode1 = h.beside.aptMode1)

theorem setAptStatus_aptRegion (h : Hif) (bit addr : Nat) : (setAptStatus h bit addr).aptRegion = h.aptRegion :=
  (congrArg Hif.aptRegion (setAptStatus_beside h bit addr) : (setAptStatus h bit addr).beside.aptRegion = h.beside.aptRegion)

/-! ## Where an access lies (R436, R437) -/

/-- The status of a MODE 1 access at A by whether all of its bytes lie in the region. -/
def rangeChecked (h : Hif) (a n size : Nat) : Hif := if a + n ≤ size then h else setAptStatus h 0 a

theorem rangeChecked_aptMode1 (h : Hif) (a n size : Nat) : (rangeChecked h a n size).aptMode1 = h.aptMode1 := by
  unfold rangeChecked
  split
  · rfl
  · exact setAptStatus_aptMode1 h 0 a

theorem rangeChecked_aptRegion (h : Hif) (a n size : Nat) : (rangeChecked h a n size).aptRegion = h.aptRegion := by
  unfold rangeChecked
  split
  · rfl
  · exact setAptStatus_aptRegion h 0 a

section
variable {s : State} {off n : Nat}

theorem bar2Check_shut (shut : bar2Open s.chip = false) :
    bar2Check s off n = (setAptStatus s.hif 4 (s.hif.aptBase + off), s.hif.aptBase + off, 0) :=
  if_pos (by simp [shut])

section
variable (opened : bar2Open s.chip = true) (mode1 : s.hif.aptMode1 = true)
include opened mode1

theorem bar2Check_undefined (undefined : memRegion? s.chip s.hif.aptRegion = none) : bar2Check s off n =
    (setAptStatus (setAptStatus s.hif 0 (s.hif.aptBase + off)) 1 (s.hif.aptBase + off), s.hif.aptBase + off, 0) := by
  have bound : bar2Bound s = none := by simp [bar2Bound, mode1, undefined]
  simp [bar2Check, opened, bound]

theorem bar2Check_region {r : MemRegion} (region : memRegion? s.chip s.hif.aptRegion = some r) : bar2Check s off n =
    (rangeChecked s.hif (s.hif.aptBase + off) n r.size, s.hif.aptBase + off,
      if s.hif.aptBase + off + n ≤ r.size then n else r.size - (s.hif.aptBase + off)) := by
  have bound : bar2Bound s = some r.size := by simp [bar2Bound, mode1, region]
  simp only [bar2Check, opened, bound, rangeChecked, Bool.not_true, Bool.false_eq_true, if_false]
  split <;> rfl

end
end

/-! ## Reads -/

theorem slice_nothing (n : Nat) : slice [] 0 n = List.replicate n 0#8 := by simp [slice]

theorem slice_whole {l : List Byte} {n : Nat} (whole : l.length = n) : slice l 0 n = l := by simp [slice, ← whole]

theorem apertureRead_nothing (s : State) (a : Nat) : apertureRead s a 0 = ([], 0, s.chip) := by
  unfold apertureRead
  split
  · split <;> rfl
  · rfl

section
variable {s : State} (reach : hpReach s.chip = true)
include reach

/-- A read of which no byte is performed gives zeros. -/
theorem bar2Read_nothing {off len a : Nat} {h : Hif} (checked : bar2Check s off len = (h, a, 0)) :
    bar2Read off len s = { s with hif := { h with readData := List.replicate len 0#8 } } := by
  simp only [bar2Read, reach, checked, apertureRead_nothing, slice_nothing, Bool.not_true, Bool.false_eq_true, if_false, if_true]

/-- A read whose bytes all lie in the region. -/
theorem bar2Read_inside {off len : Nat} {r : MemRegion} (opened : bar2Open s.chip = true) (mode1 : s.hif.aptMode1 = true)
    (region : memRegion? s.chip s.hif.aptRegion = some r) (inside : s.hif.aptBase + off + len ≤ r.size) :
    bar2Read off len s =
      (let x := readThrough s.chip (regionPlace r) (s.hif.aptBase + off) len true
       { s with
         chip := x.2.2
         hif := { (if x.2.1 = 0 then s.hif else setAptStatus s.hif 3 (s.hif.aptBase + off)) with readData := x.1 } }) := by
  have read : apertureRead s (s.hif.aptBase + off) len = readThrough s.chip (regionPlace r) (s.hif.aptBase + off) len true := by
    simp [apertureRead, mode1, region]
  have whole : (readThrough s.chip (regionPlace r) (s.hif.aptBase + off) len true).1.length = len := by simp [readThrough]
  simp only [bar2Read, reach, bar2Check_region opened mode1 region, rangeChecked, inside, read, slice_whole whole, Bool.not_true,
    Bool.false_eq_true, if_false, if_true]

end

theorem count_poisonReads (c : Chip) (slot event n : Nat) : (count c slot event n).poisonReads = c.poisonReads :=
  field_of_uncounted Chip.poisonReads (fun _ => rfl) (count_uncounted c slot event n)

theorem count_unwrittenReads (c : Chip) (slot event n : Nat) : (count c slot event n).unwrittenReads = c.unwrittenReads :=
  field_of_uncounted Chip.unwrittenReads (fun _ => rfl) (count_uncounted c slot event n)

theorem countReads_poisonReads (c : Chip) (words : List Place) :
    (countReads c words true).poisonReads = c.poisonReads + (words.map (wordAt c)).count .poisoned := by
  unfold countReads
  dsimp only
  rw [foldl_keeps Chip.poisonReads _ (fun _ _ => count_poisonReads _ _ _ _),
    foldl_keeps Chip.poisonReads _ (fun _ _ => count_poisonReads _ _ _ _)]
  rfl

theorem count_wordAt (c : Chip) (words : List Place) (x : WordState) :
    (words.map (wordAt c)).count x = (words.filter (fun p => wordAt c p = x)).length := by
  rw [List.count, List.countP_map, List.countP_eq_length_filter]
  exact congrArg List.length (List.filter_congr (fun p _ => beq_eq_decide (wordAt c p) x))

theorem countReads_unwrittenReads (c : Chip) (words : List Place) :
    (countReads c words true).unwrittenReads = c.unwrittenReads + (words.map (wordAt c)).count .unwritten := by
  unfold countReads
  dsimp only
  rw [foldl_keeps Chip.unwrittenReads _ (fun _ _ => count_unwrittenReads _ _ _ _),
    foldl_keeps Chip.unwrittenReads _ (fun _ _ => count_unwrittenReads _ _ _ _), count_wordAt c words .unwritten]

/-! ## Writes in MODE 1 (R214, R436 to R438) -/

/-- A write by its check: the status it sets, A, and how many of its bytes are performed. -/
structure WriteChecked (s : State) (off : Nat) (d : List Byte) (h : Hif) (a : Nat) (e : List Byte) : Prop where
  reach : hpReach s.chip = true
  status : (bar2Check s off d.length).1 = h
  place : (bar2Check s off d.length).2.1 = a
  performed : d.take (bar2Check s off d.length).2.2 = e
  area : touchesArea { s with hif := h } a e.length = false

section
variable {s : State} {off a : Nat} {d e : List Byte} {h : Hif} (checked : WriteChecked s off d h a e)
include checked

theorem bar2Write_performs (free : guardHit { s with hif := h } a e.length = none) :
    bar2Write off d s = { s with hif := h, chip := apertureWrite { s with hif := h } a e } := by
  obtain ⟨reach, status, place, performed, area⟩ := checked
  simp only [bar2Write, reach, status, place, performed, area, free, Bool.not_true, Bool.false_eq_true, if_false]

theorem bar2Write_discards {x : Surface × Nat} (hit : guardHit { s with hif := h } a e.length = some x) :
    bar2Write off d s = guardDiscard x a { s with hif := h } := by
  obtain ⟨reach, status, place, performed, area⟩ := checked
  simp only [bar2Write, reach, status, place, performed, area, hit, Bool.not_true, Bool.false_eq_true, if_false]

end

theorem apertureWrite_nothing (s : State) (a : Nat) : apertureWrite s a [] = s.chip := by
  unfold apertureWrite
  split
  · split
    · unfold writeRegion
      split <;> rfl
    · rfl
  · rfl

theorem touchesArea_nothing (s : State) (a : Nat) : touchesArea s a 0 = false := by simp [touchesArea, pageParts]

theorem guardHit_nothing (s : State) (a : Nat) : guardHit s a 0 = none := by simp [guardHit]

/-- A write of which no byte is performed sets its status alone. -/
theorem bar2Write_nothing {s : State} {off a : Nat} {d : List Byte} {h : Hif} (reach : hpReach s.chip = true)
    (check : bar2Check s off d.length = (h, a, 0)) : bar2Write off d s = { s with hif := h } := by
  have checked : WriteChecked s off d h a [] :=
    ⟨reach, by rw [check], by rw [check], by rw [check]; rfl, touchesArea_nothing _ a⟩
  rw [bar2Write_performs checked (guardHit_nothing _ a), apertureWrite_nothing]

section
variable {s : State} {r : MemRegion} (mode1 : s.hif.aptMode1 = true) (region : memRegion? s.chip s.hif.aptRegion = some r)
include mode1

theorem touchesArea_mode1 (a n : Nat) : touchesArea s a n = false := by simp [touchesArea, mode1]

include region

theorem guardHit_region (a : Nat) (e : List Byte) : guardHit s a e.length =
    if e = [] then none else (guardedSurface s.chip r a e.length).map (fun x => (x, a)) := by
  simp [guardHit, mode1, region]

theorem apertureWrite_region (a : Nat) (e : List Byte) : apertureWrite s a e = writeRegion s.chip r a e := by
  simp [apertureWrite, mode1, region]

end

/-- Settles O9: an access has the outcome of its check, and a write then that of the guard. -/
theorem aperturesReadAndWrite : Obligations.AperturesReadAndWrite := by
  refine ⟨⟨fun s off len reach shut => ?_, fun s off len reach opened mode1 undefined => ?_,
      fun s off len r reach opened mode1 region inside => ⟨?_, ?_, ?_⟩⟩,
    fun s off d reach shut => ?_, fun s off d r reach opened mode1 region => ?_⟩
  · exact congrArg Host.Outcome.next (bar2Read_nothing reach (bar2Check_shut shut))
  · exact congrArg Host.Outcome.next (bar2Read_nothing reach (bar2Check_undefined opened mode1 undefined))
  · exact countReads_poisonReads s.chip _
  · exact countReads_unwrittenReads s.chip _
  · exact congrArg Host.Outcome.next (bar2Read_inside reach opened mode1 region inside)
  · exact congrArg Host.Outcome.next (bar2Write_nothing reach (bar2Check_shut shut))
  · intro a inside h
    have check := bar2Check_region (off := off.toNat) (n := d.length) opened mode1 region
    have mode : h.aptMode1 = true := (rangeChecked_aptMode1 ..).trans mode1
    have same : memRegion? s.chip h.aptRegion = some r := by
      rw [show h.aptRegion = s.hif.aptRegion from rangeChecked_aptRegion ..]
      exact region
    have performed : d.take (if a + d.length ≤ r.size then d.length else r.size - a) = inside := by
      split
      · rw [List.take_length]
        exact (List.take_of_length_le (by omega)).symm
      · rfl
    have checked : WriteChecked s off.toNat d h a inside :=
      ⟨reach, by rw [check]; rfl, by rw [check], by rw [check]; exact performed, touchesArea_mode1 mode a _⟩
    have hit := guardHit_region (s := { s with hif := h }) mode same a inside
    refine ⟨fun free => congrArg Host.Outcome.next ?_, fun x some_ found => congrArg Host.Outcome.next ?_⟩
    · rw [bar2Write_performs checked (hit.trans ?_), apertureWrite_region mode same]
      by_cases nothing : inside = []
      · exact if_pos nothing
      · rw [if_neg nothing, free.resolve_left nothing]; rfl
    · refine (bar2Write_discards checked (x := (x, a)) (hit.trans ?_)).trans rfl
      rw [if_neg some_, found]; rfl

end Sys2Proof.Machine

/-!
PROOF. The clocks of the regions and the thermal agent (O60).
-/

namespace Sys2Proof.Machine

/-! ## ISLAND_CLOCK_STEP (R455) -/

/-- The rate that a region takes with its next step. -/
def nextRate (c : Chip) (u : Nat) : Nat :=
  let r := region c u
  if r.above then max 1400 (r.mhz - 100) else if r.limited then r.mhz else min c.cfg.regionMHz (r.mhz + 100)

section
variable {c : Chip} {u : Nat} (runs : running c = true) (serves : (region c u).inService = true)
include runs serves

theorem clockStep_serves : clockStep u c =
    if nextRate c u = (region c u).mhz then c
    else schedule (project false (updRegion c u (fun r => { r with mhz := nextRate c u }))) :=
  if_neg (by simp [runs, serves])

theorem clockStep_changes (other : nextRate c u ≠ (region c u).mhz) :
    clockStep u c = schedule (project false (updRegion c u (fun r => { r with mhz := nextRate c u }))) :=
  (clockStep_serves runs serves).trans (if_neg other)

theorem clockStep_keeps (same : nextRate c u = (region c u).mhz) : clockStep u c = c :=
  (clockStep_serves runs serves).trans (if_pos same)

end

/-! ## THERMAL_SAMPLE (R399, R455) -/

/-- What the sensors report: during a run of THERMAL, their last values. -/
def sampleTemps (c : Chip) (readings : List Int) : List Int := if (calDomain c 5).running then c.thermal.last else readings

/-- The sensors that a sample reads. -/
def sensorsRead (c : Chip) (temps : List Int) : List Nat :=
  (List.range 51).filter (fun k => sensorPresent c k && decide (k < temps.length))

/-- The sample is kept, and limits and frees the regions. -/
def sampled (c : Chip) (temps : List Int) : Chip :=
  (List.range 16).foldl (regionHeat temps)
    { c with
      thermal := { hot := hotRuns c temps, last := temps }
      start := { c.start with tjMax := ((sensorsRead c temps).map (fun k => temps.getD k 0)).foldl max c.start.tjMax } }

/-- Every sensor has been read, at 105.0 °C or below. -/
def allCool (c d : Chip) (temps : List Int) : Bool :=
  (sensorsRead c temps).length = (sensors d).length && (sensorsRead c temps).all (fun k => decide (temps.getD k 0 ≤ 210))

theorem allCool_iff (c d : Chip) (temps : List Int) : allCool c d temps = true ↔
    (sensorsRead c temps).length = (sensors d).length ∧ ∀ k ∈ sensorsRead c temps, temps.getD k 0 ≤ 210 := by
  simp [allCool]

/-- What a sample comes to: it ends a trip, starts one, or neither. -/
def sampleOutcome (d : Chip) (temps : List Int) (cool : Bool) (hot : Option (Nat × Nat)) : Chip :=
  if d.power.tripped then (if cool then updPower d (fun p => { p with tripped := false }) else d)
  else match hot with
    | some x => thermalTrip d x.1 (temps.getD x.1 0)
    | none => d

theorem thermalSample_runs {c : Chip} {readings : List Int} (runs : running c = true) : thermalSample readings c =
    (let temps := sampleTemps c readings
     sampleOutcome (sampled c temps) temps (allCool c (sampled c temps) temps) ((hotRuns c temps).find? (fun x => 10 ≤ x.2))) :=
  if_neg (by simp [runs])

section
variable {d : Chip} {temps : List Int} {cool : Bool} {hot : Option (Nat × Nat)}

theorem sampleOutcome_cools (tripped : d.power.tripped = true) (all : cool = true) :
    sampleOutcome d temps cool hot = updPower d (fun p => { p with tripped := false }) := by
  simp [sampleOutcome, tripped, all]

theorem sampleOutcome_stays (tripped : d.power.tripped = true) (warm : cool = false) : sampleOutcome d temps cool hot = d := by
  simp [sampleOutcome, tripped, warm]

theorem sampleOutcome_trips (on : d.power.tripped = false) {x : Nat × Nat} (found : hot = some x) :
    sampleOutcome d temps cool hot = thermalTrip d x.1 (temps.getD x.1 0) := by
  simp [sampleOutcome, on, found]

theorem sampleOutcome_passes (on : d.power.tripped = false) (none : hot = none) : sampleOutcome d temps cool hot = d := by
  simp [sampleOutcome, on, none]

end

/-- Settles O60: a step has the outcome of its rate, and a sample that of the trip and of the sensors' runs of hot samples. -/
theorem regionsAreClocked : Obligations.RegionsAreClocked := by
  refine fun s runs => ⟨fun u => ?_, fun readings => ?_⟩
  · exact fun serves => ⟨fun other => does_runLive rfl runs (clockStep_changes runs serves other),
      fun same => does_runLive rfl runs (clockStep_keeps runs serves same)⟩
  · have sample := fun {d : Chip} (taken : thermalSample readings s.chip = d) =>
      next_restartWhenDown (i := .thermalSample readings) rfl runs taken
    rw [thermalSample_runs runs] at sample
    exact ⟨fun tripped all => sample (sampleOutcome_cools tripped ((allCool_iff ..).mpr all)),
      fun tripped warm => sample (sampleOutcome_stays tripped (Bool.eq_false_iff.mpr (mt (allCool_iff ..).mp warm))),
      fun x on found => sample (sampleOutcome_trips on found),
      fun on none => sample (sampleOutcome_passes on none)⟩

end Sys2Proof.Machine

/-!
PROOF. Performance counters: `perf_config`, the reader and snapshots (O59).
-/

namespace Sys2Proof.Machine

/-! ## `perf_config` and `perf_snapshot` (R413 to R416, R420 to R422) -/

section
variable {e : Env} {c : Chip}

section
variable (grantClass : mf e 0x10 7 0 = 0xFF) (whole : mf e 0x10 15 8 = 0)
include grantClass whole

theorem perfConfigBody_grants {grant : Bool} (operand : (mw e 0x18).testBit 0 = grant) (other : c.perf.userGrant ≠ grant) :
    perfConfigBody e c =
      (raise (updPerf c (fun p => { p with userGrant := grant })) 0xA003 [w (if grant then 1 else 0)], ok []) := by
  subst operand
  exact (if_pos grantClass).trans ((if_neg (not_not.mpr whole)).trans (if_neg (Ne.symm other)))

theorem perfConfigBody_granted (same : c.perf.userGrant = (mw e 0x18).testBit 0) : perfConfigBody e c = (c, ok []) :=
  (if_pos grantClass).trans ((if_neg (not_not.mpr whole)).trans (if_pos same.symm))

end

theorem perfConfigBody_programs {first units present : Nat} (unitClass : mf e 0x10 7 0 ≠ 0xFF)
    (known : counterClass c (mf e 0x10 7 0) = some (first, units, present)) (inRange : mf e 0x10 15 8 < units)
    (has : mf e 0x10 15 8 < present) (event : eventOk (mf e 0x10 7 0) (mf e 0x10 18 16) (mf e 0x14 15 0) = true) :
    perfConfigBody e c = (updPerf c (fun p => { p with pending := p.pending ++
      [(first + mf e 0x10 15 8, mf e 0x10 18 16, mf e 0x14 15 0, (nowNs c / 1000 + 1) * 1000)] }), ok []) := by
  simp only [perfConfigBody, unitClass, known, event, Nat.not_le.mpr inRange, Nat.not_le.mpr has, if_false, decide_false,
    Bool.not_true, Bool.or_self, Bool.false_eq_true]

section
variable (kind : bufKindOk e (bufAt e 0x10) = true) (good : bufFault c (sid e) true (bufAt e 0x10) = none)
include kind good

theorem perfSnapshotBody_requests (enough : 7616 ≤ (bufAt e 0x10).len) : perfSnapshotBody e c =
    (updPerf (requestSnapshot c false).2 (fun p => { p with wanted := (requestSnapshot c false).1 }),
      { status := 0, held := some 0 }) := by
  have fits : ¬(bufAt e 0x10).len < snapBytes := Nat.not_lt.mpr enough
  simp only [perfSnapshotBody, kind, good, fits, Bool.not_true, Bool.false_eq_true, if_false]
  rfl

theorem perfSnapshotBody_short (short : (bufAt e 0x10).len < 7616) :
    perfSnapshotBody e c = (c, { status := 0x010C, result := [w 7616] }) := by
  have fails : (bufAt e 0x10).len < snapBytes := short
  simp only [perfSnapshotBody, kind, good, fails, Bool.not_true, Bool.false_eq_true, if_false, if_true]
  rfl

end
end

/-! ## Programming takes effect (R416) -/

/-- The programming whose instant has come. -/
def programDue (c : Chip) (x : Nat × Nat × Nat × Nat) : Bool := decide (programTime c x ≤ nowNs c)

/-- The programming that is due takes effect, with counts of 0. -/
def programsApplied (d : Chip) : Chip :=
  updPerf ((d.perf.pending.filter (programDue d)).foldl (fun d x => setCounter d { slot := x.1, idx := x.2.1, event := x.2.2.1 }) d)
    (fun p => { p with pending := p.pending.filter (fun x => !programDue d x) })

/-- A snapshot of the instant latches before programming takes effect. -/
def latchedBefore (c : Chip) (at_ : Nat) : Chip :=
  if c.perf.request.any (fun r => r.atNs ≤ max at_ (nowNs c)) then snapshotLatch c else c

theorem configApply_pending {c : Chip} (pending : c.perf.pending ≠ []) : configApply c =
    (let at_ := minOf (c.perf.pending.map (programTime c))
     programsApplied (advanceTo (latchedBefore c at_) at_)) := if_neg pending

/-! ## The latch and its end (R420, R421) -/

theorem snapshotLatch_latches {c : Chip} {r : SnapRequest} (request : c.perf.request = some r) (unlatched : r.latched = false) :
    snapshotLatch c =
      (let l := latchAll (advanceTo c r.atNs)
       updPerf l.1 (fun p =>
         { p with latched := l.2, request := some { r with latched := true }, snap := { p.snap with complete := false } })) := by
  simp only [snapshotLatch, request, unlatched, Bool.false_eq_true, if_false]

theorem snapshotDone_completes {c : Chip} {r : SnapRequest} (request : c.perf.request = some r) (latched : r.latched = true) :
    snapshotDone c =
      raise (updPerf c (fun p =>
        { p with
          snap := { seq := r.id, timeNs := r.atNs % 1000000000, timeS := w32 (r.atNs / 1000000000), complete := true
                    source := r.register, entries := p.latched }
          request := p.next.map (fun n => { n with atNs := max n.atNs ((nowNs c / 1000 + 1) * 1000) })
          next := none, latched := [] })) 0xA001
        [w r.id, w (r.atNs % 1000000000), w (w32 (r.atNs / 1000000000)), w (if r.register then 1 else 0)] := by
  simp only [snapshotDone, request, latched, Bool.not_true, Bool.false_eq_true, if_false]
  rfl

/-- The requests of the register (R440). -/
theorem registerSnapshot_requests {s : State} {v : U32} (runs : running s.chip = true) (reach : hpReach s.chip = true)
    (written : v.getLsbD 0 = true) : registerSnapshot v s =
      { s with chip := (requestSnapshot s.chip true).2, hif := { s.hif with prfLastId := w (requestSnapshot s.chip true).1 } } := by
  have bit : v.toNat.testBit 0 = true := written
  exact if_neg (by simp [runs, reach, bit])

/-! ## The response that waits for a snapshot -/

/-- Without a response held back nothing waits for a snapshot. -/
theorem answerSnapshot_none {s : State} (quiet : s.chip.cci.held = none) : answerSnapshot s = s := by
  simp [answerSnapshot, quiet]

theorem held_of_atRest {c d : Chip} (h : c.atRest = d.atRest) : c.cci.held = d.cci.held :=
  (congrArg (fun c : Chip => c.cci.held) h : c.atRest.cci.held = d.atRest.cci.held)

/-- Delivery writes no response where none is held. -/
theorem run_held_none {s : State} {f : Chip → Chip} (quiet : (f s.chip).cci.held = none) : (s.run f).chip.cci.held = none := by
  have delivered : (flush { s with chip := f s.chip }).chip.cci.held = none := (held_of_atRest (flush_atRest _)).trans quiet
  unfold State.run
  rw [settleAborts_none delivered, delivered]

theorem drawEvents_cci (c : Chip) (slot : Nat) : (drawEvents c slot).cci = c.cci := by
  unfold drawEvents
  split
  · rfl
  · exact foldl_keeps Chip.cci _ (fun a event => by
      split
      · exact count_cci _ _ _ _
      · rfl) freeEvents c

theorem latchAll_cci (c : Chip) : (latchAll c).1.cci = c.cci := foldl_keeps Chip.cci drawEvents drawEvents_cci slots c

/-- The window of the reader after a pass (R419). -/
def passed (c : Chip) : Chip :=
  let l := latchAll c
  updPerf l.1 (fun p => { p with live :=
    { seq := w32 (p.live.seq + 1), timeNs := c.time.ns.toNat, timeS := w32 c.time.sec.toNat, complete := true, entries := l.2 } })

theorem passed_cci (c : Chip) : (passed c).cci = c.cci := by
  unfold passed
  rw [updPerf_cci, latchAll_cci]

theorem exec_readerPass {s : State} (runs : running s.chip = true) :
    exec .readerPass s = .next (answerSnapshot (s.run (fun _ => passed s.chip))) := by
  have pass : readerPass s.chip = passed s.chip := if_neg (by simp [runs])
  show Host.Outcome.next (answerSnapshot (s.runLive readerPass)) = _
  rw [State.runLive, if_pos runs, State.run, pass]
  rfl

theorem exec_prfSnapshotDone {s : State} {d : Chip} (done : snapshotDone s.chip = d) :
    exec .prfSnapshotDone s = .next ((answerSnapshot { s with chip := d }).run id) := by
  subst done; rfl

theorem does_prfSnapshotDone {s : State} {d : Chip} (done : snapshotDone s.chip = d) (quiet : d.cci.held = none) :
    Does .prfSnapshotDone s d := by
  rw [Does, exec_prfSnapshotDone done, answerSnapshot_none quiet]
  rfl

/-- Settles O59: a message is its body under the checks of its rule, and each command of the reader is its operation, with the
response that waits for a snapshot written where one is held. -/
theorem countersAreRead : Obligations.CountersAreRead := by
  refine ⟨fun s via m k admitted => ?_, fun s via m k admitted => ?_, fun s runs => ?_⟩
  · have answers := fun {c r} => answered_cci (c := c) (r := r) (i := .perfConfig via) rfl admitted rfl
    exact ⟨fun grantClass whole other => answers (perfConfigBody_grants grantClass whole rfl other),
      fun grantClass whole same => answers (perfConfigBody_granted grantClass whole same),
      fun _ _ _ unitClass known inRange has event => answers (perfConfigBody_programs unitClass known inRange has event)⟩
  · have answers := fun {c r} => answered_cci (c := c) (r := r) (i := .perfSnapshot via) rfl admitted rfl
    exact fun kind good => ⟨fun enough => answers (perfSnapshotBody_requests kind good enough),
      fun short => answers (perfSnapshotBody_short kind good short)⟩
  · refine ⟨fun pending => does_runLive rfl runs (configApply_pending pending),
      fun r request unlatched => does_runLive rfl runs (snapshotLatch_latches request unlatched), ⟨?_, fun quiet => ?_⟩,
      fun r request latched => ⟨?_, fun quiet => ?_⟩, fun v reach written => ?_⟩
    · exact exec_readerPass runs
    · have still : (passed s.chip).cci.held = none := by rw [passed_cci, quiet]
      exact (exec_readerPass runs).trans (congrArg Host.Outcome.next (answerSnapshot_none (run_held_none still)))
    · exact exec_prfSnapshotDone (snapshotDone_completes request latched)
    · exact does_prfSnapshotDone (snapshotDone_completes request latched) quiet
    · exact congrArg Host.Outcome.next (registerSnapshot_requests runs reach written)

end Sys2Proof.Machine

/-!
PROOF. Calibration: `calib_run`, automatic runs, the end of a run, trim and the record (O58).
-/

namespace Sys2Proof.Machine

/-! ## A run starts (R398 to R401) -/

/-- A run of a domain that has units begins: STALE is set, and the units are noted. -/
def runBegun (c : Chip) (d job : Nat) : Chip :=
  let units := calUnits c d
  let c := updCal c d (fun x => { x with
    stale := true, running := true, job := job, units := units
    startDelta := (units.flatMap (itemsOfUnit d)).map (fun i => (i, look c.cal.deltas i 0)) })
  noteLanes { c with cal := { c.cal with fresh := c.cal.fresh.filter (fun i => domainOf i ≠ d) } } d units

section
variable {c : Chip} {d : Nat}

theorem startRun_done (noUnit : calUnits c d = []) (job : Nat) : startRun c d job =
    (let a := calReport (updCal c d (fun x => { x with stale := false, lastFailed := false })) d job 0 []
     endJob a job .completed 0 0 (calResult a d 0 0)) := if_pos noUnit

section
variable (units : calUnits c d ≠ [])
include units

theorem startRun_begins (other : d ≠ 4) (job : Nat) : startRun c d job = runBegun c d job :=
  (if_neg units).trans (if_neg other)

/-- A run of MEMORY pauses every channel that it calibrates. -/
theorem startRun_pauses (memory : d = 4) (job : Nat) : startRun c d job =
    startPauses ((calUnits c d).foldl (fun c u => pauseFor c true (u / 4) (u % 4)) (runBegun c d job)) :=
  (if_neg units).trans (if_pos memory)

end
end

theorem calibRunBody_accepts {e : Env} {c : Chip} (low : 0 < mf e 0x10 7 0) (high : mf e 0x10 7 0 ≤ 5)
    (room : c.cci.jobs.length < 192) : calibRunBody e c =
      (startRun (newJob c 0x41 (tagOf e) (sid e) []).2 (mf e 0x10 7 0) c.cci.nextJob,
        { status := 1, result := [w c.cci.nextJob] }) := by
  have inRange : ¬(decide (mf e 0x10 7 0 = 0) || decide (5 < mf e 0x10 7 0)) = true := by
    rw [Bool.or_eq_true, decide_eq_true_eq, decide_eq_true_eq]
    omega
  have free : ¬jobsFull c = true := by simpa [jobsFull] using room
  exact (if_neg inRange).trans (if_neg free)

/-- The domains that run by time or temperature have units on every part. -/
theorem calUnits_automatic (c : Chip) {d : Nat} (automatic : d = 1 ∨ d = 2 ∨ d = 5) : calUnits c d ≠ [] := by
  obtain rfl | rfl | rfl := automatic
  · exact nofun
  · show List.range (quadCount c) ≠ []
    rw [Ne, List.range_eq_nil, quadCount]
    split <;> decide
  · have first : 0 ∈ sensors c := by simp [sensors, sensorPresent]
    exact List.ne_nil_of_mem first

theorem autoRun_starts {c : Chip} {d : Nat} (serves : smServes c = true) (released : c.start.st = .released)
    (automatic : d = 1 ∨ d = 2 ∨ d = 5) (free : calBusy c d = false) : autoRun d c = runBegun c d 0 := by
  have listed : [1, 2, 5].contains d = true := by simpa using automatic
  have other : d ≠ 4 := by omega
  rw [← startRun_begins (calUnits_automatic c automatic) other 0]
  exact if_neg (by rw [serves, released, listed, free]; decide)

/-! ## A run ends (R399, R400, R402 to R405) -/

/-- The units of the run that fail, and those that pass. -/
def unitsFailed (c : Chip) (d : Nat) (r : CalReport) : List Nat := (calDomain c d).units.filter (unitFails c d r)
def unitsPassed (c : Chip) (d : Nat) (r : CalReport) : List Nat :=
  (calDomain c d).units.filter (fun u => !unitFails c d r u)

/-- The corrections of the units that pass are in force. -/
def correctionsTaken (c : Chip) (d : Nat) (r : CalReport) : Chip :=
  let items := (unitsPassed c d r).flatMap (itemsOfUnit d)
  let a := takeFound c (calDomain c d) r.found items
  let a := { a with cal := { a.cal with fresh := items ++ a.cal.fresh } }
  applyTrims (if d = 3 then (unitsFailed c d r).foldl restoreTaps a else a) items

/-- The run is over, counted and reported, but for its job. -/
def runEnded (c : Chip) (d : Nat) (r : CalReport) : Chip :=
  let failed := unitsFailed c d r
  let done := unitsPassed c d r
  let a := updCal (correctionsTaken c d r) d (fun y =>
    { y with running := false, job := 0, units := [], stale := decide (failed ≠ []), lastFailed := decide (failed ≠ []) })
  calReport (if done ≠ [] ∧ d ≠ 4 then countRun a d else a) d (calDomain c d).job done.length failed

section
variable {c : Chip} {d : Nat} {r : CalReport} (runs : (calDomain c d).running = true)
include runs

theorem runDone_runs : runDone d r c =
    (let job := (calDomain c d).job
     let done := (unitsPassed c d r).length
     let a := runEnded c d r
     if unitsFailed c d r = [] then endJob a job .completed 0 0 (calResult a d done 0)
     else endJob a job .failed 0x010E 0 (calResult a d done (unitsFailed c d r).length)) := by
  have counts : ∀ a : Chip, (if (decide (unitsPassed c d r ≠ []) && decide (d ≠ 4)) = true then countRun a d else a) =
      if unitsPassed c d r ≠ [] ∧ d ≠ 4 then countRun a d else a := fun a => by simp
  unfold runEnded
  dsimp only
  rw [← counts]
  exact if_neg (by simp [runs])

theorem runDone_passes (passed : unitsFailed c d r = []) : runDone d r c =
    endJob (runEnded c d r) (calDomain c d).job .completed 0 0 (calResult (runEnded c d r) d (unitsPassed c d r).length 0) :=
  (runDone_runs runs).trans (if_pos passed)

theorem runDone_fails (failed : unitsFailed c d r ≠ []) : runDone d r c =
    endJob (runEnded c d r) (calDomain c d).job .failed 0x010E 0
      (calResult (runEnded c d r) d (unitsPassed c d r).length (unitsFailed c d r).length) :=
  (runDone_runs runs).trans (if_neg failed)

end

/-! ## Trim and the record (R404, R405, R407) -/

/-- I(Tj) of every item by the last temperatures. -/
def deltasTaken (c : Chip) : Chip := { c with cal := { c.cal with deltas := (trimItems c).map (fun i => (i, tempDelta c i)) } }

section
variable {c : Chip} (runs : running c = true) (serves : smServes c = true)
include runs serves

theorem trimEvaluate_evaluates (raw : List Int) : trimEvaluate raw c =
    (let c := deltasTaken (readSensors raw c)
     applyTrims c ((trimItems c).filter (fun i => !(calDomain c (domainOf i)).stale))) :=
  if_neg (by simp [runs, serves])

theorem calRecords_records : calRecords c = calRecord (calRecord (calRecord (calRecord (calRecord c 1) 2) 3) 4) 5 :=
  if_neg (by simp [runs, serves])

end

/-- Settles O58: a run starts, begins or ends by its units, and trim and the record are taken while a pair serves. -/
theorem domainsAreCalibrated : Obligations.DomainsAreCalibrated := by
  refine ⟨fun s via m k admitted => ?_,
    fun s runs serves => ⟨fun d released automatic free => ?_, fun d r => ?_, fun raw => ?_, ?_⟩⟩
  · intro e c d n j takes begun low high free room
    have accepted : takes (startRun n d j) := answered_cci rfl admitted free (calibRunBody_accepts low high room)
    exact ⟨fun noUnit => (congrArg takes (startRun_done noUnit j)).mp accepted,
      fun units other => (congrArg takes (startRun_begins units other j)).mp accepted,
      fun units memory => (congrArg takes (startRun_pauses units memory j)).mp accepted⟩
  · exact does_runLive rfl runs (autoRun_starts serves released automatic free)
  · exact fun on => ⟨fun passed => does_runLive rfl runs (runDone_passes on passed),
      fun failed => does_runLive rfl runs (runDone_fails on failed)⟩
  · exact does_runLive rfl runs (trimEvaluate_evaluates runs serves raw)
  · exact does_runLive rfl runs (calRecords_records runs serves)

end Sys2Proof.Machine

/-!
PROOF. Memory controllers and trunk links fail (O53), and the faults of the whole section (O54).
-/

namespace Sys2Proof.Machine

/-! ## Memory controllers (R379, R381) -/

/-- The failed transfers in a row of each channel, after a heartbeat's report of each. -/
def transfersCounted (c : Chip) (mc : Nat) (failed : List Nat) : Chip :=
  updMc c mc (fun m => { m with failedTransfers := (List.range 4).map (fun ch =>
    if failed.getD ch 0 = 0 then 0 else m.failedTransfers.getD ch 0 + failed.getD ch 0) })

section
variable {c : Chip} {mc : Nat} (runs : running c = true) (ok : mcOk c mc = true) {failed : List Nat}
include runs ok

theorem heartbeat_counts : heartbeat mc failed c =
    if (nth (transfersCounted c mc failed).mcs mc).failedTransfers.any (16 ≤ ·) then mcFault mc 5 (transfersCounted c mc failed)
    else transfersCounted c mc failed :=
  if_neg (by simp [runs, ok])

theorem heartbeat_fails (many : (nth (transfersCounted c mc failed).mcs mc).failedTransfers.any (16 ≤ ·) = true) :
    heartbeat mc failed c = mcFault mc 5 (transfersCounted c mc failed) :=
  (heartbeat_counts runs ok).trans (if_pos many)

theorem heartbeat_passes (few : (nth (transfersCounted c mc failed).mcs mc).failedTransfers.any (16 ≤ ·) = false) :
    heartbeat mc failed c = transfersCounted c mc failed :=
  (heartbeat_counts runs ok).trans (if_neg (by simp [few]))

end

theorem relocated_relocates {c : Chip} {mc : Nat} (runs : running c = true) (serves : smServes c = true)
    (isolated : isolation? c 3 mc ≠ none) : relocated mc c = relocateArea mc (relocateArea mc c 2) 3 := by
  have known : (isolation? c 3 mc).isNone = false := by simpa [Option.isSome_iff_ne_none] using isolated
  exact if_neg (by simp [runs, serves, known])

/-- The causes that Table 14-2 lists for a memory controller. -/
theorem listed_controller (cause : Nat) : Listed 3 cause ↔ (causesOf 3).contains cause = true ∨ cause = 6 := by
  simp [Listed]

/-! ## Trunk links (R380) -/

/-- The link is out, and FLT_LINK tells how many are. -/
def linkOut (c : Chip) (stop : Nat) (south : Bool) : Chip :=
  let key := stop + b01 south * 256
  let c := updFaults (beginIsolation c 12 key 5) (fun f => { f with links := (stop, south) :: f.links })
  raiseKey c 0xC007 12 5 key 0 [w c.faults.links.length]

/-- The regions and controllers that some flow no longer reaches fail, and what stands at the edges with them. -/
def cutOff (links : List (Nat × Bool)) (c : Chip) : Chip :=
  let regions := (List.range 16).filter (fun u => regionServes c u && (toRegion c).any (fun a => flowBroken links a (regionStop u)))
  let mcs := (mcsInService c).filter (fun m => (toMc c).any (fun a => flowBroken links a (mcStop m)))
  isolateEdges (mcs.foldl (fun c m => mcFault m 5 c) (regions.foldl (fun c u => regionFault u 5 c) c))

/-- Table 1-9: a stop has the link, south or east. -/
def linkExists (stop : Nat) (south : Bool) : Prop := if south then stop < 24 else stop % 8 ≠ 7

theorem trunkFault_cuts {c : Chip} {stop : Nat} {south : Bool} (runs : running c = true)
    (whole : c.faults.links.contains (stop, south) = false) (present : linkExists stop south) :
    trunkFault stop south c = cutOff ((stop, south) :: c.faults.links) (linkOut c stop south) := by
  have listed : ¬(if south = true then 24 ≤ stop else stop % 8 = 7) := by
    cases south <;> simpa [linkExists] using present
  exact if_neg (by rw [runs, whole]; simpa using listed)

/-- Settles O53: a controller fails by a listed cause or by its failed transfers, and a link takes with it what it cuts off. -/
theorem controllersAndLinksFail : Obligations.ControllersAndLinksFail := by
  refine ⟨fun s mc runs ok => ⟨fun cause listed => ?_, fun cause unlisted other => ?_,
      fun l => ⟨fun few => ?_, fun many => ?_⟩⟩,
    fun s mc runs serves isolated => ?_, fun s stop south runs whole present => ?_⟩
  · exact does_listed rfl ((listed_controller cause.val).mpr listed) rfl
  · refine does_nothing_unlisted rfl (fun listed => ?_)
    exact ((listed_controller cause.val).mp listed).elim (by rw [unlisted]; nofun) other
  · exact does_run rfl (heartbeat_passes runs ok few)
  · exact does_run rfl (heartbeat_fails runs ok many)
  · exact does_run rfl (relocated_relocates runs serves isolated)
  · exact does_run rfl (trunkFault_cuts runs whole present)

/-! ## Time votes, the endpoint, and faults outside isolation (R377, R379, R384) -/

section
variable {c : Chip} {k : Nat} (present : c.time.copies.contains k = true)
include present

/-- The copies that remain after a vote against one. -/
def copiesLeft (c : Chip) (k : Nat) : List Nat := if votedLately c k then c.time.copies.filter (· ≠ k) else c.time.copies

theorem timeVote_counts (enough : 3 ≤ c.time.copies.length) : timeVote k c =
    raiseKey { c with time := { c.time with copies := copiesLeft c k, lastVote := put c.time.lastVote k (nowNs c) } }
      0xC00A 14 2 0 0 [w (copiesLeft c k).length] :=
  (if_neg (by rw [present]; nofun)).trans (if_neg (by omega))

theorem timeVote_outside (few : c.time.copies.length < 3) : timeVote k c =
    outside { c with free := c.free + 1 } (Config.freeValue c.free % 256) 14 2 0 :=
  (if_neg (by rw [present]; nofun)).trans (if_pos (by omega))

end

theorem endpointFault_isolates {c : Chip} (up : c.pcie.linkDown = false) : endpointFault c =
    raiseKey { beginIsolation c 15 0 5 with pcie := { c.pcie with linkDown := true } } 0xC006 15 5 0 0 [0] :=
  if_neg (by simp [up])

/-! ## The pair of the Stationmaster (R390 to R393) -/

section
variable {c : Chip} {a : Nat} (runs : running c = true) (active : c.sm.active = some a)
include runs active

theorem takeover_relief {r : Nat} (relief : c.sm.relief = some r) (cause anew : Nat) (appended : Bool) :
    takeover cause anew appended c =
      resumeShutdown appended (interruptJobs (raiseKey
        { beginIsolation c 11 a cause with sm := { c.sm with active := some r, relief := none } } 0xC010 11 cause a 0
        [w r, w (carried c).length, w anew])) := by
  unfold takeover
  rw [active]
  dsimp only
  rw [if_neg (by simp [runs]), show (beginIsolation c 11 a cause).sm.relief = some r from relief]
  rfl

theorem takeover_none (relief : c.sm.relief = none) (cause anew : Nat) (appended : Bool) :
    takeover cause anew appended c =
      noStationmaster { beginIsolation c 11 a cause with sm := { c.sm with active := none } } cause a := by
  have kept : (beginIsolation c 11 a cause).sm = c.sm := rfl
  simp only [takeover, active, runs, kept, relief, Bool.not_true, Bool.false_eq_true, if_false]

end

/-- What follows a takeover that led to `t`: where another pair is active, the message in hand is carried out. -/
def afterTakeover (x : TakeoverReport) (s t : State) : State :=
  if t.chip.sm.active = s.chip.sm.active then t
  else match x.inHand with
    | some (via, _) => carryOn via t
    | none => t

theorem exec_fltTakeover (x : TakeoverReport) (s : State) : exec (.fltTakeover x) s = .next (afterTakeover x s
    (s.run (whereListed 11 x.cause.val (takeover x.cause.val (anewOf x s) x.recordAppended)))) := rfl

theorem exec_fltTakeover_listed {s : State} {x : TakeoverReport} {c : Chip} (listed : Listed 11 x.cause.val)
    (taken : takeover x.cause.val (anewOf x s) x.recordAppended s.chip = c) :
    exec (.fltTakeover x) s = .next (afterTakeover x s (settleAborts (flush { s with chip := c }))) := by
  rw [exec_fltTakeover, State.run, whereListed_of_listed listed, taken]

/-- A cause that Table 14-2 does not list takes no pair out of service. -/
theorem does_fltTakeover_unlisted {s : State} {x : TakeoverReport} (unlisted : ¬Listed 11 x.cause.val) :
    Does (.fltTakeover x) s s.chip := by
  have same : (s.run id).chip.sm.active = s.chip.sm.active := congrArg Sm.active (run_sm id s)
  rw [Does, exec_fltTakeover, State.run, whereListed_of_not_listed unlisted]
  exact congrArg Host.Outcome.next (if_pos same)

theorem listed_pair (cause : Nat) : Listed 11 cause ↔ (causesOf 11).contains cause = true := by simp [Listed]

/-- The relief is isolated. -/
def reliefOut (c : Chip) (cause r : Nat) : Chip :=
  raiseKey { beginIsolation c 11 r cause with sm := { c.sm with relief := none } } 0xC006 11 cause r 0 [0]

section
variable {c : Chip} {r : Nat} (runs : running c = true) (relief : c.sm.relief = some r)
include runs relief

theorem reliefFault_runs (cause : Nat) : reliefFault cause c =
    if c.sm.active.isNone then noStationmaster (reliefOut c cause r) cause r else reliefOut c cause r := by
  have kept : (reliefOut c cause r).sm.active = c.sm.active := by rw [reliefOut, raiseKey_sm]
  unfold reliefFault
  rw [relief, ← kept]
  exact if_neg (by simp [runs])

theorem reliefFault_serves {a : Nat} (active : c.sm.active = some a) (cause : Nat) :
    reliefFault cause c = reliefOut c cause r := by
  rw [reliefFault_runs runs relief, active]
  rfl

theorem reliefFault_none (active : c.sm.active = none) (cause : Nat) :
    reliefFault cause c = noStationmaster (reliefOut c cause r) cause r := by
  rw [reliefFault_runs runs relief, active]
  rfl

end

/-- Settles O54: each fault of the section is its operation, and a takeover goes on with the message in hand. -/
theorem sectionFaults : Obligations.SectionFaults := by
  refine fun s => ⟨fun k present enough => ?_, fun k present few => ?_, fun up => ?_, fun high => ⟨?_, ?_, ?_⟩,
    fun runs => ⟨fun a x active listed => ?_, fun x unlisted => ?_,
      fun a r cause listed active relief => ?_, fun r cause listed active relief => ?_⟩⟩
  · exact does_run rfl (timeVote_counts present enough)
  · exact does_run rfl (timeVote_outside present few)
  · exact does_run rfl (endpointFault_isolates up)
  · exact does_run rfl (if_neg (by simp [high]))
  · exact does_run rfl (if_neg (by simp [high]))
  · exact does_run rfl (if_neg (by simp [high]))
  · intro c goesOn
    have takes : ∀ d, takeover x.cause.val (anewOf x s) x.recordAppended s.chip = d → goesOn d := fun d taken =>
      exec_fltTakeover_listed ((listed_pair _).mpr listed) taken
    exact ⟨fun r relief => takes _ (takeover_relief runs active relief _ _ _),
      fun relief => takes _ (takeover_none runs active relief _ _ _)⟩
  · exact does_fltTakeover_unlisted (fun listed => by rw [(listed_pair _).mp listed] at unlisted; cases unlisted)
  · exact does_listed rfl ((listed_pair _).mpr listed) (reliefFault_serves runs relief active cause.val)
  · exact does_listed rfl ((listed_pair _).mpr listed) (reliefFault_none runs relief active cause.val)

end Sys2Proof.Machine
